-- ==== Sys2Proof/Word.lean ====
section
/-! DEFINITION. The word types of the KX9 and their plainest arithmetic (R4, R9). -/

namespace Sys2Proof

/-- A 64-bit register value, program counter or address while it is computed (R24, R38). -/
abbrev Word := BitVec 64

/-- One byte. -/
abbrev Byte := BitVec 8

/-- A mask with one bit per lane of a group (R14). -/
abbrev LaneMask := BitVec 32

/-- The 96 bits of one instruction (R136). -/
abbrev Slot := BitVec 96

end Sys2Proof
end

