-- ==== Sys2Proof/Config.lean ====
section
/-! DEFINITION. What an implementation fixes and what the spec leaves open: opaque constants, of which nothing can be
proved, so a statement holds whatever they are. -/

namespace Sys2Proof.Config

/-- A free value (R6): any value of 64 bits, drawn with a plain counter of the state (log 1). -/
opaque freeWord : Nat → Word

/-- A free choice between two outcomes that the spec leaves open (R134, R143, R355), drawn with the same counter (log 1). -/
opaque freeBit : Nat → Bool

/-- A latency that the spec gives with the word "about" (R13), in cycles, by a number that names the operation (log 2). -/
opaque about : Nat → Nat

/-- A delay of an engine whose pace the spec leaves open, in cycles, drawn with the counter (log 2). -/
opaque pace : Nat → Nat

/-- The package id of this package in its load-store domain (R91, R406) (log 13). -/
opaque package : BitVec 6

/-- The domain table that firmware writes at bring-up (R406, R412): package, mask of its ports, and pairing of polders, in which bits
4p + 2 to 4p name the peer's polder for polder p and bit 4p + 3 says that there is one (log 13). -/
opaque domainTable : List (Nat × Nat × Nat)

/-- What a peer package makes of a page: 0 no page, 1 an ordinary page, any other number a majority page; by package, polder and page
(R87, R348) (log 13). -/
opaque peerPage : Nat → Nat

/-- SHAKE256 with 32 bytes of output (R374, R384) (log 8). -/
opaque shake256 : List Byte → BitVec 256

/-- Falcon-1024 verification of a signature (R384): public key, message, signature (log 8). -/
opaque falconVerify : List Byte → List Byte → List Byte → Bool

/-- A Falcon-1024 signature by the device's identity key (R381) (log 8). -/
opaque falconSign : List Byte → List Byte

/-- One unit in AES-256 XTS under the tenant key of a draw, with a tweak (R374, R388) (log 8). -/
opaque xts : Nat → Nat → List Byte → List Byte

/-- The keyed integrity tag of a sealed image (R374) (log 8). -/
opaque sealTag : Nat → List Byte → BitVec 256

/-- The bytes of the Falcon-1024 identity public key that the device made at manufacture (R381) (log 8). -/
opaque identityByte : Nat → Byte
/-- The public key, of 1,793 bytes (R381). -/
def identityKey : List Byte := (List.range 1793).map identityByte
/-- The device's identity digest (R381). -/
def identity : BitVec 256 := shake256 identityKey

/-- What a measurement block holds that no rule forms from the state: of block 5, the fuse configuration (R383) (log 8). -/
opaque measured : Nat → List Byte

/-- Whether a firmware image verifies (R410) (log 8). -/
opaque fwGood : List Byte → Bool

/-- The security version of a firmware image, the empty one standing for the factory's (R385) (log 8). -/
opaque fwSvn : List Byte → Nat

/-- The state-table version of a firmware image, major and minor (R409) (log 8). -/
opaque fwTable : List Byte → Nat × Nat

/-- The stage-2 leaves that the trust root gives a new polder, by its handle: page, level, entry (R350, R384) (log 15). -/
opaque stage2 : Nat → List (Nat × Nat × Word)

/-- What the host's IOMMU makes of a page of the host bus: its page, or none where the host fails the page request (R350) (log 15). -/
opaque ats : Nat → Option Nat

/-- The stage-2 DWS entries of a new polder, by its handle: frame and entry (R351) (log 15). -/
opaque stage2Dws : Nat → List (Nat × Word)

/-- The intermediate frames of its DWS window (R351) (log 15). -/
opaque window : Nat → List Nat

/-- The intermediate address of its stage-1 queue table (R332) (log 15). -/
opaque queueTable : Nat → Nat

/-- The bits of a byte of a function's configuration space that software clears by writing 1 (R391) (log 16). -/
opaque statusBits : Nat → Byte

/-- The configuration offset of the physical function's SR-IOV capability (R391, R399) (log 16). -/
opaque srIovAt : BitVec 12

/-- The contents of an SPDM answer that the spec does not lay out, by request and counter (log 8). -/
opaque spdmBody : Nat → Nat → List Byte

end Sys2Proof.Config
end

