-- ==== Sys2Proof/Syntax.lean ====
section
/-! DEFINITION. The instructions of the KX9: one constructor of `Instr` for every row of spec/opcode_table.json.
The first 156 are the forms of the 127 opcodes of R140; they carry the header of R136 and the operands of their
format (R139). The others are the steps of the table that have no encoding: they carry the unit they act on and the
value that the outside world or the engine supplies. -/

namespace Sys2Proof

/-- The sixteen type codes (R105), in the order of their codes. -/
inductive Ty where
  | i32 | u32 | i64 | u64 | i8x8 | u8x8 | i16x4 | u16x4
  | f64 | f32 | f32x2 | f16x4 | bf16x4 | log6x10 | i32x2 | u32x2
  deriving DecidableEq, Repr

/-- A source operand with its kind (R138): kind 00, kind 01, kind 10. -/
inductive Src where
  | v (n : BitVec 8)
  | s (n : BitVec 8)
  | zero
  deriving DecidableEq, Repr

/-- An index operand of format M (R139): `ixk` 0 or 1. -/
inductive Ix where
  | v (n : BitVec 8)
  | s (n : BitVec 8)
  deriving DecidableEq, Repr

/-- A uniform operand that `bimm` may replace by the immediate (R169, R205, R225). -/
inductive USrc where
  | reg (n : BitVec 8)
  | imm (x : BitVec 32)
  deriving DecidableEq, Repr

/-- The header of every instruction but `opc` and `mod` (R136). -/
structure Hdr where
  pr : BitVec 3
  pn : Bool
  lf : Bool
  fs : Bool
  deriving DecidableEq, Repr

/-- Rounding fields of the floating-point layout (R175, R176). -/
structure Rnd where
  dyn : Bool
  rm  : BitVec 2
  deriving DecidableEq, Repr

/-- A source modifier (R177). -/
structure Mod where
  abs : Bool
  neg : Bool
  deriving DecidableEq, Repr

/-- The addressing fields that `ld`, `st`, `atom` and `cas` share (R195). -/
structure MAddr where
  rc    : BitVec 4
  ix    : Ix
  scope : BitVec 3
  order : BitVec 2
  width : BitVec 4
  off   : BitVec 24
  deriving DecidableEq, Repr

/-- The fields of `mma` and `mma.batch` (R227). -/
structure MmaF where
  ty    : Ty
  areg  : BitVec 8
  breg  : BitVec 8
  tile  : BitVec 5
  conv  : BitVec 3
  fw    : BitVec 8
  shape : BitVec 4
  sat   : Bool
  zacc  : Bool
  deriving DecidableEq, Repr

/-- A message between control cores, trust root and host (R273): header and up to 64 bytes in eight words. -/
structure Msg where
  seq    : Nat
  fn     : Nat
  length : Nat
  words  : List Word
  deriving DecidableEq, Repr

/-- A 32-byte error report (R425). -/
structure Report where
  cls    : Nat
  source : Nat
  cd     : Nat
  unit   : Nat
  polder : Option Nat
  addr   : Nat
  time   : Nat
  launch : Nat
  deriving DecidableEq, Repr

/-- The store and unit that an error strikes (R423). -/
inductive ErrTarget where
  | vreg (grp reg : Nat)
  | otherReg (grp cls reg : Nat)
  | tileEntry (grp key : Nat)
  | shared (blk off : Nat)
  | dws (cd addr : Nat)
  | spill (grp off : Nat)
  | dram (addr : Nat)
  | fetchLine (part line : Nat)
  | link (n : Nat)
  | anchor (what : Nat)
  deriving DecidableEq, Repr

/-- What resets a virtual function: the host's command, or a function-level reset over the link (R390). -/
inductive VfReset where
  | command (polder : Nat)
  | functionLevel (polder : Nat)
  deriving DecidableEq, Repr

/-- The measurement block that a request asks for, and whether the request comes in the function's session (R383). -/
structure MeasBlock where
  idx     : Nat
  secured : Bool
  deriving DecidableEq, Repr

/-- The instructions and steps of the KX9, one for every row of spec/opcode_table.json. -/
inductive Instr where
  -- control (R146 to R156)
  | bra (h : Hdr) (loff : BitVec 32) (slot : BitVec 3)
  | brx (h : Hdr) (lr : BitVec 8)
  | brxU (h : Hdr) (lr : BitVec 8)
  | call (h : Hdr) (lr : BitVec 8) (loff : BitVec 32) (slot : BitVec 3)
  | callR (h : Hdr) (lr tr : BitVec 8)
  | ret (h : Hdr) (lr : BitVec 8)
  | exit (h : Hdr)
  | joinEnrol (h : Hdr) (jn : BitVec 4)
  | joinWait (h : Hdr) (jn : BitVec 4)
  | joinLeave (h : Hdr) (jn : BitVec 4)
  | yield (h : Hdr)
  | nop (h : Hdr)
  | trap (h : Hdr) (code : BitVec 16)
  | brk (h : Hdr) (id : BitVec 16)
  | plop (h : Hdr) (d : BitVec 8) (a b c : Src) (table : BitVec 8)
  | lmaskEvery (h : Hdr) (d : BitVec 8) (a : Src)
  | lmaskSome (h : Hdr) (d : BitVec 8) (a : Src)
  | lmaskAlike (h : Hdr) (d : BitVec 8) (a : Src)
  | lmaskBits (h : Hdr) (d : BitVec 8) (a : Src)
  | lmaskCount (h : Hdr) (d : BitVec 8) (a : Src)
  | lmaskRank (h : Hdr) (d : BitVec 8) (a : Src)
  | sleep (h : Hdr) (a : Src) (imm : BitVec 32)
  -- integer, logic, moves, bit stream (R157 to R168)
  | iadd (h : Hdr) (t : Ty) (sat : Bool) (d : BitVec 8) (a b : Src)
  | isub (h : Hdr) (t : Ty) (sat : Bool) (d : BitVec 8) (a b : Src)
  | imul (h : Hdr) (t : Ty) (sat : Bool) (d : BitVec 8) (a b : Src)
  | imulh (h : Hdr) (t : Ty) (d : BitVec 8) (a b : Src)
  | imad (h : Hdr) (t : Ty) (sat : Bool) (d : BitVec 8) (a b c : Src)
  | imin (h : Hdr) (t : Ty) (d : BitVec 8) (a b : Src)
  | imax (h : Hdr) (t : Ty) (d : BitVec 8) (a b : Src)
  | iabs (h : Hdr) (t : Ty) (sat : Bool) (d : BitVec 8) (a : Src)
  | icmp (h : Hdr) (t : Ty) (cond : BitVec 3) (any : Bool) (d : BitVec 8) (a b : Src)
  | shl (h : Hdr) (t : Ty) (d : BitVec 8) (a b : Src)
  | shr (h : Hdr) (t : Ty) (d : BitVec 8) (a b : Src)
  | sar (h : Hdr) (t : Ty) (d : BitVec 8) (a b : Src)
  | rot (h : Hdr) (t : Ty) (right : Bool) (d : BitVec 8) (a b : Src)
  | tern (h : Hdr) (d : BitVec 8) (a b c : Src) (table : BitVec 8)
  | popc (h : Hdr) (t : Ty) (d : BitVec 8) (a : Src)
  | clz (h : Hdr) (t : Ty) (d : BitVec 8) (a : Src)
  | ctz (h : Hdr) (t : Ty) (d : BitVec 8) (a : Src)
  | brev (h : Hdr) (t : Ty) (d : BitVec 8) (a : Src)
  | bfx (h : Hdr) (t : Ty) (d : BitVec 8) (a b : Src)
  | bfi (h : Hdr) (t : Ty) (d : BitVec 8) (a b c : Src)
  | bsRead (h : Hdr) (t : Ty) (peek : Bool) (d a : BitVec 8) (b : Src)
  | bsFill (h : Hdr) (d : BitVec 8) (a : Src) (k : BitVec 3)
  | bsSeek (h : Hdr) (mode : BitVec 4) (d : BitVec 8) (a : Src)
  | sel (h : Hdr) (d : BitVec 8) (a b : Src) (k : BitVec 3) (neg : Bool)
  | mov (h : Hdr) (d : BitVec 8) (a : Src)
  | movi (h : Hdr) (t : Ty) (d : BitVec 8) (imm : BitVec 32)
  | moviHi (h : Hdr) (d : BitVec 8) (imm : BitVec 32)
  | lea (h : Hdr) (d : BitVec 8) (a b : Src) (sh : BitVec 3)
  | leaPc (h : Hdr) (d : BitVec 8) (b : Src) (sh : BitVec 3)
  -- uniform and special registers (R169 to R172)
  | uadd (h : Hdr) (sub : Bool) (d a : BitVec 8) (b : USrc)
  | umul (h : Hdr) (mode : BitVec 4) (d a : BitVec 8) (b : USrc)
  | utern (h : Hdr) (d a : BitVec 8) (b : USrc) (c : BitVec 7) (table : BitVec 8)
  | ushift (h : Hdr) (mode : BitVec 4) (d a : BitVec 8) (b : USrc)
  | ucmp (h : Hdr) (cond : BitVec 3) (sgn : Bool) (d a : BitVec 8) (b : USrc)
  | umov (h : Hdr) (d a : BitVec 8)
  | umovSx (h : Hdr) (d : BitVec 8) (imm : BitVec 32)
  | umovZx (h : Hdr) (d : BitVec 8) (imm : BitVec 32)
  | umovHi (h : Hdr) (d : BitVec 8) (imm : BitVec 32)
  | umovV (h : Hdr) (d a : BitVec 8)
  | upredSet (h : Hdr) (d a : BitVec 8)
  | upredGet (h : Hdr) (d a : BitVec 8)
  | upredNz (h : Hdr) (d a : BitVec 8)
  | sreg (h : Hdr) (d : BitVec 8) (selr : BitVec 8)
  | sregU (h : Hdr) (d : BitVec 8) (selr : BitVec 8)
  -- floating point and cross-lane (R175 to R193)
  | fadd (h : Hdr) (t : Ty) (r : Rnd) (d : BitVec 8) (a b : Src) (ma mb : Mod)
  | fmul (h : Hdr) (t : Ty) (r : Rnd) (d : BitVec 8) (a b : Src) (ma mb : Mod)
  | ffma (h : Hdr) (t : Ty) (r : Rnd) (d : BitVec 8) (a b c : Src) (ma mb mc : Mod)
  | fmin (h : Hdr) (t : Ty) (nan : Bool) (d : BitVec 8) (a b : Src) (ma mb : Mod)
  | fmax (h : Hdr) (t : Ty) (nan : Bool) (d : BitVec 8) (a b : Src) (ma mb : Mod)
  | fcmp (h : Hdr) (t : Ty) (cond : BitVec 3) (any : Bool) (d : BitVec 8) (a b : Src) (ma mb : Mod)
  | fclass (h : Hdr) (t : Ty) (d : BitVec 8) (a : Src) (ma : Mod)
  | fcvt (h : Hdr) (t x : Ty) (part : BitVec 4) (r : Rnd) (d : BitVec 8) (a : Src) (ma : Mod)
  | icvt (h : Hdr) (t x : Ty) (part : BitVec 4) (r : Rnd) (d : BitVec 8) (a : Src)
  | fcvti (h : Hdr) (t x : Ty) (part : BitVec 4) (r : Rnd) (d : BitVec 8) (a : Src) (ma : Mod)
  | frcp (h : Hdr) (t : Ty) (r : Rnd) (d : BitVec 8) (a : Src) (ma : Mod)
  | frsq (h : Hdr) (t : Ty) (r : Rnd) (d : BitVec 8) (a : Src) (ma : Mod)
  | fsqrt (h : Hdr) (t : Ty) (r : Rnd) (d : BitVec 8) (a : Src) (ma : Mod)
  | fdiv (h : Hdr) (t : Ty) (r : Rnd) (d : BitVec 8) (a b : Src) (ma mb : Mod)
  | fex2 (h : Hdr) (t : Ty) (r : Rnd) (d : BitVec 8) (a : Src) (ma : Mod)
  | flg2 (h : Hdr) (t : Ty) (r : Rnd) (d : BitVec 8) (a : Src) (ma : Mod)
  | fsin (h : Hdr) (t : Ty) (r : Rnd) (d : BitVec 8) (a : Src) (ma : Mod)
  | fcos (h : Hdr) (t : Ty) (r : Rnd) (d : BitVec 8) (a : Src) (ma : Mod)
  | xlane (h : Hdr) (t : Ty) (d : BitVec 8) (a b : Src) (ma : Mod)
  | qx (h : Hdr) (mode : BitVec 4) (d : BitVec 8) (a : Src)
  | fold (h : Hdr) (t : Ty) (op : BitVec 3) (sat : Bool) (r : Rnd) (d : BitVec 8) (a : Src) (ma : Mod)
  | scan (h : Hdr) (t : Ty) (op : BitVec 3) (excl : Bool) (r : Rnd) (d : BitVec 8) (a : Src) (ma : Mod)
  | pack (h : Hdr) (t x : Ty) (part : BitVec 4) (r : Rnd) (d : BitVec 8) (a b : Src) (ma mb : Mod)
  | fscale (h : Hdr) (t : Ty) (r : Rnd) (d : BitVec 8) (a b : Src) (ma : Mod)
  | frnd (h : Hdr) (t : Ty) (ix : Bool) (r : Rnd) (d : BitVec 8) (a : Src) (ma : Mod)
  -- memory and synchronisation (R195 to R225)
  | ld (h : Hdr) (t : Ty) (sp : BitVec 2) (d : BitVec 8) (m : MAddr)
  | st (h : Hdr) (t : Ty) (sp : BitVec 2) (d : BitVec 8) (m : MAddr)
  | atom (h : Hdr) (t : Ty) (op : BitVec 4) (d d2 : BitVec 8) (m : MAddr)
  | cas (h : Hdr) (t : Ty) (sp : BitVec 2) (d d2 nv : BitVec 8) (m : MAddr)
  | fence (h : Hdr) (scope : BitVec 3) (order : BitVec 2)
  | recSet (h : Hdr) (rec : BitVec 4) (k : BitVec 7)
  | recSetBase (h : Hdr) (rec : BitVec 4) (a : BitVec 8)
  | recSetAdv (h : Hdr) (rec : BitVec 4) (a : BitVec 8)
  | recGet (h : Hdr) (rec : BitVec 4) (k : BitVec 7)
  | spill (h : Hdr) (push : Bool) (d : BitVec 8) (width : BitVec 4) (off : BitVec 24)
  | fill (h : Hdr) (pop : Bool) (d : BitVec 8) (width : BitVec 4) (off : BitVec 24)
  | barInit (h : Hdr) (acct : BitVec 2) (d : BitVec 8) (n : BitVec 5) (e : USrc)
  | barArrive (h : Hdr) (group : Bool) (d : BitVec 8) (n : BitVec 5)
  | barWait (h : Hdr) (n : BitVec 5) (p : USrc)
  | barTest (h : Hdr) (par : Bool) (d : BitVec 8) (n : BitVec 5) (p : USrc)
  | tagWaitany (h : Hdr) (clr : Bool) (d a : BitVec 8)
  | tagWaitall (h : Hdr) (clr : Bool) (d a : BitVec 8)
  | tagFirst (h : Hdr) (clr : Bool) (d a : BitVec 8)
  | tagRead (h : Hdr) (d a : BitVec 8)
  | tagReadSt (h : Hdr) (d a : BitVec 8)
  | tagClear (h : Hdr) (a : BitVec 8)
  | cmapWait (h : Hdr) (d a b : BitVec 8)
  | cmapTest (h : Hdr) (d a b : BitVec 8)
  | ringBind (h : Hdr) (d a b : BitVec 8) (n : BitVec 32)
  | ringUnbind (h : Hdr) (d a : BitVec 8)
  | dwsPin (h : Hdr) (d a : BitVec 8) (n : USrc)
  | dwsUnpin (h : Hdr) (d a : BitVec 8) (n : USrc)
  | dwsAlloc (h : Hdr) (d : BitVec 8) (n : USrc)
  | dwsFree (h : Hdr) (d a : BitVec 8)
  -- matrix (R227 to R245)
  | mma (h : Hdr) (f : MmaF)
  | mmaBatch (h : Hdr) (f : MmaF)
  | mfence (h : Hdr)
  | mwait (h : Hdr) (tile : BitVec 5)
  | mwaitAll (h : Hdr)
  | accPut (h : Hdr) (t : Ty) (tile : BitVec 5) (src : BitVec 8)
  | accGet (h : Hdr) (t : Ty) (d : BitVec 8) (tile : BitVec 5)
  | accZero (h : Hdr) (t : Ty) (tile : BitVec 5)
  | convDecl (h : Hdr) (g : BitVec 2) (d : BitVec 8) (c : BitVec 3) (k : BitVec 7)
  | convDeclFree (h : Hdr) (d : BitVec 8) (c : BitVec 3)
  | convRead (h : Hdr) (d : BitVec 8) (c : BitVec 3)
  | fmtw (h : Hdr) (mode : BitVec 4) (d : BitVec 8) (a : Src) (imm : BitVec 32)
  -- spawning, run-control and system (R248 to R274)
  | spawn (h : Hdr) (trp : Bool) (d : BitVec 8) (k : BitVec 7)
  | spawnWait (h : Hdr) (d a : BitVec 8)
  | qrunCount (h : Hdr) (d : BitVec 8) (n : BitVec 7)
  | qrunStop (h : Hdr) (d : BitVec 8) (n : BitVec 7)
  | qrunStep (h : Hdr) (d : BitVec 8) (n : BitVec 7)
  | qrunResume (h : Hdr) (d : BitVec 8) (n : BitVec 7)
  | qrunKill (h : Hdr) (d : BitVec 8) (n : BitVec 7)
  | qrunRead (h : Hdr) (d : BitVec 8) (n : BitVec 7) (sv : BitVec 8)
  | qrunWrite (h : Hdr) (d : BitVec 8) (n : BitVec 7) (sv : BitVec 8)
  | qterm (h : Hdr) (code : USrc)
  | preDone (h : Hdr)
  | preWait (h : Hdr) (d : BitVec 8)
  | rgn (h : Hdr)
  | dikeOpen (h : Hdr) (sr : BitVec 8) (loff : BitVec 32) (slot : BitVec 3)
  | dikeClose (h : Hdr)
  | icinv (h : Hdr) (scope : BitVec 2)
  | ctrRead (h : Hdr) (d : BitVec 8) (selr : USrc)
  | eret (h : Hdr)
  | eretNext (h : Hdr)
  | sset (h : Hdr) (selr : BitVec 8) (a : Src)
  | halt (h : Hdr)
  | haltStop (h : Hdr)
  | mboxRecv (h : Hdr) (nb : Bool) (d : BitVec 8) (k : BitVec 7) (box : BitVec 4)
  | mboxSend (h : Hdr) (nb : Bool) (d a : BitVec 8) (k : BitVec 7)
  -- issue, results and traps
  | partitionIssueCycle (part : Nat)
  | passedOverOverride (grp : Nat)
  | bundlePromotion (grp : Nat) (pc : Word)
  | yieldWindowEnd (grp lane : Nat)
  | sleepDeadline (grp lane : Nat)
  | resultWriteback (grp id : Nat)
  | unhandledTrapInstant (launch cause : Nat)
  | poisonConsumedInstant (launch : Nat)
  | lineParityRefetch (grp : Nat) (lanes : LaneMask) (pc : Word)
  | compactorMoveStart (shared : Bool) (key : Nat) (base : Nat)
  | compactorMoveEnd (shared : Bool) (key : Nat)
  | matrixOpComplete (op : Nat)
  | faultServiceComplete (cd : Nat)
  -- copies
  | watcherFetchEntry (core slot : Nat)
  | copy (c : Nat)
  | copy2d (c : Nat)
  | gather (c : Nat)
  | scatter (c : Nat)
  | fillEntry (c : Nat)
  | chain (c : Nat)
  | reduce (c : Nat)
  | majSt (c : Nat)
  | majLd (c : Nat)
  | copyChunkLanded (c : Nat)
  | copyComplete (c : Nat)
  | majCellAnswer (c k : Nat)
  | majCellTimerExpiry (c : Nat)
  | majCopyWriteReceived (c k : Nat)
  | majorityScrub (desc cell : Nat)
  -- work
  | spawnAnswer (req : Nat)
  | blockPlacement (cluster cd : Nat) (cores starts : List Nat)
  | headWaitExpiry (cluster cd : Nat)
  | earlySuccessorDisplace (blk : Nat)
  | displacePreciseStop (blk : Nat)
  | tokenWrite (q : Nat)
  | scanCertifyRecord (launch : Nat)
  | launch (q : Nat)
  | wait (q : Nat)
  | nopCommand (q : Nat)
  | badCommand (q : Nat)
  | waitPoll (q : Nat)
  | commandRead (q : Nat)
  -- translation
  | invalidationComplete (polder : Nat)
  | walkComplete (w : Nat)
  | faultAnswerTimeout (polder idx : Nat)
  | pageMigrate (polder : Nat) (dws : Bool) (page : Nat) (entry : Word)
  -- pre-emption, seizure and halts
  | preemption (launch : Nat) (cores : List Nat)
  | preemptLaneStop (grp lane : Nat)
  | blockResume (blk core start : Nat)
  | seizePreciseStop
  | seizeReduceAbort
  | seizeSeal (hostBase : Nat)
  | seizeRelease
  | collectiveTimeout (handle : Nat)
  -- SPDM and TDISP
  | ifLock (core fn : Nat)
  | ifStart (core fn : Nat)
  | ifStop (core fn : Nat)
  | ifState (core fn : Nat)
  | ifInfo (core fn : Nat)
  | collCreate (core fn : Nat) (members : Word) (timeout : Nat)
  | trustRootBadRequest (core : Nat) (word0 : Word)
  | mboxMessageArrival (core box : Nat) (m : Msg)
  -- reliability
  | errorReport (r : Report)
  | scanDrainStart (core : Nat)
  | scanDrainTimeout (core : Nat)
  | scanComplete (core : Nat) (passed : Bool)
  | hopArbitration (hop : Nat)
  | fatalError (r : Report)
  -- reset, firmware and power
  | standbyTakeover
  -- telemetry
  | counterSweep (fn : Nat)
  | pennantRecord (part : Nat)
  | halyardRecordWrite (cd : Nat)
  -- steps that come from outside the device's own engines: registers, host commands, SPDM and TDISP requests, errors, repairs
  | majorityRegionDeclare (polder va pages n : Nat) (ipas : List Nat) (frames : List Nat)
  | majorityRegionWithdraw (polder va pages : Nat)
  | stackRebuild (desc k cell : Nat)
  | cmdNotify (vf vqid : Nat) (p : Word)
  | cplConsume (vf vqid : Nat) (p : Word)
  | majQuery (vf : Nat) (x : Word)
  | s1Root (vf : Nat) (x : Word)
  | dwsRoot (vf : Nat) (x : Word)
  | dwsLen (vf : Nat) (x : Word)
  | invGlobalRange (vf : Nat) (x : Word)
  | invDwsRange (vf : Nat) (x : Word)
  | invAllStage1 (vf : Nat) (x : Word)
  | invQueueTable (vf : Nat) (x : Word)
  | faultRing (vf : Nat) (x : Word)
  | faultResume (vf : Nat) (x : Word)
  | dirtyLogHarvest (polder : Nat)
  | pause (polder : Nat)
  | resume (polder : Nat)
  | seize (polder cls : Nat)
  | seizeDemotePage (polder ipa hostAddr : Nat)
  | sealedImageRestore (polder : Nat) (image : List Byte)
  | debugHalt (polder : Nat) (engines : Bool)
  | create (doc : List Byte) (size : Nat) (test : Bool)
  | teardown (polder : Nat)
  | vfReset (by_ : VfReset)
  | queueAssign (q : Nat) (iqid : Nat) (ctx : List Byte)
  | queueUnassign (q : Nat)
  | queueReset (q : Nat)
  | evict (polder : Nat)
  | migrate (polder : Nat) (digest : BitVec 256)
  | debugAttach (polder launch : Nat) (holdMask : BitVec 16) (engines memread : Bool)
  | counterGrant (polder : Nat) (groups : Word)
  | traceGrant (polder : Nat)
  | resize (polder : Nat) (doc : List Byte)
  | policyReplace (polder : Nat) (doc : List Byte)
  | getVersion (fn : Nat)
  | getCapabilities (fn : Nat)
  | negotiateAlgorithms (fn : Nat)
  | getDigests (fn : Nat)
  | getCertificate (fn slot off len : Nat)
  | challenge (fn : Nat) (nonce : BitVec 256)
  | getMeasurements (fn : Nat) (block : MeasBlock)
  | keyExchange (fn : Nat) (data : List Byte)
  | finish (fn : Nat) (data : List Byte)
  | endSession (fn : Nat)
  | vendorDefinedRequest (fn : Nat) (ideKm : Bool) (data : List Byte)
  | spdmUnsupported (fn : Nat) (code : Nat)
  | lockInterface (vf : Nat)
  | startInterface (vf : Nat)
  | stopInterface (vf : Nat)
  | getDeviceInterfaceState (vf : Nat)
  | getDeviceInterfaceReport (vf off len : Nat)
  | frozenRegisterWrite (vf off : Nat) (cap : Bool) (x : Byte)
  | ideTlpDrop (vf : Nat)
  | uncorrectableError (e : ErrTarget)
  | correctedError (e : ErrTarget)
  | patrolRead (e : ErrTarget)
  | engineRetire (cd engine : Nat)
  | dramRowRepair (stack row spare : Nat)
  | dramLayerFail (stack layer : Nat)
  | dramStackFail (stack : Nat)
  | dwsFrameRetire (cd frame dest : Nat)
  | linkLaneSpare (link lane : Nat)
  | flitCrcRetry (link : Nat)
  | fabricPortRetire (port : Nat)
  | hostLinkDown (link : Nat)
  | qosWeights (x : Word)
  | injSeed (vf : Nat) (x : Word)
  | injRate (vf : Nat) (x : Word)
  | injCtl (vf : Nat) (x : Word)
  | errorInjectStep (vf : Nat) (e : ErrTarget)
  | dumpBase (x : Word)
  | coldReset (failStep : Option Nat)
  | warmReset
  | liveUpdate (image : List Byte)
  | stateTableImport (major minor : Nat)
  | pwrCap (x : Word)
  | powerCapExceeded
  | powerStepDown
  | powerStepUp
  | thermalThrottle (stack junction temp : Nat)
  | corePowerGate (cd cluster : Nat)
  | ctrBase (fn : Nat) (x : Word)
  | pennantCtl (vf : Nat) (x : Word)
  | traceBase (fn : Nat) (x : Word)
  | traceRd (fn : Nat) (x : Word)
  | registerWriteOther (fn : Nat)
  | peerGlobalRequest (pkg polder : Nat) (write : Bool) (va : Nat) (data : List Byte)
  deriving DecidableEq, Repr

end Sys2Proof
end

