-- ==== Sys2Proof/WellFormed.lean ====
section
/-! DEFINITION. Which instructions are well formed: check 6 of R142, the header rules of R133 and R136, the operand rules of
R138 and the field combinations that each instruction's description gives. An instruction that is not well formed takes
ILLEGAL_ENCODING. Steps without an encoding are well formed. -/

namespace Sys2Proof

/-- The code of a type (R105). -/
def Ty.code : Ty → Nat
  | .i32 => 0 | .u32 => 1 | .i64 => 2 | .u64 => 3 | .i8x8 => 4 | .u8x8 => 5 | .i16x4 => 6 | .u16x4 => 7
  | .f64 => 8 | .f32 => 9 | .f32x2 => 10 | .f16x4 => 11 | .bf16x4 => 12 | .log6x10 => 13 | .i32x2 => 14 | .u32x2 => 15

/-- The integer types (R145). -/
def Ty.isInt : Ty → Bool
  | .i32 | .u32 | .i64 | .u64 | .i8x8 | .u8x8 | .i16x4 | .u16x4 | .i32x2 | .u32x2 => true
  | _ => false

/-- The floating-point types of R178. -/
def Ty.isFloat : Ty → Bool
  | .f64 | .f32 | .f32x2 | .f16x4 | .bf16x4 => true
  | _ => false

/-- The signed integer types. -/
def Ty.isSigned : Ty → Bool
  | .i32 | .i64 | .i8x8 | .i16x4 | .i32x2 => true
  | _ => false

/-- Element count (R105, R183). -/
def Ty.count : Ty → Nat
  | .i32 | .u32 | .i64 | .u64 | .f64 | .f32 => 1
  | .f32x2 | .i32x2 | .u32x2 => 2
  | .i16x4 | .u16x4 | .f16x4 | .bf16x4 => 4
  | .i8x8 | .u8x8 => 8
  | .log6x10 => 10

/-- Element width in bits (R105). -/
def Ty.width : Ty → Nat
  | .i32 | .u32 | .f32 | .f32x2 | .i32x2 | .u32x2 => 32
  | .i64 | .u64 | .f64 => 64
  | .i16x4 | .u16x4 | .f16x4 | .bf16x4 => 16
  | .i8x8 | .u8x8 => 8
  | .log6x10 => 6

/-- A packed type has more than one element. -/
def Ty.packed (t : Ty) : Bool := decide (1 < t.count)

/-- The four scalar integer types 0 to 3. -/
def Ty.scalarInt : Ty → Bool
  | .i32 | .u32 | .i64 | .u64 => true
  | _ => false

/-- A uniform register is one of s0 to s95 (R138). -/
def okU (n : BitVec 8) : Bool := decide (n.toNat < 96)

/-- A source operand names an existing uniform register (R138). -/
def Src.ok : Src → Bool
  | .s n => okU n
  | _ => true

/-- A mask source of R155: predicate registers 0 to 7, or a uniform register. -/
def Src.okMask : Src → Bool
  | .v n => decide (n.toNat < 8)
  | .s n => okU n
  | .zero => true

/-- The operand is of kind 00 or 01. -/
def Src.named : Src → Bool
  | .zero => false
  | _ => true

/-- An index operand names an existing uniform register. -/
def Ix.ok : Ix → Bool
  | .s n => okU n
  | _ => true

/-- A uniform operand names an existing register. -/
def USrc.ok : USrc → Bool
  | .reg n => okU n
  | _ => true

/-- A predicate destination is p0 to p7 (R145). -/
def okP (d : BitVec 8) : Bool := decide (d.toNat < 8)

/-- `fs` needs `lf` (R133). -/
def Hdr.ok (h : Hdr) : Bool := h.lf || !h.fs

/-- `dyn` needs `rm` zero (R176). -/
def Rnd.ok (r : Rnd) : Bool := !r.dyn || decide (r.rm = 0)

/-- No rounding field. -/
def Rnd.none_ (r : Rnd) : Bool := !r.dyn && decide (r.rm = 0)

/-- A modifier is used only on floating-point elements (R177). -/
def Mod.ok (m : Mod) (t : Ty) : Bool := t.isFloat || (!m.abs && !m.neg)

/-- The register value of a type has 32 bits (R196). -/
def Ty.lane32 : Ty → Bool
  | .i32 | .u32 | .f32 => true
  | _ => false

/-- Width and type of a load or store (R196). -/
def okWidth (t : Ty) (width : BitVec 4) : Bool :=
  match width.toNat with
  | 0 | 1 | 2 => true
  | 3 => !t.lane32
  | 4 | 5 => decide (t.code = 2 || t.code = 3 || t.code = 8 || 10 ≤ t.code)
  | _ => false

/-- Width of an atomic access (R199, R200): that of the type. -/
def okAtomWidth (t : Ty) (width : BitVec 4) : Bool :=
  if t.lane32 then decide (width = 2) else decide (width = 3)

/-- Scope and order of `ld` (R65): 0 rlx, 1 acq, 2 rel, 3 ar. -/
def okLdOrder (m : MAddr) : Bool :=
  if m.scope = 0 then decide (m.order = 0)
  else decide (m.scope ≠ 7) && decide (m.order ≠ 2) && decide (m.width.toNat ≤ 3)

/-- Scope and order of `st` (R65). -/
def okStOrder (m : MAddr) : Bool :=
  if m.scope = 0 then decide (m.order = 0)
  else decide (m.scope ≠ 7) && decide (m.order ≠ 1) && decide (m.width.toNat ≤ 3)

/-- Scopes 1 to 6 (R65). -/
def okScope (s : BitVec 3) : Bool := decide (s ≠ 0) && decide (s ≠ 7)

/-- A format word obeys R122 and R123, its operand type and shape apart. -/
def okFormat (w : Word) : Bool :=
  let a := (w.extractLsb' 0 4).toNat
  let b := (w.extractLsb' 4 4).toNat
  let acc := (w.extractLsb' 8 4).toNat
  let scales := (w.extractLsb' 12 16).toNat
  decide ((w.extractLsb' 30 34) = 0) && decide (a = b) &&
  ((decide (a = 8) && decide (acc = 8)) ||
   ((decide (a = 9) || decide (a = 12) || decide (a = 11) || decide (a = 13)) && decide (acc = 9)) ||
   ((decide (a = 4) || decide (a = 5)) && decide (acc = 0) && decide (scales = 0)))

/-- The shape code that R123 pairs with an operand type. -/
def Ty.shape : Ty → Option Nat
  | .f64 => some 0 | .f32 => some 1 | .bf16x4 => some 2 | .f16x4 => some 3
  | .i8x8 | .u8x8 => some 4 | .log6x10 => some 5
  | _ => none

/-- The fields of a matrix operation (R227). -/
def MmaF.ok (f : MmaF) : Bool :=
  decide (f.ty.shape = some f.shape.toNat) && (!f.sat || f.ty == .i8x8 || f.ty == .u8x8)

/-- Types of the accumulator moves (R227): 0, 8 and 9. -/
def Ty.acc : Ty → Bool
  | .i32 | .f64 | .f32 => true
  | _ => false

/-- The special registers of R29. -/
def okSel (n : BitVec 8) : Bool :=
  decide (n.toNat ≤ 9) || decide (n.toNat = 0x10) || decide (n.toNat = 0x11) || decide (n.toNat = 0x12) ||
  decide (n.toNat = 0x18) || decide (n.toNat = 0x19)

/-- The special registers that `sset` may name (R29). -/
def okSsetSel (n : BitVec 8) : Bool :=
  decide (n.toNat = 0x10) || decide (n.toNat = 0x11) || decide (n.toNat = 0x12) ||
  decide (n.toNat = 0x18) || decide (n.toNat = 0x19)

/-- A conversion of a whole destination from part of the source (R183). -/
def okPart (t x : Ty) (part : BitVec 4) : Bool := decide ((part.toNat + 1) * x.count ≤ t.count)

/-- The operation of `fold` and `scan` fits the type (R192). -/
def okFold (t : Ty) (op : BitVec 3) : Bool :=
  (t.isInt && decide (op.toNat ≤ 5)) || (t.isFloat && decide (op.toNat ≤ 2))

/-- Well-formedness of every instruction. -/
def Instr.wf : Instr → Bool
  | .bra h _ _ => h.ok
  | .brx h _ => h.ok
  | .brxU h lr => h.ok && okU lr
  | .call h _ _ _ => h.ok
  | .callR h _ _ => h.ok
  | .ret h _ => h.ok
  | .exit h => h.ok
  | .joinEnrol h _ => h.ok
  | .joinWait h _ => h.ok
  | .joinLeave h _ => h.ok
  | .yield h => h.ok
  | .nop h => h.ok
  | .trap h _ => h.ok
  | .brk h _ => h.ok
  | .plop h d a b c _ => h.ok && okP d && a.okMask && b.okMask && c.okMask
  | .lmaskEvery h d a => h.ok && okP d && a.okMask
  | .lmaskSome h d a => h.ok && okP d && a.okMask
  | .lmaskAlike h d a => h.ok && okP d && a.okMask
  | .lmaskBits h _ a => h.ok && a.okMask
  | .lmaskCount h _ a => h.ok && a.okMask
  | .lmaskRank h _ a => h.ok && a.okMask
  | .sleep h a _ => h.ok && a.ok
  | .iadd h t _ _ a b => h.ok && t.isInt && a.ok && b.ok
  | .isub h t _ _ a b => h.ok && t.isInt && a.ok && b.ok
  | .imul h t _ _ a b => h.ok && t.isInt && a.ok && b.ok
  | .imulh h t _ a b => h.ok && t.isInt && a.ok && b.ok
  | .imad h t _ _ a b c => h.ok && t.isInt && a.ok && b.ok && c.ok
  | .imin h t _ a b => h.ok && t.isInt && a.ok && b.ok
  | .imax h t _ a b => h.ok && t.isInt && a.ok && b.ok
  | .iabs h t _ _ a => h.ok && t.isSigned && a.ok
  | .icmp h t cond any d a b =>
    h.ok && t.isInt && decide (cond.toNat ≤ 5) && (!any || t.packed) && okP d && a.ok && b.ok
  | .shl h t _ a b => h.ok && t.isInt && a.ok && b.ok
  | .shr h t _ a b => h.ok && t.isInt && a.ok && b.ok
  | .sar h t _ a b => h.ok && t.isInt && a.ok && b.ok
  | .rot h t _ _ a b => h.ok && t.isInt && a.ok && b.ok
  | .tern h _ a b c _ => h.ok && a.ok && b.ok && c.ok
  | .popc h t _ a => h.ok && t.isInt && a.ok
  | .clz h t _ a => h.ok && t.isInt && a.ok
  | .ctz h t _ a => h.ok && t.isInt && a.ok
  | .brev h t _ a => h.ok && t.isInt && a.ok
  | .bfx h t _ a b => h.ok && t.scalarInt && a.ok && b.ok
  | .bfi h t _ a b c => h.ok && t.scalarInt && a.ok && b.ok && c.ok
  | .bsRead h t _ _ _ b => h.ok && t.scalarInt && b.ok
  | .bsFill h _ a _ => h.ok && a.ok && a.named
  | .bsSeek h mode _ a => h.ok && decide (mode.toNat ≤ 2) && a.ok
  | .sel h _ a b _ _ => h.ok && a.ok && b.ok
  | .mov h _ a => h.ok && a.ok
  | .movi h t _ _ => h.ok && t.scalarInt
  | .moviHi h _ _ => h.ok
  | .lea h _ a b _ => h.ok && a.ok && b.ok
  | .leaPc h _ b _ => h.ok && b.ok
  | .uadd h _ d a b => h.ok && okU d && okU a && b.ok
  | .umul h mode d a b => h.ok && decide (mode.toNat ≤ 2) && okU d && okU a && b.ok
  | .utern h d a b c _ => h.ok && okU d && okU a && b.ok && decide (c.toNat < 96)
  | .ushift h mode d a b => h.ok && decide (mode.toNat ≤ 4) && okU d && okU a && b.ok
  | .ucmp h cond _ d a b => h.ok && decide (cond.toNat ≤ 5) && okU d && okU a && b.ok
  | .umov h d a => h.ok && okU d && okU a
  | .umovSx h d _ => h.ok && okU d
  | .umovZx h d _ => h.ok && okU d
  | .umovHi h d _ => h.ok && okU d
  | .umovV h d _ => h.ok && okU d
  | .upredSet h d a => h.ok && okP d && okU a
  | .upredGet h d a => h.ok && okU d && okP a
  | .upredNz h d a => h.ok && okP d && okU a
  | .sreg h _ n => h.ok && okSel n
  | .sregU h d n => h.ok && okU d && okSel n
  | .fadd h t r _ a b _ _ => h.ok && t.isFloat && r.ok && a.ok && b.ok
  | .fmul h t r _ a b _ _ => h.ok && t.isFloat && r.ok && a.ok && b.ok
  | .ffma h t r _ a b c _ _ _ => h.ok && t.isFloat && r.ok && a.ok && b.ok && c.ok
  | .fmin h t _ _ a b _ _ => h.ok && t.isFloat && a.ok && b.ok
  | .fmax h t _ _ a b _ _ => h.ok && t.isFloat && a.ok && b.ok
  | .fcmp h t _ any d a b _ _ => h.ok && t.isFloat && (!any || t.packed) && okP d && a.ok && b.ok
  | .fclass h t _ a _ => h.ok && t.isFloat && a.ok
  | .fcvt h t x part r _ a ma =>
    h.ok && (t.isFloat || t == .log6x10) && (x.isFloat || (x == .log6x10 && t == .log6x10)) && okPart t x part && r.ok &&
      a.ok && ma.ok t
  | .icvt h t x part r _ a => h.ok && t.isInt && x.isFloat && okPart t x part && r.ok && a.ok
  | .fcvti h t x part r _ a ma =>
    h.ok && (t.isFloat || t == .log6x10) && x.isInt && okPart t x part && r.ok && a.ok && ma.ok t
  | .frcp h t r _ a _ => h.ok && (t == .f32 || t == .f32x2) && r.ok && a.ok
  | .frsq h t r _ a _ => h.ok && (t == .f32 || t == .f32x2) && r.ok && a.ok
  | .fsqrt h t r _ a _ => h.ok && (t == .f64 || t == .f32 || t == .f32x2) && r.ok && a.ok
  | .fdiv h t r _ a b _ _ => h.ok && (t == .f64 || t == .f32 || t == .f32x2) && r.ok && a.ok && b.ok
  | .fex2 h t r _ a _ => h.ok && (t == .f32 || t == .f32x2) && r.ok && a.ok
  | .flg2 h t r _ a _ => h.ok && (t == .f32 || t == .f32x2) && r.ok && a.ok
  | .fsin h t r _ a _ => h.ok && (t == .f32 || t == .f32x2) && r.ok && a.ok
  | .fcos h t r _ a _ => h.ok && (t == .f32 || t == .f32x2) && r.ok && a.ok
  | .xlane h t _ a b ma => h.ok && t != .log6x10 && a.ok && b.ok && ma.ok t
  | .qx h mode _ a => h.ok && decide (mode.toNat ≤ 2) && a.ok
  | .fold h t op sat r _ a ma =>
    h.ok && okFold t op && (!sat || (t.isInt && decide (op = 0))) && r.ok &&
      (r.none_ || (t.isFloat && decide (op = 0))) && a.ok && ma.ok t
  | .scan h t op _ r _ a ma =>
    h.ok && okFold t op && r.ok && (r.none_ || (t.isFloat && decide (op = 0))) && a.ok && ma.ok t
  | .pack h t x part r _ a b ma mb =>
    h.ok && decide (part.toNat + t.count ≤ x.count) && r.ok && (r.none_ || !(t.isInt && x.isInt)) && a.ok && b.ok && ma.ok t && mb.ok x
  | .fscale h t r _ a b _ => h.ok && t.isFloat && r.ok && a.ok && b.ok
  | .frnd h t _ r _ a _ => h.ok && t.isFloat && r.ok && a.ok
  | .ld h t sp _ m => h.ok && decide (sp.toNat ≤ 1) && okWidth t m.width && okLdOrder m && m.ix.ok
  | .st h t sp _ m => h.ok && decide (sp.toNat ≤ 1) && okWidth t m.width && okStOrder m && m.ix.ok
  | .atom h t op _ _ m =>
    h.ok && (t.scalarInt || t == .f64 || t == .f32) && okAtomWidth t m.width &&
      (if t.scalarInt then decide (op.toNat ≤ 7) else decide (op = 0) || decide (op = 2) || decide (op = 3) || decide (op = 7)) &&
      okScope m.scope && m.ix.ok
  | .cas h t sp _ _ _ m =>
    h.ok && t.scalarInt && decide (sp.toNat ≤ 1) && okAtomWidth t m.width && okScope m.scope && m.ix.ok
  | .fence h scope _ => h.ok && okScope scope
  | .recSet h _ k => h.ok && decide (k.toNat ≤ 92)
  | .recSetBase h _ a => h.ok && okU a
  | .recSetAdv h _ a => h.ok && okU a
  | .recGet h _ k => h.ok && decide (k.toNat ≤ 92)
  | .spill h _ _ width _ => h.ok && decide (2 ≤ width.toNat) && decide (width.toNat ≤ 5)
  | .fill h _ _ width _ => h.ok && decide (2 ≤ width.toNat) && decide (width.toNat ≤ 5)
  | .barInit h acct d _ e => h.ok && decide (acct ≠ 3) && okU d && e.ok
  | .barArrive h _ d _ => h.ok && okU d
  | .barWait h _ p => h.ok && p.ok
  | .barTest h _ d _ p => h.ok && okU d && p.ok
  | .tagWaitany h _ d a => h.ok && okU d && okU a
  | .tagWaitall h _ d a => h.ok && okU d && okU a
  | .tagFirst h _ d a => h.ok && okU d && okU a
  | .tagRead h d a => h.ok && okU d && okU a
  | .tagReadSt h d a => h.ok && okU d && okU a
  | .tagClear h a => h.ok && okU a
  | .cmapWait h d a b => h.ok && okU d && okU a && okU b
  | .cmapTest h d a b => h.ok && okU d && okU a && okU b
  | .ringBind h d a b _ => h.ok && okU d && okU a && okU b
  | .ringUnbind h d a => h.ok && okU d && okU a
  | .dwsPin h d a n => h.ok && okU d && okU a && n.ok
  | .dwsUnpin h d a n => h.ok && okU d && okU a && n.ok
  | .dwsAlloc h d n => h.ok && okU d && n.ok
  | .dwsFree h d a => h.ok && okU d && okU a
  | .mma h f => h.ok && f.ok
  | .mmaBatch h f => h.ok && f.ok
  | .mfence h => h.ok
  | .mwait h _ => h.ok
  | .mwaitAll h => h.ok
  | .accPut h t _ _ => h.ok && t.acc
  | .accGet h t _ _ => h.ok && t.acc
  | .accZero h t _ => h.ok && t.acc
  | .convDecl h g d _ k => h.ok && decide (g ≠ 3) && okU d && decide (k.toNat ≤ if g = 2 then 93 else 94)
  | .convDeclFree h d _ => h.ok && okU d
  | .convRead h d _ => h.ok && okU d
  | .fmtw h mode _ a imm =>
    h.ok && decide (mode.toNat ≤ 3) && (if mode = 0 then !a.named else a.named) && a.ok &&
      okFormat (imm.setWidth 64)
  | .spawn h _ d k => h.ok && okU d && decide (k.toNat ≤ 86)
  | .spawnWait h d a => h.ok && okU d && okU a
  | .qrunCount h d n => h.ok && okU d && decide (n.toNat ≤ 88)
  | .qrunStop h d n => h.ok && okU d && decide (n.toNat ≤ 88)
  | .qrunStep h d n => h.ok && okU d && decide (n.toNat ≤ 88)
  | .qrunResume h d n => h.ok && okU d && decide (n.toNat ≤ 88)
  | .qrunKill h d n => h.ok && okU d && decide (n.toNat ≤ 88)
  | .qrunRead h d n sv => h.ok && okU d && decide (n.toNat ≤ 88) && okU sv
  | .qrunWrite h d n sv => h.ok && okU d && decide (n.toNat ≤ 88) && okU sv
  | .qterm h code => h.ok && code.ok
  | .preDone h => h.ok
  | .preWait h d => h.ok && okU d
  | .rgn h => h.ok
  | .dikeOpen h _ _ _ => h.ok
  | .dikeClose h => h.ok
  | .icinv h _ => h.ok
  | .ctrRead h d n => h.ok && okU d && n.ok && (match n with | .reg _ => true | .imm x => decide (x.toNat < 65536))
  | .eret h => h.ok
  | .eretNext h => h.ok
  | .sset h n a => h.ok && okSsetSel n && a.ok && a.named
  | .halt h => h.ok
  | .haltStop h => h.ok
  | .mboxRecv h _ d k box => h.ok && okU d && decide (k.toNat ≤ 88) && decide (box.toNat ≤ 3)
  | .mboxSend h _ d a k => h.ok && okU d && okU a && decide (k.toNat ≤ 88)
  | _ => true

end Sys2Proof
end

