-- ==== Sys2Proof/Decode.lean ====
section
/-! DEFINITION. Decoding and encoding of the 96-bit instructions: the header (R136), the six formats (R139) and the opcode
map (R140). The decoder reads the fields of the opcode's format, and refuses, by name, an unassigned opcode (R141) and
every word that is not the encoding of a well-formed instruction (R138, check 6 of R142). -/

namespace Sys2Proof

/-- Why a word is no instruction. -/
inductive DecErr where
  | illegalOpcode
  | illegalEncoding
  deriving DecidableEq, Repr

/-- Join fields, given from the high end as widths and values, into one number. -/
def packBits : List Nat → List Nat → Nat
  | w :: ws, x :: xs => x % 2 ^ w * 2 ^ ws.sum + packBits ws xs
  | _, _ => 0

/-- Cut a number into fields of the given widths, from the high end. -/
def unpackBits : List Nat → Nat → List Nat
  | [], _ => []
  | w :: ws, n => n / 2 ^ ws.sum % 2 ^ w :: unpackBits ws n

/-- The fields of format VR (R139): opc, pr, pn, type, mod, lf, fs, d, a, b, c, ka, kb, kc, x. -/
def fmtVR : List Nat := [8, 3, 1, 4, 4, 1, 1, 8, 8, 8, 8, 2, 2, 2, 36]

/-- Format VR with `x` cut as R175 gives it. -/
def fmtFP : List Nat := [8, 3, 1, 4, 4, 1, 1, 8, 8, 8, 8, 2, 2, 2, 19, 4, 4, 1, 1, 1, 1, 1, 1, 1, 2]

/-- Format VI: opc, pr, pn, type, mod, lf, fs, d, a, ka, x24, imm32. -/
def fmtVI : List Nat := [8, 3, 1, 4, 4, 1, 1, 8, 8, 2, 24, 32]

/-- Format M: opc, pr, pn, type, mod, lf, fs, d, rec, ix, ixk, scope, order, width, off, d2, x12. -/
def fmtM : List Nat := [8, 3, 1, 4, 4, 1, 1, 8, 4, 8, 1, 3, 2, 4, 24, 8, 12]

/-- Format B: opc, pr, pn, type, mod, lf, fs, loff, slot, lr, jn, x. -/
def fmtB : List Nat := [8, 3, 1, 4, 4, 1, 1, 32, 3, 8, 4, 27]

/-- Format X: opc, pr, pn, type, mod, lf, fs, areg, breg, tile, conv, fw, shape, sat, zacc, x. -/
def fmtX : List Nat := [8, 3, 1, 4, 4, 1, 1, 8, 8, 5, 3, 8, 4, 1, 1, 36]

/-- Format S: opc, pr, pn, type, mod, lf, fs, d, a, b, sbase, x11, imm32. -/
def fmtS : List Nat := [8, 3, 1, 4, 4, 1, 1, 8, 8, 8, 7, 11, 32]

/-- The header of an encoded instruction (R136): opcode, type field, `mod` bits 3:0. -/
def hdrBits (opc : Nat) (h : Hdr) (ty md : Nat) : List Nat :=
  [opc, h.pr.toNat, h.pn.toNat, ty, md, h.lf.toNat, h.fs.toNat]

/-- The register number of a source. -/
def Src.num : Src → Nat
  | .v n => n.toNat | .s n => n.toNat | .zero => 0

/-- The kind of a source (R138). -/
def Src.kind : Src → Nat
  | .v _ => 0 | .s _ => 1 | .zero => 2

/-- The source of a kind and a register number; kind 11 is none (R138). -/
def Src.of (kind num : Nat) : Option Src :=
  match kind with
  | 0 => some (.v (BitVec.ofNat 8 num))
  | 1 => some (.s (BitVec.ofNat 8 num))
  | 2 => some .zero
  | _ => none

/-- The number and the kind bit of an index operand. -/
def Ix.num : Ix → Nat
  | .v n => n.toNat | .s n => n.toNat
/-- The kind bit of an index operand. -/
def Ix.kind : Ix → Nat
  | .v _ => 0 | .s _ => 1
/-- The index operand of a kind bit. -/
def Ix.of (kind num : Nat) : Ix := if kind = 0 then .v (BitVec.ofNat 8 num) else .s (BitVec.ofNat 8 num)

/-- `bimm`, register field and immediate of a uniform operand (R169). -/
def USrc.bimm : USrc → Nat
  | .reg _ => 0 | .imm _ => 1
/-- The register field. -/
def USrc.num : USrc → Nat
  | .reg n => n.toNat | .imm _ => 0
/-- The immediate. -/
def USrc.immBits : USrc → Nat
  | .reg _ => 0 | .imm x => x.toNat
/-- The uniform operand of the three fields. -/
def USrc.of (bimm num imm : Nat) : USrc := if bimm = 0 then .reg (BitVec.ofNat 8 num) else .imm (BitVec.ofNat 32 imm)

/-- The type of a code (R105). -/
def Ty.of : Nat → Ty
  | 0 => .i32 | 1 => .u32 | 2 => .i64 | 3 => .u64 | 4 => .i8x8 | 5 => .u8x8 | 6 => .i16x4 | 7 => .u16x4
  | 8 => .f64 | 9 => .f32 | 10 => .f32x2 | 11 => .f16x4 | 12 => .bf16x4 | 13 => .log6x10 | 14 => .i32x2 | _ => .u32x2

/-- A word of format VR. -/
def encVR (opc : Nat) (h : Hdr) (ty md : Nat) (d : BitVec 8) (a b c : Src) (x : Nat) : Nat :=
  packBits fmtVR (hdrBits opc h ty md ++ [d.toNat, a.num, b.num, c.num, a.kind, b.kind, c.kind, x])

/-- A word of the floating-point layout (R175). -/
def encFP (opc : Nat) (h : Hdr) (ty md : Nat) (d : BitVec 8) (a b c : Src) (part xt : Nat) (ma mb mc : Mod) (r : Rnd) : Nat :=
  packBits fmtFP (hdrBits opc h ty md ++ [d.toNat, a.num, b.num, c.num, a.kind, b.kind, c.kind, 0, part, xt,
    mc.abs.toNat, mc.neg.toNat, mb.abs.toNat, mb.neg.toNat, ma.abs.toNat, ma.neg.toNat, r.dyn.toNat, r.rm.toNat])

/-- A word of format VI. -/
def encVI (opc : Nat) (h : Hdr) (ty md : Nat) (d : BitVec 8) (a : Src) (imm : BitVec 32) : Nat :=
  packBits fmtVI (hdrBits opc h ty md ++ [d.toNat, a.num, a.kind, 0, imm.toNat])

/-- A word of format M. -/
def encM (opc : Nat) (h : Hdr) (ty md : Nat) (d : BitVec 8) (m : MAddr) (d2 : BitVec 8) (x12 : Nat) : Nat :=
  packBits fmtM (hdrBits opc h ty md ++ [d.toNat, m.rc.toNat, m.ix.num, m.ix.kind, m.scope.toNat, m.order.toNat,
    m.width.toNat, m.off.toNat, d2.toNat, x12])

/-- A word of format B. -/
def encB (opc : Nat) (h : Hdr) (md : Nat) (loff : BitVec 32) (slot : BitVec 3) (lr : BitVec 8) (jn : BitVec 4) (x : Nat) : Nat :=
  packBits fmtB (hdrBits opc h 0 md ++ [loff.toNat, slot.toNat, lr.toNat, jn.toNat, x])

/-- A word of format X. -/
def encX (opc : Nat) (h : Hdr) (ty md : Nat) (areg breg : BitVec 8) (tile : BitVec 5) (conv : BitVec 3) (fw : BitVec 8)
    (shape : BitVec 4) (sat zacc : Bool) : Nat :=
  packBits fmtX (hdrBits opc h ty md ++ [areg.toNat, breg.toNat, tile.toNat, conv.toNat, fw.toNat, shape.toNat,
    sat.toNat, zacc.toNat, 0])

/-- A word of format S. -/
def encS (opc : Nat) (h : Hdr) (md : Nat) (d a b : Nat) (sbase x11 imm : Nat) : Nat :=
  packBits fmtS (hdrBits opc h 0 md ++ [d, a, b, sbase, x11, imm])

/-- No modifier. -/
def Mod.id_ : Mod := { abs := false, neg := false }
/-- No rounding field. -/
def Rnd.zero : Rnd := { dyn := false, rm := 0 }
/-- Address fields that are all zero, for `spill`, `fill` and `fence` but for the fields they use. -/
def MAddr.only (scope : BitVec 3) (order : BitVec 2) (width : BitVec 4) (off : BitVec 24) : MAddr :=
  { rc := 0, ix := .v 0, scope := scope, order := order, width := width, off := off }

/-- The word of an instruction; the steps that have no encoding have none. -/
def encode : Instr → Option Nat
  | .bra h loff slot => some (encB 0x01 h 0 loff slot 0 0 0)
  | .brx h lr => some (encB 0x02 h 0 0 0 lr 0 0)
  | .brxU h lr => some (encB 0x02 h 1 0 0 lr 0 0)
  | .call h lr loff slot => some (encB 0x03 h 0 loff slot lr 0 0)
  | .callR h lr tr => some (encB 0x03 h 1 0 0 lr 0 tr.toNat)
  | .ret h lr => some (encB 0x04 h 0 0 0 lr 0 0)
  | .exit h => some (encB 0x05 h 0 0 0 0 0 0)
  | .joinEnrol h jn => some (encB 0x06 h 0 0 0 0 jn 0)
  | .joinWait h jn => some (encB 0x07 h 0 0 0 0 jn 0)
  | .joinLeave h jn => some (encB 0x08 h 0 0 0 0 jn 0)
  | .yield h => some (encB 0x09 h 0 0 0 0 0 0)
  | .nop h => some (encB 0x0A h 0 0 0 0 0 0)
  | .trap h code => some (encVI 0x0B h 0 0 0 (.v 0) (code.setWidth 32))
  | .brk h id => some (encVI 0x0C h 0 0 0 (.v 0) (id.setWidth 32))
  | .plop h d a b c table => some (encVR 0x0D h 0 0 d a b c table.toNat)
  | .lmaskEvery h d a => some (encVR 0x0E h 0 0 d a .zero .zero 0)
  | .lmaskSome h d a => some (encVR 0x0E h 0 1 d a .zero .zero 0)
  | .lmaskAlike h d a => some (encVR 0x0E h 0 2 d a .zero .zero 0)
  | .lmaskBits h d a => some (encVR 0x0E h 0 3 d a .zero .zero 0)
  | .lmaskCount h d a => some (encVR 0x0E h 0 4 d a .zero .zero 0)
  | .lmaskRank h d a => some (encVR 0x0E h 0 5 d a .zero .zero 0)
  | .sleep h a imm => some (encVI 0x0F h 0 0 0 a imm)
  | .iadd h t sat d a b => some (encVR 0x20 h t.code sat.toNat d a b .zero 0)
  | .isub h t sat d a b => some (encVR 0x21 h t.code sat.toNat d a b .zero 0)
  | .imul h t sat d a b => some (encVR 0x22 h t.code sat.toNat d a b .zero 0)
  | .imulh h t d a b => some (encVR 0x23 h t.code 0 d a b .zero 0)
  | .imad h t sat d a b c => some (encVR 0x24 h t.code sat.toNat d a b c 0)
  | .imin h t d a b => some (encVR 0x25 h t.code 0 d a b .zero 0)
  | .imax h t d a b => some (encVR 0x26 h t.code 0 d a b .zero 0)
  | .iabs h t sat d a => some (encVR 0x27 h t.code sat.toNat d a .zero .zero 0)
  | .icmp h t cond any d a b => some (encVR 0x28 h t.code (cond.toNat + 8 * any.toNat) d a b .zero 0)
  | .shl h t d a b => some (encVR 0x29 h t.code 0 d a b .zero 0)
  | .shr h t d a b => some (encVR 0x2A h t.code 0 d a b .zero 0)
  | .sar h t d a b => some (encVR 0x2B h t.code 0 d a b .zero 0)
  | .rot h t right d a b => some (encVR 0x2C h t.code right.toNat d a b .zero 0)
  | .tern h d a b c table => some (encVR 0x2D h 0 0 d a b c table.toNat)
  | .popc h t d a => some (encVR 0x2E h t.code 0 d a .zero .zero 0)
  | .clz h t d a => some (encVR 0x2F h t.code 0 d a .zero .zero 0)
  | .ctz h t d a => some (encVR 0x30 h t.code 0 d a .zero .zero 0)
  | .brev h t d a => some (encVR 0x31 h t.code 0 d a .zero .zero 0)
  | .bfx h t d a b => some (encVR 0x32 h t.code 0 d a b .zero 0)
  | .bfi h t d a b c => some (encVR 0x33 h t.code 0 d a b c 0)
  | .bsRead h t peek d a b => some (encVR 0x34 h t.code peek.toNat d (.v a) b .zero 0)
  | .bsFill h d a k => some (encVR 0x35 h 0 0 d a .zero .zero k.toNat)
  | .bsSeek h mode d a => some (encVR 0x36 h 3 mode.toNat d a .zero .zero 0)
  | .sel h d a b k neg => some (encVR 0x37 h 0 0 d a b .zero (k.toNat + 8 * neg.toNat))
  | .mov h d a => some (encVR 0x38 h 0 0 d a .zero .zero 0)
  | .movi h t d imm => some (encVI 0x39 h t.code 0 d .zero imm)
  | .moviHi h d imm => some (encVI 0x39 h 3 1 d .zero imm)
  | .lea h d a b sh => some (encVR 0x3A h 0 0 d a b .zero sh.toNat)
  | .leaPc h d b sh => some (encVR 0x3A h 0 1 d .zero b .zero sh.toNat)
  | .uadd h sub d a b => some (encS 0x3B h sub.toNat d.toNat a.toNat b.num 0 b.bimm b.immBits)
  | .umul h mode d a b => some (encS 0x3C h mode.toNat d.toNat a.toNat b.num 0 b.bimm b.immBits)
  | .utern h d a b c table => some (encS 0x3D h 0 d.toNat a.toNat b.num c.toNat (b.bimm + 2 * table.toNat) b.immBits)
  | .ushift h mode d a b => some (encS 0x3E h mode.toNat d.toNat a.toNat b.num 0 b.bimm b.immBits)
  | .ucmp h cond sgn d a b => some (encS 0x3F h (cond.toNat + 8 * sgn.toNat) d.toNat a.toNat b.num 0 b.bimm b.immBits)
  | .umov h d a => some (encS 0x40 h 0 d.toNat a.toNat 0 0 0 0)
  | .umovSx h d imm => some (encS 0x40 h 1 d.toNat 0 0 0 0 imm.toNat)
  | .umovZx h d imm => some (encS 0x40 h 2 d.toNat 0 0 0 0 imm.toNat)
  | .umovHi h d imm => some (encS 0x40 h 3 d.toNat 0 0 0 0 imm.toNat)
  | .umovV h d a => some (encS 0x40 h 4 d.toNat a.toNat 0 0 0 0)
  | .upredSet h d a => some (encS 0x41 h 0 d.toNat a.toNat 0 0 0 0)
  | .upredGet h d a => some (encS 0x41 h 1 d.toNat a.toNat 0 0 0 0)
  | .upredNz h d a => some (encS 0x41 h 2 d.toNat a.toNat 0 0 0 0)
  | .sreg h d n => some (encVI 0x42 h 0 0 d .zero (n.setWidth 32))
  | .sregU h d n => some (encVI 0x42 h 0 1 d .zero (n.setWidth 32))
  | .fadd h t r d a b ma mb => some (encFP 0x50 h t.code 0 d a b .zero 0 0 ma mb .id_ r)
  | .fmul h t r d a b ma mb => some (encFP 0x51 h t.code 0 d a b .zero 0 0 ma mb .id_ r)
  | .ffma h t r d a b c ma mb mc => some (encFP 0x52 h t.code 0 d a b c 0 0 ma mb mc r)
  | .fmin h t nan d a b ma mb => some (encFP 0x53 h t.code nan.toNat d a b .zero 0 0 ma mb .id_ .zero)
  | .fmax h t nan d a b ma mb => some (encFP 0x54 h t.code nan.toNat d a b .zero 0 0 ma mb .id_ .zero)
  | .fcmp h t cond any d a b ma mb =>
    some (encFP 0x55 h t.code (cond.toNat + 8 * any.toNat) d a b .zero 0 0 ma mb .id_ .zero)
  | .fclass h t d a ma => some (encFP 0x56 h t.code 0 d a .zero .zero 0 0 ma .id_ .id_ .zero)
  | .fcvt h t x part r d a ma => some (encFP 0x57 h t.code 0 d a .zero .zero part.toNat x.code ma .id_ .id_ r)
  | .icvt h t x part r d a => some (encFP 0x58 h t.code 0 d a .zero .zero part.toNat x.code .id_ .id_ .id_ r)
  | .fcvti h t x part r d a ma => some (encFP 0x59 h t.code 0 d a .zero .zero part.toNat x.code ma .id_ .id_ r)
  | .frcp h t r d a ma => some (encFP 0x5A h t.code 0 d a .zero .zero 0 0 ma .id_ .id_ r)
  | .frsq h t r d a ma => some (encFP 0x5B h t.code 0 d a .zero .zero 0 0 ma .id_ .id_ r)
  | .fsqrt h t r d a ma => some (encFP 0x5C h t.code 0 d a .zero .zero 0 0 ma .id_ .id_ r)
  | .fdiv h t r d a b ma mb => some (encFP 0x5D h t.code 0 d a b .zero 0 0 ma mb .id_ r)
  | .fex2 h t r d a ma => some (encFP 0x5E h t.code 0 d a .zero .zero 0 0 ma .id_ .id_ r)
  | .flg2 h t r d a ma => some (encFP 0x5F h t.code 0 d a .zero .zero 0 0 ma .id_ .id_ r)
  | .fsin h t r d a ma => some (encFP 0x60 h t.code 0 d a .zero .zero 0 0 ma .id_ .id_ r)
  | .fcos h t r d a ma => some (encFP 0x61 h t.code 0 d a .zero .zero 0 0 ma .id_ .id_ r)
  | .xlane h t d a b ma => some (encFP 0x62 h t.code 0 d a b .zero 0 0 ma .id_ .id_ .zero)
  | .qx h mode d a => some (encFP 0x63 h 0 mode.toNat d a .zero .zero 0 0 .id_ .id_ .id_ .zero)
  | .fold h t op sat r d a ma =>
    some (encFP 0x64 h t.code (op.toNat + 8 * sat.toNat) d a .zero .zero 0 0 ma .id_ .id_ r)
  | .scan h t op excl r d a ma =>
    some (encFP 0x65 h t.code (op.toNat + 8 * excl.toNat) d a .zero .zero 0 0 ma .id_ .id_ r)
  | .pack h t x part r d a b ma mb => some (encFP 0x66 h t.code 0 d a b .zero part.toNat x.code ma mb .id_ r)
  | .fscale h t r d a b ma => some (encFP 0x67 h t.code 0 d a b .zero 0 0 ma .id_ .id_ r)
  | .frnd h t ix r d a ma => some (encFP 0x68 h t.code ix.toNat d a .zero .zero 0 0 ma .id_ .id_ r)
  | .ld h t sp d m => some (encM 0x80 h t.code sp.toNat d m 0 0)
  | .st h t sp d m => some (encM 0x81 h t.code sp.toNat d m 0 0)
  | .atom h t op d d2 m => some (encM 0x82 h t.code op.toNat d m d2 0)
  | .cas h t sp d d2 nv m => some (encM 0x83 h t.code sp.toNat d m d2 nv.toNat)
  | .fence h scope order => some (encM 0x84 h 0 0 0 (MAddr.only scope order 0 0) 0 0)
  | .recSet h rc k => some (encS 0x85 h 0 0 0 0 k.toNat rc.toNat 0)
  | .recSetBase h rc a => some (encS 0x85 h 1 0 a.toNat 0 0 rc.toNat 0)
  | .recSetAdv h rc a => some (encS 0x85 h 2 0 a.toNat 0 0 rc.toNat 0)
  | .recGet h rc k => some (encS 0x86 h 0 0 0 0 k.toNat rc.toNat 0)
  | .spill h push d width off => some (encM 0x87 h 0 push.toNat d (MAddr.only 0 0 width off) 0 0)
  | .fill h pop d width off => some (encM 0x88 h 0 pop.toNat d (MAddr.only 0 0 width off) 0 0)
  | .barInit h acct d n e =>
    some (encS 0x89 h 0 d.toNat e.num 0 0 (n.toNat + 32 * e.bimm + 64 * acct.toNat) e.immBits)
  | .barArrive h group d n => some (encS 0x8A h 0 d.toNat 0 0 0 (n.toNat + 64 * group.toNat) 0)
  | .barWait h n p => some (encS 0x8B h 0 0 p.num 0 0 (n.toNat + 32 * p.bimm) p.immBits)
  | .barTest h par d n p => some (encS 0x8C h 0 d.toNat p.num 0 0 (n.toNat + 32 * p.bimm + 64 * par.toNat) p.immBits)
  | .tagWaitany h clr d a => some (encS 0x8D h clr.toNat d.toNat a.toNat 0 0 0 0)
  | .tagWaitall h clr d a => some (encS 0x8E h clr.toNat d.toNat a.toNat 0 0 0 0)
  | .tagFirst h clr d a => some (encS 0x8F h clr.toNat d.toNat a.toNat 0 0 0 0)
  | .tagRead h d a => some (encS 0x90 h 0 d.toNat a.toNat 0 0 0 0)
  | .tagReadSt h d a => some (encS 0x90 h 1 d.toNat a.toNat 0 0 0 0)
  | .tagClear h a => some (encS 0x91 h 0 0 a.toNat 0 0 0 0)
  | .cmapWait h d a b => some (encS 0x92 h 0 d.toNat a.toNat b.toNat 0 0 0)
  | .cmapTest h d a b => some (encS 0x93 h 0 d.toNat a.toNat b.toNat 0 0 0)
  | .ringBind h d a b n => some (encS 0x94 h 0 d.toNat a.toNat b.toNat 0 0 n.toNat)
  | .ringUnbind h d a => some (encS 0x95 h 0 d.toNat a.toNat 0 0 0 0)
  | .dwsPin h d a n => some (encS 0x96 h 0 d.toNat a.toNat n.num 0 n.bimm n.immBits)
  | .dwsUnpin h d a n => some (encS 0x97 h 0 d.toNat a.toNat n.num 0 n.bimm n.immBits)
  | .dwsAlloc h d n => some (encS 0x98 h 0 d.toNat n.num 0 0 n.bimm n.immBits)
  | .dwsFree h d a => some (encS 0x99 h 0 d.toNat a.toNat 0 0 0 0)
  | .mma h f => some (encX 0xA0 h f.ty.code 0 f.areg f.breg f.tile f.conv f.fw f.shape f.sat f.zacc)
  | .mmaBatch h f => some (encX 0xA1 h f.ty.code 0 f.areg f.breg f.tile f.conv f.fw f.shape f.sat f.zacc)
  | .mfence h => some (encX 0xA2 h 0 0 0 0 0 0 0 0 false false)
  | .mwait h tile => some (encX 0xA3 h 0 0 0 0 tile 0 0 0 false false)
  | .mwaitAll h => some (encX 0xA3 h 0 1 0 0 0 0 0 0 false false)
  | .accPut h t tile src => some (encX 0xA4 h t.code 0 src 0 tile 0 0 0 false false)
  | .accGet h t d tile => some (encX 0xA5 h t.code 0 d 0 tile 0 0 0 false false)
  | .accZero h t tile => some (encX 0xA6 h t.code 0 0 0 tile 0 0 0 false false)
  | .convDecl h g d c k => some (encS 0xA7 h 0 d.toNat 0 0 k.toNat (c.toNat + 8 * g.toNat) 0)
  | .convDeclFree h d c => some (encS 0xA7 h 1 d.toNat 0 0 0 c.toNat 0)
  | .convRead h d c => some (encS 0xA8 h 0 d.toNat 0 0 0 c.toNat 0)
  | .fmtw h mode d a imm => some (encVI 0xA9 h 0 mode.toNat d a imm)
  | .spawn h trp d k => some (encS 0xB0 h trp.toNat d.toNat 0 0 k.toNat 0 0)
  | .spawnWait h d a => some (encS 0xB1 h 0 d.toNat a.toNat 0 0 0 0)
  | .qrunCount h d n => some (encS 0xB2 h 0 d.toNat 0 0 n.toNat 0 0)
  | .qrunStop h d n => some (encS 0xB2 h 1 d.toNat 0 0 n.toNat 0 0)
  | .qrunStep h d n => some (encS 0xB2 h 2 d.toNat 0 0 n.toNat 0 0)
  | .qrunResume h d n => some (encS 0xB2 h 3 d.toNat 0 0 n.toNat 0 0)
  | .qrunKill h d n => some (encS 0xB2 h 4 d.toNat 0 0 n.toNat 0 0)
  | .qrunRead h d n sv => some (encS 0xB2 h 5 d.toNat 0 sv.toNat n.toNat 0 0)
  | .qrunWrite h d n sv => some (encS 0xB2 h 6 d.toNat 0 sv.toNat n.toNat 0 0)
  | .qterm h code => some (encS 0xB3 h 0 0 code.num 0 0 code.bimm code.immBits)
  | .preDone h => some (encS 0xB4 h 0 0 0 0 0 0 0)
  | .preWait h d => some (encS 0xB5 h 0 d.toNat 0 0 0 0 0)
  | .rgn h => some (encS 0xB6 h 0 0 0 0 0 0 0)
  | .dikeOpen h sr loff slot => some (encB 0xB7 h 0 loff slot sr 0 0)
  | .dikeClose h => some (encS 0xB8 h 0 0 0 0 0 0 0)
  | .icinv h scope => some (encS 0xB9 h 0 0 0 0 0 scope.toNat 0)
  | .ctrRead h d n => some (encS 0xBA h 0 d.toNat n.num 0 0 n.bimm n.immBits)
  | .eret h => some (encB 0xBB h 0 0 0 0 0 0)
  | .eretNext h => some (encB 0xBB h 1 0 0 0 0 0)
  | .sset h n a => some (encVI 0xBC h 0 0 0 a (n.setWidth 32))
  | .halt h => some (encS 0xBD h 0 0 0 0 0 0 0)
  | .haltStop h => some (encS 0xBD h 1 0 0 0 0 0 0)
  | .mboxRecv h nb d k box => some (encS 0xBE h nb.toNat d.toNat 0 0 k.toNat box.toNat 0)
  | .mboxSend h nb d a k => some (encS 0xBF h nb.toNat d.toNat a.toNat 0 k.toNat 0 0)
  | _ => none

/-- The header of decoded fields. -/
def Hdr.of (pr pn lf fs : Nat) : Hdr :=
  { pr := BitVec.ofNat 3 pr, pn := decide (pn = 1), lf := decide (lf = 1), fs := decide (fs = 1) }

/-- Read an instruction of format B. -/
def readB (opc md : Nat) (h : Hdr) (loff slot lr jn x : Nat) : Option Instr :=
  let lo := BitVec.ofNat 32 loff
  let sl := BitVec.ofNat 3 slot
  let l := BitVec.ofNat 8 lr
  let j := BitVec.ofNat 4 jn
  match opc, md with
  | 0x01, 0 => some (.bra h lo sl)
  | 0x02, 0 => some (.brx h l)
  | 0x02, 1 => some (.brxU h l)
  | 0x03, 0 => some (.call h l lo sl)
  | 0x03, 1 => some (.callR h l (BitVec.ofNat 8 x))
  | 0x04, 0 => some (.ret h l)
  | 0x05, 0 => some (.exit h)
  | 0x06, 0 => some (.joinEnrol h j)
  | 0x07, 0 => some (.joinWait h j)
  | 0x08, 0 => some (.joinLeave h j)
  | 0x09, 0 => some (.yield h)
  | 0x0A, 0 => some (.nop h)
  | 0xB7, 0 => some (.dikeOpen h l lo sl)
  | 0xBB, 0 => some (.eret h)
  | 0xBB, 1 => some (.eretNext h)
  | _, _ => none

/-- Read an instruction of format VI. -/
def readVI (opc ty md : Nat) (h : Hdr) (d : BitVec 8) (a : Src) (imm : Nat) : Option Instr :=
  let im := BitVec.ofNat 32 imm
  match opc with
  | 0x0B => some (.trap h (BitVec.ofNat 16 imm))
  | 0x0C => some (.brk h (BitVec.ofNat 16 imm))
  | 0x0F => some (.sleep h a im)
  | 0x39 => if md = 1 then some (.moviHi h d im) else some (.movi h (Ty.of ty) d im)
  | 0x42 => if md = 1 then some (.sregU h d (BitVec.ofNat 8 imm)) else some (.sreg h d (BitVec.ofNat 8 imm))
  | 0xA9 => some (.fmtw h (BitVec.ofNat 4 md) d a im)
  | 0xBC => some (.sset h (BitVec.ofNat 8 imm) a)
  | _ => none

/-- Read an instruction of format VR, opcodes 0x0D to 0x3A. -/
def readVR (opc ty md : Nat) (h : Hdr) (d : BitVec 8) (a b c : Src) (x : Nat) : Option Instr :=
  let t := Ty.of ty
  let m1 := decide (md = 1)
  match opc with
  | 0x0D => some (.plop h d a b c (BitVec.ofNat 8 x))
  | 0x0E =>
    match md with
    | 0 => some (.lmaskEvery h d a)
    | 1 => some (.lmaskSome h d a)
    | 2 => some (.lmaskAlike h d a)
    | 3 => some (.lmaskBits h d a)
    | 4 => some (.lmaskCount h d a)
    | 5 => some (.lmaskRank h d a)
    | _ => none
  | 0x20 => some (.iadd h t m1 d a b)
  | 0x21 => some (.isub h t m1 d a b)
  | 0x22 => some (.imul h t m1 d a b)
  | 0x23 => some (.imulh h t d a b)
  | 0x24 => some (.imad h t m1 d a b c)
  | 0x25 => some (.imin h t d a b)
  | 0x26 => some (.imax h t d a b)
  | 0x27 => some (.iabs h t m1 d a)
  | 0x28 => some (.icmp h t (BitVec.ofNat 3 md) (decide (8 ≤ md)) d a b)
  | 0x29 => some (.shl h t d a b)
  | 0x2A => some (.shr h t d a b)
  | 0x2B => some (.sar h t d a b)
  | 0x2C => some (.rot h t m1 d a b)
  | 0x2D => some (.tern h d a b c (BitVec.ofNat 8 x))
  | 0x2E => some (.popc h t d a)
  | 0x2F => some (.clz h t d a)
  | 0x30 => some (.ctz h t d a)
  | 0x31 => some (.brev h t d a)
  | 0x32 => some (.bfx h t d a b)
  | 0x33 => some (.bfi h t d a b c)
  | 0x34 =>
    match a with
    | .v n => some (.bsRead h t m1 d n b)
    | _ => none
  | 0x35 => some (.bsFill h d a (BitVec.ofNat 3 x))
  | 0x36 => some (.bsSeek h (BitVec.ofNat 4 md) d a)
  | 0x37 => some (.sel h d a b (BitVec.ofNat 3 x) (decide (8 ≤ x)))
  | 0x38 => some (.mov h d a)
  | 0x3A => if md = 1 then some (.leaPc h d b (BitVec.ofNat 3 x)) else some (.lea h d a b (BitVec.ofNat 3 x))
  | _ => none

/-- Read an instruction of the floating-point layout, opcodes 0x50 to 0x68. -/
def readFP (opc ty md : Nat) (h : Hdr) (d : BitVec 8) (a b c : Src) (part xt : Nat) (ma mb mc : Mod) (r : Rnd) :
    Option Instr :=
  let t := Ty.of ty
  let x := Ty.of xt
  let m1 := decide (md = 1)
  let p := BitVec.ofNat 4 part
  match opc with
  | 0x50 => some (.fadd h t r d a b ma mb)
  | 0x51 => some (.fmul h t r d a b ma mb)
  | 0x52 => some (.ffma h t r d a b c ma mb mc)
  | 0x53 => some (.fmin h t m1 d a b ma mb)
  | 0x54 => some (.fmax h t m1 d a b ma mb)
  | 0x55 => some (.fcmp h t (BitVec.ofNat 3 md) (decide (8 ≤ md)) d a b ma mb)
  | 0x56 => some (.fclass h t d a ma)
  | 0x57 => some (.fcvt h t x p r d a ma)
  | 0x58 => some (.icvt h t x p r d a)
  | 0x59 => some (.fcvti h t x p r d a ma)
  | 0x5A => some (.frcp h t r d a ma)
  | 0x5B => some (.frsq h t r d a ma)
  | 0x5C => some (.fsqrt h t r d a ma)
  | 0x5D => some (.fdiv h t r d a b ma mb)
  | 0x5E => some (.fex2 h t r d a ma)
  | 0x5F => some (.flg2 h t r d a ma)
  | 0x60 => some (.fsin h t r d a ma)
  | 0x61 => some (.fcos h t r d a ma)
  | 0x62 => some (.xlane h t d a b ma)
  | 0x63 => some (.qx h (BitVec.ofNat 4 md) d a)
  | 0x64 => some (.fold h t (BitVec.ofNat 3 md) (decide (8 ≤ md)) r d a ma)
  | 0x65 => some (.scan h t (BitVec.ofNat 3 md) (decide (8 ≤ md)) r d a ma)
  | 0x66 => some (.pack h t x p r d a b ma mb)
  | 0x67 => some (.fscale h t r d a b ma)
  | 0x68 => some (.frnd h t m1 r d a ma)
  | _ => none

/-- Read an instruction of format M. -/
def readM (opc ty md : Nat) (h : Hdr) (d : BitVec 8) (m : MAddr) (d2 x12 : Nat) : Option Instr :=
  let t := Ty.of ty
  let sp := BitVec.ofNat 2 md
  match opc with
  | 0x80 => some (.ld h t sp d m)
  | 0x81 => some (.st h t sp d m)
  | 0x82 => some (.atom h t (BitVec.ofNat 4 md) d (BitVec.ofNat 8 d2) m)
  | 0x83 => some (.cas h t sp d (BitVec.ofNat 8 d2) (BitVec.ofNat 8 x12) m)
  | 0x84 => some (.fence h m.scope m.order)
  | 0x87 => some (.spill h (decide (md = 1)) d m.width m.off)
  | 0x88 => some (.fill h (decide (md = 1)) d m.width m.off)
  | _ => none

/-- Read an instruction of format X. -/
def readX (opc ty md : Nat) (h : Hdr) (f : MmaF) : Option Instr :=
  match opc with
  | 0xA0 => some (.mma h { f with ty := Ty.of ty })
  | 0xA1 => some (.mmaBatch h { f with ty := Ty.of ty })
  | 0xA2 => some (.mfence h)
  | 0xA3 => if md = 1 then some (.mwaitAll h) else some (.mwait h f.tile)
  | 0xA4 => some (.accPut h (Ty.of ty) f.tile f.areg)
  | 0xA5 => some (.accGet h (Ty.of ty) f.areg f.tile)
  | 0xA6 => some (.accZero h (Ty.of ty) f.tile)
  | _ => none

/-- Read an instruction of format S, opcodes 0x3B to 0x41. -/
def readS1 (opc md : Nat) (h : Hdr) (d a b sbase x11 imm : Nat) : Option Instr :=
  let d8 := BitVec.ofNat 8 d
  let a8 := BitVec.ofNat 8 a
  let u := USrc.of (x11 % 2) b imm
  let im := BitVec.ofNat 32 imm
  match opc with
  | 0x3B => some (.uadd h (decide (md = 1)) d8 a8 u)
  | 0x3C => some (.umul h (BitVec.ofNat 4 md) d8 a8 u)
  | 0x3D => some (.utern h d8 a8 u (BitVec.ofNat 7 sbase) (BitVec.ofNat 8 (x11 / 2)))
  | 0x3E => some (.ushift h (BitVec.ofNat 4 md) d8 a8 u)
  | 0x3F => some (.ucmp h (BitVec.ofNat 3 md) (decide (8 ≤ md)) d8 a8 u)
  | 0x40 =>
    match md with
    | 0 => some (.umov h d8 a8)
    | 1 => some (.umovSx h d8 im)
    | 2 => some (.umovZx h d8 im)
    | 3 => some (.umovHi h d8 im)
    | 4 => some (.umovV h d8 a8)
    | _ => none
  | 0x41 =>
    match md with
    | 0 => some (.upredSet h d8 a8)
    | 1 => some (.upredGet h d8 a8)
    | 2 => some (.upredNz h d8 a8)
    | _ => none
  | _ => none

/-- Read an instruction of format S, opcodes 0x85 to 0xA8. -/
def readS2 (opc md : Nat) (h : Hdr) (d a b sbase x11 imm : Nat) : Option Instr :=
  let d8 := BitVec.ofNat 8 d
  let a8 := BitVec.ofNat 8 a
  let b8 := BitVec.ofNat 8 b
  let rc := BitVec.ofNat 4 x11
  let k := BitVec.ofNat 7 sbase
  let n5 := BitVec.ofNat 5 x11
  let p := USrc.of (x11 / 32 % 2) a imm
  let clr := decide (md = 1)
  let c := BitVec.ofNat 3 x11
  match opc with
  | 0x85 =>
    match md with
    | 0 => some (.recSet h rc k)
    | 1 => some (.recSetBase h rc a8)
    | 2 => some (.recSetAdv h rc a8)
    | _ => none
  | 0x86 => some (.recGet h rc k)
  | 0x89 => some (.barInit h (BitVec.ofNat 2 (x11 / 64)) d8 n5 p)
  | 0x8A => some (.barArrive h (decide (x11 / 64 % 2 = 1)) d8 n5)
  | 0x8B => some (.barWait h n5 p)
  | 0x8C => some (.barTest h (decide (x11 / 64 % 2 = 1)) d8 n5 p)
  | 0x8D => some (.tagWaitany h clr d8 a8)
  | 0x8E => some (.tagWaitall h clr d8 a8)
  | 0x8F => some (.tagFirst h clr d8 a8)
  | 0x90 => if md = 1 then some (.tagReadSt h d8 a8) else some (.tagRead h d8 a8)
  | 0x91 => some (.tagClear h a8)
  | 0x92 => some (.cmapWait h d8 a8 b8)
  | 0x93 => some (.cmapTest h d8 a8 b8)
  | 0x94 => some (.ringBind h d8 a8 b8 (BitVec.ofNat 32 imm))
  | 0x95 => some (.ringUnbind h d8 a8)
  | 0x96 => some (.dwsPin h d8 a8 (USrc.of (x11 % 2) b imm))
  | 0x97 => some (.dwsUnpin h d8 a8 (USrc.of (x11 % 2) b imm))
  | 0x98 => some (.dwsAlloc h d8 (USrc.of (x11 % 2) a imm))
  | 0x99 => some (.dwsFree h d8 a8)
  | 0xA7 => if md = 1 then some (.convDeclFree h d8 c) else some (.convDecl h (BitVec.ofNat 2 (x11 / 8)) d8 c k)
  | 0xA8 => some (.convRead h d8 c)
  | _ => none

/-- Read an instruction of format S, opcodes 0xB0 to 0xBF. -/
def readS3 (opc md : Nat) (h : Hdr) (d a b sbase x11 imm : Nat) : Option Instr :=
  let d8 := BitVec.ofNat 8 d
  let a8 := BitVec.ofNat 8 a
  let b8 := BitVec.ofNat 8 b
  let k := BitVec.ofNat 7 sbase
  let u := USrc.of (x11 % 2) a imm
  let m1 := decide (md = 1)
  match opc with
  | 0xB0 => some (.spawn h m1 d8 k)
  | 0xB1 => some (.spawnWait h d8 a8)
  | 0xB2 =>
    match md with
    | 0 => some (.qrunCount h d8 k)
    | 1 => some (.qrunStop h d8 k)
    | 2 => some (.qrunStep h d8 k)
    | 3 => some (.qrunResume h d8 k)
    | 4 => some (.qrunKill h d8 k)
    | 5 => some (.qrunRead h d8 k b8)
    | 6 => some (.qrunWrite h d8 k b8)
    | _ => none
  | 0xB3 => some (.qterm h u)
  | 0xB4 => some (.preDone h)
  | 0xB5 => some (.preWait h d8)
  | 0xB6 => some (.rgn h)
  | 0xB8 => some (.dikeClose h)
  | 0xB9 => some (.icinv h (BitVec.ofNat 2 x11))
  | 0xBA => some (.ctrRead h d8 u)
  | 0xBD => if md = 1 then some (.haltStop h) else some (.halt h)
  | 0xBE => some (.mboxRecv h m1 d8 k (BitVec.ofNat 4 x11))
  | 0xBF => some (.mboxSend h m1 d8 a8 k)
  | _ => none

/-- The six formats, the floating-point layout of VR apart. -/
inductive Fmt where
  | vr | fp | vi | m | b | x | s
  deriving DecidableEq, Repr

/-- The format of an opcode (R140); none when the opcode is unassigned (R141). -/
def fmtOf (opc : Nat) : Option Fmt :=
  if opc = 0 then none
  else if opc ≤ 0x0A then some .b
  else if opc ≤ 0x0C then some .vi
  else if opc ≤ 0x0E then some .vr
  else if opc ≤ 0x0F then some .vi
  else if opc ≤ 0x1F then none
  else if opc ≤ 0x38 then some .vr
  else if opc = 0x39 then some .vi
  else if opc = 0x3A then some .vr
  else if opc ≤ 0x41 then some .s
  else if opc = 0x42 then some .vi
  else if opc ≤ 0x4F then none
  else if opc ≤ 0x68 then some .fp
  else if opc ≤ 0x7F then none
  else if opc ≤ 0x84 then some .m
  else if opc ≤ 0x86 then some .s
  else if opc ≤ 0x88 then some .m
  else if opc ≤ 0x99 then some .s
  else if opc ≤ 0x9F then none
  else if opc ≤ 0xA6 then some .x
  else if opc ≤ 0xA8 then some .s
  else if opc = 0xA9 then some .vi
  else if opc ≤ 0xAF then none
  else if opc = 0xB7 then some .b
  else if opc = 0xBB then some .b
  else if opc = 0xBC then some .vi
  else if opc ≤ 0xBF then some .s
  else none

/-- The modifier of two bits (R177). -/
def Mod.of (abs neg : Nat) : Mod := { abs := decide (abs = 1), neg := decide (neg = 1) }

/-- Read the fields of a word in its format. -/
def readFields (f : Fmt) (w : Nat) : Option Instr :=
  match f with
  | .vr =>
    match unpackBits fmtVR w with
    | [opc, pr, pn, ty, md, lf, fs, d, a, b, c, ka, kb, kc, x] =>
      match Src.of ka a, Src.of kb b, Src.of kc c with
      | some sa, some sb, some sc => readVR opc ty md (Hdr.of pr pn lf fs) (BitVec.ofNat 8 d) sa sb sc x
      | _, _, _ => none
    | _ => none
  | .fp =>
    match unpackBits fmtFP w with
    | [opc, pr, pn, ty, md, lf, fs, d, a, b, c, ka, kb, kc, _, part, xt, ac, nc, ab, nb, aa, na, dyn, rm] =>
      match Src.of ka a, Src.of kb b, Src.of kc c with
      | some sa, some sb, some sc =>
        readFP opc ty md (Hdr.of pr pn lf fs) (BitVec.ofNat 8 d) sa sb sc part xt (Mod.of aa na) (Mod.of ab nb)
          (Mod.of ac nc) { dyn := decide (dyn = 1), rm := BitVec.ofNat 2 rm }
      | _, _, _ => none
    | _ => none
  | .vi =>
    match unpackBits fmtVI w with
    | [opc, pr, pn, ty, md, lf, fs, d, a, ka, _, imm] =>
      match Src.of ka a with
      | some sa => readVI opc ty md (Hdr.of pr pn lf fs) (BitVec.ofNat 8 d) sa imm
      | none => none
    | _ => none
  | .m =>
    match unpackBits fmtM w with
    | [opc, pr, pn, ty, md, lf, fs, d, rc, ix, ixk, scope, order, width, off, d2, x12] =>
      readM opc ty md (Hdr.of pr pn lf fs) (BitVec.ofNat 8 d)
        { rc := BitVec.ofNat 4 rc, ix := Ix.of ixk ix, scope := BitVec.ofNat 3 scope, order := BitVec.ofNat 2 order,
          width := BitVec.ofNat 4 width, off := BitVec.ofNat 24 off } d2 x12
    | _ => none
  | .b =>
    match unpackBits fmtB w with
    | [opc, pr, pn, _, md, lf, fs, loff, slot, lr, jn, x] => readB opc md (Hdr.of pr pn lf fs) loff slot lr jn x
    | _ => none
  | .x =>
    match unpackBits fmtX w with
    | [opc, pr, pn, ty, md, lf, fs, areg, breg, tile, conv, fw, shape, sat, zacc, _] =>
      readX opc ty md (Hdr.of pr pn lf fs)
        { ty := .i32, areg := BitVec.ofNat 8 areg, breg := BitVec.ofNat 8 breg, tile := BitVec.ofNat 5 tile,
          conv := BitVec.ofNat 3 conv, fw := BitVec.ofNat 8 fw, shape := BitVec.ofNat 4 shape,
          sat := decide (sat = 1), zacc := decide (zacc = 1) }
    | _ => none
  | .s =>
    match unpackBits fmtS w with
    | [opc, pr, pn, _, md, lf, fs, d, a, b, sbase, x11, imm] =>
      if opc ≤ 0x41 then readS1 opc md (Hdr.of pr pn lf fs) d a b sbase x11 imm
      else if opc ≤ 0xA8 then readS2 opc md (Hdr.of pr pn lf fs) d a b sbase x11 imm
      else readS3 opc md (Hdr.of pr pn lf fs) d a b sbase x11 imm
    | _ => none

/-- Decode the 96 bits of a slot. Every reserved bit must be zero (R138): the word must be the one that encodes the
instruction read from it. -/
def decode (w : Nat) : Except DecErr Instr :=
  match fmtOf (w / 2 ^ 88 % 256) with
  | none => .error .illegalOpcode
  | some f =>
    match readFields f w with
    | none => .error .illegalEncoding
    | some i => if i.wf && decide (encode i = some w) then .ok i else .error .illegalEncoding

/-- The header fields that a slot carries whatever it decodes to (R136, R137). -/
def slotPr (w : Nat) : BitVec 3 := BitVec.ofNat 3 (w / 2 ^ 85)
/-- `pn` of a slot. -/
def slotPn (w : Nat) : Bool := decide (w / 2 ^ 84 % 2 = 1)
/-- `opc` of a slot. -/
def slotOpc (w : Nat) : Nat := w / 2 ^ 88 % 256

/-- The bytes of a number, lowest first (R4). -/
def bytesOf : Nat → Nat → List Byte
  | 0, _ => []
  | n + 1, x => BitVec.ofNat 8 x :: bytesOf n (x / 256)

/-- The number of bytes, lowest first (R4). -/
def numOf : List Byte → Nat
  | [] => 0
  | b :: bs => b.toNat + 256 * numOf bs

/-- Slot s of a 64-byte fetch line (R127). -/
def lineSlot (line : List Byte) (s : Nat) : Nat := numOf ((line.drop (12 * s)).take 12)

/-- The line word of a fetch line (R127). -/
def lineWord (line : List Byte) : Nat := numOf (line.drop 60)

/-- The instruction in the first slot of a line whose slot 0 holds the word. The opcode table gives its rows no bits: every
instruction is one 96-bit slot. -/
def decodeTableWord (_nbits w : Nat) : Option Instr :=
  match decode (lineSlot (bytesOf 12 w) 0) with
  | .ok i => some i
  | .error _ => none

end Sys2Proof
end

