-- ==== Sys2Proof/Machine/Map.lean ====
section
/-! DEFINITION. Sparse tables keyed by a number: lists of pairs with rising keys. Memories, register files and the tables
of groups, blocks and launches are such lists. A memory or register file lists no entry equal to what an unlisted key
reads as, so equal contents are equal lists. -/

namespace Sys2Proof.Machine

/-- A sparse table. -/
abbrev Map (α : Type) := List (Nat × α)

/-- The entry of a key, if it is listed. -/
def Map.find? {α : Type} : Map α → Nat → Option α
  | [], _ => none
  | (k, a) :: m, x => if k = x then some a else Map.find? m x

/-- The value of a key, with the value that unlisted keys read as. -/
def Map.get {α : Type} (m : Map α) (dflt : α) (x : Nat) : α := (Map.find? m x).getD dflt

/-- The table with a key listed at its place. -/
def Map.insert {α : Type} : Map α → Nat → α → Map α
  | [], x, a => [(x, a)]
  | (k, b) :: m, x, a =>
    if x < k then (x, a) :: (k, b) :: m
    else if x = k then (x, a) :: m
    else (k, b) :: Map.insert m x a

/-- The table without a key. -/
def Map.erase {α : Type} : Map α → Nat → Map α
  | [], _ => []
  | (k, b) :: m, x => if k = x then Map.erase m x else (k, b) :: Map.erase m x

/-- Write a key; writing what unlisted keys read as removes the entry. -/
def Map.put {α : Type} [DecidableEq α] (m : Map α) (dflt : α) (x : Nat) (a : α) : Map α :=
  if a = dflt then Map.erase m x else Map.insert m x a

/-- Change the entry of a listed key. -/
def Map.adjust {α : Type} : Map α → Nat → (α → α) → Map α
  | [], _, _ => []
  | (k, b) :: m, x, f => if k = x then (k, f b) :: m else (k, b) :: Map.adjust m x f

/-- The keys of a table are strictly rising. -/
def Map.sorted {α : Type} : Map α → Bool
  | [] => true
  | [_] => true
  | (k, _) :: (k', b) :: m => decide (k < k') && Map.sorted ((k', b) :: m)

/-- The canonical form of a table with a default. -/
def Map.wf {α : Type} [DecidableEq α] (m : Map α) (dflt : α) : Bool :=
  Map.sorted m && m.all (fun p => decide (p.2 ≠ dflt))

/-- A set of numbers kept as a table. -/
abbrev NatSet := Map Unit

/-- Membership. -/
def NatSet.mem (m : NatSet) (x : Nat) : Bool := (Map.find? m x).isSome

/-- Adding a member. -/
def NatSet.add (m : NatSet) (x : Nat) : NatSet := Map.insert m x ()

/-- Removing a member. -/
def NatSet.del (m : NatSet) (x : Nat) : NatSet := Map.erase m x

end Sys2Proof.Machine
end

