-- ==== Sys2Proof/Machine/State.lean ====
section
/-! DEFINITION. The state of the KX9 as plain data: everything the chapters of the spec give the device, and the model's
own agenda. A polder, launch, cluster, block, group, copy or walk is named by a key of the model; the identifiers that the
spec gives it (launch.id, block.id and the others) are fields. A core is numbered 32 × CD + exposed number and a partition
4 × core + partition. -/

namespace Sys2Proof.Machine

/-- A byte memory in canonical form; an unlisted byte reads zero (log 4). -/
abbrev Mem := List Host.Cell

/-! ### Lanes and groups (01, 02) -/

/-- The wait states of R255, in the order of their codes. -/
inductive WaitState where
  | unstarted | running | barrier | rejoin | tag | fault | stopped | yield | matrix | prewait | spawnwait | sleep | trapped
  deriving DecidableEq, Repr

/-- How a lane came to its PC, which decides the checks on its line (R128, R131, R132). -/
inductive Entry where
  | inLine                      -- the line is entered and its wait mask passed
  | fall                        -- fell through into the line
  | xfer (src : Word)           -- transferred; the PC of the transferring instruction
  | handler (cause : Nat)       -- trap delivery or a dike unwind; the cause to report when the landing fails
  | resume                      -- start, resume or re-execution: no target check
  deriving DecidableEq, Repr

/-- An entry of a lane's dike stack (R266). -/
structure DikeEntry where
  handler : Word
  sreg    : BitVec 8
  openPc  : Word
  deriving DecidableEq, Repr

/-- A lane: its PC and the state of R24, R29, R41, R49, R56, R154, R255, R259 and R364. -/
structure Lane where
  left       : Bool
  helper     : Bool
  done       : Bool             -- a helper lane that has executed `exit` and issues no more (R150)
  pc         : Word
  entry      : Entry
  wait       : WaitState
  remembered : WaitState
  waitId     : Nat              -- the group's wait record the lane belongs to; 0 when none
  passed     : Nat
  yieldEnd   : Nat
  deadline   : Nat
  restart    : Word
  restartBsc : BitVec 7
  bsc        : BitVec 7
  fpStatus   : BitVec 5
  fpMode     : BitVec 2
  trapCause  : BitVec 32
  trapPc     : Word
  trapAddr   : Word
  inHandler  : Bool
  brkDone    : Bool
  retry      : Nat              -- the parking from which it has returned and which it has yet to perform again (R53, R358); 0 none
  stepping   : Bool
  met        : Bool             -- stopped in a wait whose condition has been met since (R258, R259)
  heldTrap   : Bool             -- TRAPPED with a trap held for inspection
  dike       : List DikeEntry
  stopAsked  : Bool             -- a pre-emption under R60 waits for this lane's forced boundary
  stopKind   : Nat              -- 0, 1 or 2 of the group image (R367)
  frozen     : Bool             -- stopped by a pre-emption, or without its launch's placement (R59, R60)
  deriving DecidableEq, Repr

/-- A lane that is not there: absent for cross-lane reads (R189). -/
def Lane.gone : Lane :=
  { left := true, helper := false, done := false, pc := 0, entry := .resume, wait := .unstarted, remembered := .running, waitId := 0,
    passed := 0, yieldEnd := 0, deadline := 0, restart := 0, restartBsc := 0, bsc := 0, fpStatus := 0, fpMode := 0,
    trapCause := 0, trapPc := 0, trapAddr := 0, inHandler := false, brkDone := false, retry := 0, stepping := false, met := false, heldTrap := false,
    dike := [], stopAsked := false, stopKind := 0, frozen := false }

/-- The classes of registers a group holds. -/
inductive RegClass where
  | v | s | p | j | b
  deriving DecidableEq, Repr

/-- One register write: a vector register (in the lane), or a register held per group. -/
structure RegWrite where
  cls   : RegClass
  idx   : Nat
  lane  : Nat
  value : Nat
  raced : Bool                  -- another unordered write of the register has landed: either result may remain (R134)
  deriving DecidableEq, Repr

/-- An issued instruction with `lf` = 1 that has not finished (R133), and its lanes. -/
structure Pending where
  id     : Nat
  flag   : Nat
  lanes  : LaneMask
  writes : List RegWrite
  deriving DecidableEq, Repr

/-- A register result with `lf` = 0 that is not yet readable (R43). -/
structure Score where
  cls   : RegClass
  idx   : Nat
  lanes : LaneMask
  by_   : LaneMask              -- the lanes that issued the instruction
  at_   : Nat
  old   : List (Nat × Word)     -- what a vector register held before, by lane (R240)
  deriving DecidableEq, Repr

/-- The instruction in which lanes of one bundle wait together. -/
structure GWait where
  id    : Nat
  instr : Instr
  lanes : LaneMask
  pc    : Word
  ops   : List Word             -- operand values read at issue
  due   : Bool                  -- its condition holds, and its completion is under way (R226, R247, R275)
  deriving DecidableEq, Repr

/-- The age of a bundle that a group offers at a PC, apart for lanes that return from one parking (R42, R48, R53). -/
structure Age where
  pc       : Word
  park     : Nat
  since    : Nat
  promoted : Bool
  reserved : Bool               -- promoted while its port was busy: no other bundle starts on that port before it (R48)
  deriving DecidableEq, Repr

/-- One byte that the region store buffer holds (R57): space 0 shared, 1 DWS (physical), 2 spill stack. -/
structure BufByte where
  space : Nat
  addr  : Nat
  lane  : Nat
  value : Byte
  page  : Nat                   -- the DWS page that was translated for it, and the invalidation generation then (R354)
  gen   : Nat
  under : Bool                  -- a higher lane of the same instruction stored the byte too: it is never committed (R37)
  deriving DecidableEq, Repr

/-- A matrix window of a lane (R240): the registers named at signing, the tile, and the round or operation. -/
structure Window where
  lane  : Nat
  conv  : Nat
  round : Nat
  tile  : Nat
  regs  : List Nat
  pc    : Word
  dirty : List Nat              -- registers written while the window is open
  late  : List (Nat × Word)     -- registers with a write in flight at the signing, with their old values
  deriving DecidableEq, Repr

/-- A group (R24): its place, its declared counts, its registers and its lanes. -/
structure Group where
  blk      : Nat
  gid      : Nat
  part     : Nat
  slot     : Nat
  system   : Bool
  started  : Bool
  retired  : Bool               -- all of its lanes have left (R20)
  nregs    : Nat
  ntiles   : Nat
  spillSz  : Nat
  spillAt  : Option Nat         -- the intermediate frame of its spill stack (R54)
  regBase  : Nat
  v        : Map Word           -- key 32 × register + lane
  s        : Map Word
  p        : Map (BitVec 32)    -- p7 reads as all ones
  j        : Map (BitVec 32)
  b        : Map (BitVec 256)
  tile     : Map Word           -- key 256 × tile + 16 × row + column
  tileFmt  : Map Nat            -- 0 unset, 1 i32, 2 f64, 3 f32
  pending  : List Pending       -- their counts are the completion flags f0 to f11
  score    : List Score
  waits    : List GWait
  ages     : List Age
  forcedB  : Option (Word × Nat) -- the bundle B that R41 names
  lines    : Map (List Byte)    -- the lines that its lanes have fetched, by address (R129, R143)
  pausedTo : Nat                -- paused by the compactor until this cycle
  buf      : List BufByte       -- the group's lines of the partition's region store buffer
  spill    : Mem
  poisonV  : NatSet             -- vector registers whose code word is uncorrectable
  poisonR  : NatSet             -- other registers, key 4096 × class + number
  poisonT  : NatSet             -- tile entries
  poisonS  : NatSet             -- 64-bit words of the spill stack
  windows  : List Window
  lanes    : List Lane
  deriving DecidableEq, Repr

/-! ### Blocks, clusters and launches (01, 18, 20) -/

/-- A barrier (R204). -/
structure Barrier where
  phase    : BitVec 16
  count    : Nat
  expected : Nat
  mode     : Nat                -- 0 fixed, 1 lanes, 2 groups
  init     : Bool
  lanesArr : NatSet             -- key 32 × group key + lane
  groupArr : NatSet
  deriving DecidableEq, Repr

/-- A barrier at its start value (R24). -/
def Barrier.fresh : Barrier :=
  { phase := 0, count := 0, expected := 0, mode := 0, init := false, lanesArr := [], groupArr := [] }

/-- One lane's signature of a round (R232). -/
structure Sig where
  grp   : Nat
  lane  : Nat
  areg  : Nat
  breg  : Nat
  fw    : Nat
  tile  : Nat
  pc    : Word
  enc   : Nat                   -- the signing instruction's 96 bits (R366)
  deriving DecidableEq, Repr

/-- The pending round of a convergence register. -/
structure Round where
  id    : Nat
  batch : Bool
  ty    : Ty
  sat   : Bool
  zacc  : Bool
  word  : Word
  sigs  : List Sig
  deriving DecidableEq, Repr

/-- A convergence register that holds a declaration (R229, R230). -/
structure Conv where
  blk     : Nat
  members : List Nat            -- group keys, member 0 first
  masks   : List LaneMask
  round   : Option Round
  deriving DecidableEq, Repr

/-- Where a block is. -/
inductive BlockPlace where
  | pending | live | saving | saved | sealed | retired
  deriving DecidableEq, Repr

/-- A kernel descriptor (R293). -/
structure Kernel where
  regionSafe  : Bool
  launchCtl   : Bool
  w0          : Option Nat
  w1          : Option Nat
  handler     : Option Word
  entry       : Word
  regs        : Nat
  groups      : Nat
  tiles       : Nat
  shared      : Nat
  spill       : Nat
  dwsPages    : Nat
  deriving DecidableEq, Repr

/-- A ring binding of a core's watcher (R213, R214, R216). -/
structure Ring where
  blk     : Nat
  grp     : Nat
  base    : Nat
  notify  : Nat
  n       : Nat
  prod    : Nat                 -- last published index, or the stop point of a pending unbind
  next    : Nat                 -- next entry to fetch
  cons    : Nat                 -- consumer index C without bit 63
  halted  : Bool
  unbind  : Bool
  deriving DecidableEq, Repr

/-- A block. -/
structure Block where
  cluster   : Nat
  launch    : Nat
  id        : BitVec 32
  rank      : Nat
  place     : BlockPlace
  core      : Nat
  start     : Nat               -- partition of group 0
  lanesN    : Nat
  sharedSz  : Nat
  sharedAt  : Nat
  shared    : Mem
  poison    : NatSet            -- 64-bit words of shared memory
  tags      : Word
  tagStatus : Map Byte
  bars      : Map Barrier       -- bar0 to bar15
  groups    : List Nat
  rings     : Map Ring          -- bindings saved with the block, by slot (R366)
  convs     : Map Conv          -- convergence registers saved with the block: entry 8p + N (R370)
  image     : List Byte         -- a block image that came from outside (R369, R375); empty: the one that the device keeps of it (R366)
  alone     : Bool              -- pre-empted alone, by a scan drain or a displacement: it returns to the same CD (R340)
  stopBy    : Nat               -- when its displacement stops it precisely (R341); 0 none
  deriving DecidableEq, Repr

/-- A cluster, placed or waiting in the pending store (R339). -/
structure Cluster where
  launch   : Nat
  id       : BitVec 32
  lineage  : Word
  parent   : Option (Nat × Nat) -- parent cluster and the child slot it holds there
  children : BitVec 64          -- live child slots
  kernel   : Kernel
  nblocks  : Nat
  lanesN   : Nat
  params   : List Word
  firstId  : Nat
  placed   : Bool
  cd       : Nat
  blocks   : List Nat
  bars     : Map Barrier        -- bar16 to bar31
  retired  : Bool
  queuedAt : Nat
  deriving DecidableEq, Repr

/-- How a launch ends early (R342): token status and detail. -/
structure EndStatus where
  status : Nat
  detail : Nat
  deriving DecidableEq, Repr

/-- A launch. -/
structure Launch where
  polder    : Nat
  queue     : Nat
  cmdIdx    : Nat
  cookie    : Word
  id        : BitVec 32
  kernel    : Kernel
  counter   : Nat               -- spawn-tree counter (R252)
  nextBlock : Nat
  nextClus  : Nat
  ended     : Option EndStatus
  preDone   : Bool
  pred      : Option Nat        -- command index of the predecessor LAUNCH while it has no token (R84, R264)
  predStat  : Nat
  resLeft   : Nat               -- unused DWS reservation (R351)
  ranOn     : List (Nat × Nat)  -- cores that ran a block, with the clock at which it left (0 while there)
  suspect   : Bool
  done      : Bool
  tokened   : Bool
  provision : Bool
  certified : Bool
  attach    : Bool              -- a debugger attachment is granted (R154)
  deriving DecidableEq, Repr

/-- A spawn in flight to the front end (R251). -/
structure SpawnReq where
  grp    : Nat
  blk    : Nat
  lanes  : LaneMask
  d      : Nat
  trp    : Bool
  desc   : Word
  rec1   : Word
  params : List Word
  deriving DecidableEq, Repr

/-- A query or `qterm` on its way through the event arbiter (R256, R262): the group and block it comes from, the wait of its
lanes, and the operands it read. -/
structure Query where
  grp    : Nat
  blk    : Nat
  wait   : Nat
  lanes  : LaneMask
  instr  : Instr
  ops    : List Word
  held   : List Nat             -- cores that HOLD has reached (R257)
  deriving DecidableEq, Repr

/-- The levels of work. -/
structure Work where
  nextKey  : Nat
  groups   : Map Group
  blocks   : Map Block
  clusters : Map Cluster
  launches : Map Launch
  spawns   : Map SpawnReq
  deriving DecidableEq, Repr

/-! ### Cores, partitions and the matrix engine (02, 10) -/

/-- A matrix operation in flight (R236). -/
structure MatOp where
  part    : Nat
  members : List Nat
  masks   : List LaneMask
  round   : Round
  deriving DecidableEq, Repr

/-- A partition: ports busy until a cycle (integer ports apart), the port reserved for a promoted bundle, second-clock bank
reads, the L0 lines that an error has struck, and whether it follows a pennant. -/
structure Partition where
  busyFp   : Nat
  busySf   : Nat
  busyMem  : Nat
  busyMat  : Nat
  bankNext : List Nat           -- reads per bank left over from the last clock
  badL0    : NatSet             -- L0 lines whose copy fails parity
  tagged   : Bool               -- it follows a tagged instruction, or holds its record (R436)
  deriving DecidableEq, Repr

/-- A partition at reset. -/
def Partition.idle : Partition :=
  { busyFp := 0, busySf := 0, busyMem := 0, busyMat := 0, bankNext := [0, 0, 0, 0], badL0 := [], tagged := false }

/-- A compactor move in flight (R55). -/
structure Move where
  shared : Bool
  key    : Nat
  till   : Nat
  deriving DecidableEq, Repr

/-- A pennant or LOSS record (R437, R439). -/
structure PRec where
  fn    : Nat
  words : List Word
  deriving DecidableEq, Repr

/-- A core. -/
structure Core where
  hold      : Bool              -- HOLD of the event arbiter
  draining  : Bool              -- a scan drain is in progress (R426)
  scanning  : Bool
  lastPass  : Nat               -- clock at which its latest passed scan began (R427)
  scanBegan : Nat
  gated     : Bool
  staged    : List PRec         -- pennant records in its staging buffer (R439)
  deriving DecidableEq, Repr

/-- A core at reset. -/
def Core.idle : Core :=
  { hold := false, draining := false, scanning := false, lastPass := 0, scanBegan := 0, gated := false, staged := [] }

/-- Bytes that a write has replaced and that instruction caches may still hold (R143): memory kind and address, the old bytes,
and the cores that have invalidated since. -/
structure Stale where
  kind  : Nat
  addr  : Nat
  old   : List Byte
  fresh : NatSet
  deriving DecidableEq, Repr

/-- Cores and partitions. -/
structure Cores where
  core   : Map Core
  part   : Map Partition
  rings  : Map Ring             -- key 16 × core + watcher slot
  convs  : Map Conv             -- key 8 × partition + convergence register
  matOps : Map MatOp
  moves  : List Move
  stale  : List Stale           -- old bytes of code memory that a fetch may still see (R143)
  deriving DecidableEq, Repr

/-! ### Memories and the conflict detector (03) -/

/-- Who made an access: a lane's region or a copy (R73). -/
inductive Accessor where
  | lane (grp lane : Nat)
  | copy (c : Nat)
  deriving DecidableEq, Repr

/-- One recorded byte access of an open region (R74): space 0 shared (block), 1 DWS physical. -/
structure Access where
  who   : Accessor
  space : Nat
  blk   : Nat
  addr  : Nat
  write : Bool
  atom  : Bool
  chunk : Nat                   -- k + 1 for chunk k of a copy with a chunk map, which releases it by itself (R79); else 0
  deriving DecidableEq, Repr

/-- Memories shared by the device. -/
structure Mems where
  dram    : Mem                 -- physical address: stack × 2^38 + offset (log 12)
  dws     : Mem                 -- CD × 2^30 + byte
  host    : Mem
  peer    : Map Mem             -- memory of peer packages, by package
  sramA   : Mem
  sramB   : Mem
  poisonD : NatSet              -- 64-byte DRAM lines
  poisonW : NatSet              -- 64-bit DWS words
  det     : List Access
  layers  : NatSet              -- failed DRAM layers, key 8 × stack + layer
  deadStk : NatSet              -- failed stacks
  rowMap  : Map Nat             -- remapped rows, key stack × 2^32 + row
  badFrm  : NatSet              -- unusable DWS frames, key CD × 2^14 + frame, and 4 KiB frames of DRAM, key 2^40 + frame
  deriving DecidableEq, Repr

/-! ### Translation (19) -/

/-- A leaf of a stage-2 tree (R350): where its entry lies, the first page that it maps, its level, and the entry. -/
structure S2Leaf where
  at_   : Nat
  page  : Nat
  level : Nat
  entry : Word
  deriving DecidableEq, Repr

/-- An entry that a translation unit holds, tagged by polder, stage and page size (R352): stage 1 or 2 of a global address, or 3 or 4 for
stage 1 or 2 of a DWS address; its first page, and the level that gives its size. -/
structure Cached where
  polder : Nat
  stage  : Nat
  page   : Nat
  level  : Nat
  entry  : Word
  deriving DecidableEq, Repr

/-- Who asked for a translation. -/
inductive Requester where
  | lane (grp : Nat) (lanes : LaneMask)
  | fetch (grp : Nat) (lanes : LaneMask)
  | copy (c : Nat)
  | front (q : Nat)
  deriving DecidableEq, Repr

/-- A walk (R352, R354): its unit, whether one of the unit's 32 places is its own yet, the generations at its start, and the entries
that it reads at either stage. -/
structure Walk where
  unit    : Nat
  polder  : Nat
  who     : Requester
  dws     : Bool
  va      : Nat
  running : Bool
  gen     : Nat
  gen2    : Nat
  reads   : List Cached
  deriving DecidableEq, Repr

/-- An accepted invalidation that has not completed (R353, R354): the stages that it covers, its first page and pages, or all; and the
entries that it removed from each unit, which accesses in flight still use. -/
structure Inval where
  num    : Nat
  gen    : Nat
  stages : List Nat
  range  : Option (Nat × Nat)
  queue  : Bool                 -- the stage-1 queue table
  old    : List (Nat × Cached)
  deriving DecidableEq, Repr

/-- A fault waiting for service (R358). -/
structure FaultReq where
  polder : Nat
  who    : Requester
  pages  : List Nat             -- global IPA pages; with `dws`, DWS iframes, or 2^24 and an IPA page
  dws    : Bool
  deriving DecidableEq, Repr

/-- A page being moved (R360). -/
structure Migration where
  polder : Nat
  dws    : Bool
  page   : Nat
  entry  : Word
  phase  : Nat                  -- 1 mig set, 2 frame copied and the new entry written
  num    : Nat                  -- the stage-2 invalidation whose completion the next step awaits
  deriving DecidableEq, Repr

/-- A fault recorded in a tenant's fault ring (R357). -/
structure RingFault where
  idx   : Nat
  who   : Requester
  va    : Nat
  due   : Nat
  deriving DecidableEq, Repr

/-- A `dws.alloc` allocation (R225): its base page, its pages, the launch and the part drawn on its reservation. -/
structure DwsAlloc where
  base   : Nat
  frames : List Nat             -- intermediate frames, one per page
  launch : Nat
  drawn  : Nat
  deriving DecidableEq, Repr

/-- A page demoted by a seizure (R373): where its sealed bytes lie in host memory, its contents, and its entry before. -/
structure Demoted where
  host  : Nat
  cells : Mem
  entry : Word
  sick  : List Nat              -- its poisoned 64-byte lines, by offset
  deriving DecidableEq, Repr

/-- The translation state of a polder. -/
structure Xlat where
  s1Root   : Word
  dwsRoot  : Word
  dwsLen   : Nat
  s2root   : Nat                -- the level-0 table of stage 2
  s2next   : Nat                -- where the trust root puts the next table
  s2tab    : Map Word           -- the entries of the stage-2 tables, by address (log 15)
  s2dws    : Map Word
  s1q      : Nat                -- IPA of the stage-1 queue table
  gen      : Nat
  issued   : Nat
  doneN    : Nat
  invals   : List Inval
  gen2     : Nat                -- the trust root's own copy of the invalidation interface, for stage 2 (R353)
  issued2  : Nat
  doneN2   : Nat
  invals2  : List Inval
  pins     : Map Nat            -- pin count, key the DWS page
  pinsBy   : List (Nat × Nat)   -- launch and page of each pin
  allocs   : List DwsAlloc
  window   : Map Unit           -- intermediate frames of the DWS window
  spillFrm : NatSet             -- frames that a spill stack holds
  fring    : Word
  fidx     : Nat
  rfaults  : List RingFault
  migs     : List Migration
  dlog     : List Word
  dlogLost : Bool
  roundLog : List Word          -- the last round's log as the trust root hands it on (R361)
  lost     : Bool               -- that round lost a record: the next one resends every writable page (R362)
  majQuery : Word
  majDesc  : Map Nat            -- majority pages: VA in 64 KiB pages, descriptor address
  demoted  : Map Demoted        -- by IPA page
  deriving DecidableEq, Repr

/-- A polder's translation at CREATE. -/
def Xlat.fresh : Xlat :=
  { s1Root := 0, dwsRoot := 0, dwsLen := 0, s2root := 4096, s2next := 8192, s2tab := [], s2dws := [], s1q := 0, gen := 0, issued := 0,
    doneN := 0, invals := [], gen2 := 0, issued2 := 0, doneN2 := 0, invals2 := [], pins := [], pinsBy := [], allocs := [], window := [], spillFrm := [], fring := 0, fidx := 0, rfaults := [],
    migs := [], dlog := [], dlogLost := false, roundLog := [], lost := false, majQuery := 0, majDesc := [], demoted := [] }

/-- Translation units and fault services. -/
structure Trans where
  polder : Map Xlat
  tlb    : Map (List Cached)    -- the cached leaves of each unit, at most 16,384, newest first; unit 8 is the AD's
  tables : Map (List Cached)    -- its walk cache of table entries
  walks  : Map Walk             -- in arrival order
  faults : Map (List FaultReq)  -- per CD, in arrival order
  held   : Map FaultReq         -- the request in service on a CD, whose pages are held (R358)
  deriving DecidableEq, Repr

/-! ### Copies and majority cells (04, 09) -/

/-- The states of a majority cell (R100). -/
inductive CellState where
  | idle | query | write | writeback
  deriving DecidableEq, Repr

/-- The cell that a majority copy is handling (R94, R96). -/
structure Cell where
  idx     : Nat
  st      : CellState
  desc    : Nat                 -- address of the majority descriptor
  answers : List (Nat × Word × List Byte) -- answering copy, its tag, its payload
  replies : List (Nat × Bool)   -- replying copy, accepted
  tag     : Word
  data    : List Byte
  dest    : Nat × Nat × Nat     -- held translation of the destination unit: kind, address, IPA
  timer   : Nat
  deriving DecidableEq, Repr

/-- A copy that a ring carries (R217 to R224, R371). -/
structure Copy where
  blk     : Nat
  grp     : Nat
  ring    : Nat                 -- watcher slot
  core    : Nat
  idx     : Nat
  w0      : Word
  w1      : Word
  w2      : Word
  w3      : Word
  second  : List Word           -- second entry of a CHAIN
  started : Bool
  done    : Nat                 -- progress (R371)
  base    : Nat                 -- where in its destination's stream of bytes it began or began again
  upto    : Nat                 -- the stream has landed up to here
  landed  : NatSet              -- parts of lines landed beyond, by their place in the stream (R321)
  got     : Map (Byte × Bool)   -- source bytes read and not yet written, with poison, by their place in the source's stream
  served  : Bool                -- the page that its fault service holds for it has still to be used (R358)
  doomed  : Bool                -- a reset stops it before its next cell (R100, R346)
  status  : Nat
  poison  : Bool
  susp    : Nat                 -- 0 running, 1 suspended, 2 suspended with a fault queued, 3 REDUCE in flight, 9 ended
  idxs    : List Nat            -- index list of GATHER and SCATTER, read at start
  cell    : Option Cell
  cellSt  : List Nat            -- statuses of the cells handled
  complete : Bool
  deriving DecidableEq, Repr

/-- A collective group (R407) and the round in flight (R379). -/
structure Coll where
  polder  : Nat
  members : Word
  timeout : Nat
  local_  : Option Nat          -- the local copy in flight
  since   : Nat
  mine    : List Byte           -- this member's contribution
  data    : List (List Byte)    -- contributions received from peers
  deriving DecidableEq, Repr

/-- A write that a majority copy has sent to copy k of a cell, or the reply to it (R94 to R96). -/
structure MajMsg where
  desc  : Nat                   -- the majority descriptor
  from_ : Nat
  idx   : Nat
  k     : Nat
  pa    : Nat
  tag   : Word
  data  : List Byte
  reply : Option Bool
  deriving DecidableEq, Repr

/-- Copies in flight. -/
structure Copies where
  copy  : Map Copy
  sent  : List MajMsg           -- majority writes and replies on their way
  rebuilt : Map Nat             -- cells rebuilt, by 8 × descriptor address + copy (R89, R103)
  colls : Map Coll
  engDead : NatSet              -- withdrawn engines, key 16 × CD + engine
  deriving DecidableEq, Repr

/-! ### Queues (18) -/

/-- States of a physical queue (R337). -/
inductive QState where
  | unassigned | ready | active | blocked | halted | resetting
  deriving DecidableEq, Repr

/-- A completion token or record (R343). -/
structure Token where
  kind   : Nat
  status : Nat
  detail : Nat
  prov   : Bool
  cmd    : Nat
  cookie : Word
  launch : Nat
  deriving DecidableEq, Repr

/-- A command held in the front end's store (R336). -/
structure Cmd where
  idx   : Nat
  words : List Word
  deriving DecidableEq, Repr

/-- A physical queue. -/
structure Queue where
  st      : QState
  handle  : Nat                 -- given to the host at its assignment (R387)
  cause   : Nat
  polder  : Nat
  iqid    : Nat
  weight  : Nat
  cls     : Nat
  cplLog  : Nat
  cmdLog  : Nat
  cplProd : Word
  cplBase : Word
  cmdCons : Word
  cmdBase : Word
  prod    : Nat
  cons    : Nat
  cplP    : Nat
  cplC    : Nat
  store   : List Cmd
  taken   : Nat                 -- index of the next command to take
  waiting : Option (Word × Word) -- a pending WAIT: address and threshold
  tokens  : List Token          -- tokens formed and not yet written, oldest first
  nextTok : Nat                 -- command index of the next kind-0 token; the model counts a queue's resets in the bits above 2^64
  lastLaunch : Option Nat       -- the last launch started
  lastPend : Option Nat         -- command index of the last LAUNCH while its token is not out
  lastStat : Nat                -- the status in its token
  turn    : Nat                 -- blocks placed in its present turn (R339)
  free    : Bool                -- to be released when its reset is complete (R337)
  deriving DecidableEq, Repr

/-- An unassigned queue. -/
def Queue.none_ : Queue :=
  { st := .unassigned, handle := 0, cause := 0, polder := 0, iqid := 0, weight := 0, cls := 0, cplLog := 0, cmdLog := 0, cplProd := 0,
    cplBase := 0, cmdCons := 0, cmdBase := 0, prod := 0, cons := 0, cplP := 0, cplC := 0, store := [], taken := 0,
    waiting := none, tokens := [], nextTok := 0, lastLaunch := none, lastPend := none, lastStat := 0,
    turn := 0, free := false }

/-- The command front end. -/
structure Front where
  queue    : Map Queue
  pend     : List Nat           -- clusters accepted and not yet placed, in order
  pendBlk  : List Nat           -- pre-empted blocks waiting to be placed again
  cdFor    : Map Nat            -- CD reserved for a waiting head (R339), key the cluster
  nextLid  : Map Nat            -- next launch.id per polder
  failed   : NatSet             -- pages whose fault the tenant's driver has failed (R357): 4096 × page + queue
  rr       : Map Nat            -- the queue of the present turn, key 4 × polder + class (R339)
  deriving DecidableEq, Repr

/-! ### Trust root (21, 22, 24) -/

/-- Interface states (R390). -/
inductive IfState where
  | unlocked | locked | run | error
  deriving DecidableEq, Repr

/-- The fields of an accepted policy document (R384). -/
structure Policy where
  version : Nat
  cdCount : Nat
  seizeBy : BitVec 4
  grants  : BitVec 16
  holdMax : BitVec 16
  dbgBits : BitVec 8
  dests   : List (BitVec 256)
  ctrGrp  : Word
  trace   : Nat
  flags   : BitVec 8
  minSvn  : Nat
  pk      : List Byte
  digest  : BitVec 256
  deriving DecidableEq, Repr

/-- An SPDM session of a function (R382). -/
structure Session where
  version : Bool
  caps    : Bool
  algs    : Bool
  keyed   : Bool                -- KEY_EXCHANGE done
  fin     : Bool                -- FINISH done: authenticated
  epoch   : Nat                 -- how often its keys have been discarded (R393, R397)
  th      : BitVec 256          -- hash of its key exchange, which FINISH signs (R382)
  deriving DecidableEq, Repr

/-- No session. -/
def Session.none_ : Session := { version := false, caps := false, algs := false, keyed := false, fin := false, epoch := 0, th := 0 }

/-- A virtual function's interface (R389 to R393). -/
structure Vf where
  st       : IfState
  cfg      : Map Byte           -- configuration space, bytes 0x000 to 0x0FF
  keyed    : Bool               -- selective stream keyed
  digest   : BitVec 256
  seq      : BitVec 32
  sess     : Session
  stopping : List Nat           -- control cores whose IF_STOP is answered when the reset has finished (R394)
  deriving DecidableEq, Repr

/-- A virtual function at CREATE. -/
def Vf.fresh : Vf :=
  { st := .unlocked, cfg := [], keyed := false, digest := 0, seq := 0, sess := Session.none_, stopping := [] }

/-- A polder (R417). -/
structure Polder where
  handle   : BitVec 32
  saveArea : Nat                -- the handle of its save area (R366, R387)
  cds      : List Nat
  policy   : Policy
  test     : Bool
  keyId    : Nat                -- the tenant key, by the draw that made it (R388)
  paused   : Bool
  seized   : Bool               -- stopped by a seizure
  suspended : Bool              -- copies suspended (engines = 1, or interface ERROR)
  attach   : Option (BitVec 16 × Bool × Bool) -- hold mask, engines, memory reads
  ctrGrant : Word
  trace    : Bool
  sealSeq  : Nat
  injSeed  : Word
  injRate  : Word
  injCtl   : Word
  injCount : Word
  vf       : Vf
  deriving DecidableEq, Repr

/-- A seizure in progress (R373). -/
structure Seizure where
  by_   : Nat
  since : Nat
  step  : Nat
  deriving DecidableEq, Repr

/-- The trust root. -/
structure Trust where
  polder   : Map Polder
  nextHnd  : Nat
  keyDraws : Nat
  pfSess   : Session
  srIov    : Map Byte           -- the PF's SR-IOV capability (R391)
  responses : List (Nat × List Byte) -- DOE and response-mailbox answers, by function, newest first
  seizure  : Option Seizure
  images   : List (Nat × Nat × List Byte) -- the last sealed image of each polder's handle, with its own handle (R387)
  exported : List (Nat × BitVec 256) -- tenant keys given to other trust roots: handle and identity digest (R388)
  deriving DecidableEq, Repr

/-! ### Control complexes, mailboxes and arbiter (11, 23, 25) -/

/-- A request that the trust root has forwarded to box 0 (R396, R397). -/
structure Fwd where
  seq   : Nat
  fn    : Nat
  epoch : Nat                   -- its session's epoch
  report : Option (Nat × Nat × Nat) -- of a report request: the piece, and the offset and length asked for (R392)
  deriving DecidableEq, Repr

/-- Control complexes and mailboxes (R273, R408). -/
structure Control where
  active   : Nat                -- 0 A, 1 B
  stopped  : NatSet             -- control cores stopped by halt.stop: 2 × complex + core
  boxes    : Map (List Msg)     -- key 4 × control core + box
  waiting  : Map (List Msg)     -- messages that found their box full
  seqs     : Map Nat            -- sequence numbers given by each mailbox
  tableVer : Nat × Nat          -- version of the state table of the running firmware
  mirrored : Option (Nat × Nat) -- version last imported by the standby complex
  updating : Bool
  fw       : Map (List Byte)    -- the firmware image of each complex, when an update has loaded one (R410)
  queries  : List Query         -- queries that the arbiter has not yet taken, in its order (R261)
  arbAt    : Nat                -- the time from which it takes the next one
  fwd      : List Fwd           -- requests forwarded to box 0 (R396, R397)
  piece0   : Map (List Byte)    -- report bytes 0 to 63 answered while the rest is still to come, by function (R392)
  hostResp : List Msg           -- messages sent to functions' response mailboxes, newest first
  arbDead  : Bool               -- a fatal error stopped the arbiter
  reports  : List Report        -- the last 4,096 reports, newest first
  ready    : Bool               -- bring-up has reached step 8
  failStep : Option Nat
  deriving DecidableEq, Repr

/-! ### Fabric, channels, reliability, power and telemetry (23 to 26) -/

/-- One hop: free-slot counters, ready counts, round-robin position and passes per channel (R420, R421). -/
structure Hop where
  credits : List Nat
  ready   : List Nat
  turn    : Nat
  used    : Nat
  quota   : Nat                 -- the weight with which the present turn began
  passed  : List Nat
  granted : List Nat            -- channels granted, newest first
  deriving DecidableEq, Repr

/-- Links, ports and hops. -/
structure Fabric where
  hostUp   : List Bool
  portUp   : List Bool
  retrain  : List Nat
  domain   : Map (Nat × Nat)    -- package: its ports mask and the pairing of polders
  hops     : Map Hop
  weights  : Word               -- qos_weights
  lanesBad : NatSet             -- spared link lanes
  retries  : Map Nat
  deriving DecidableEq, Repr

/-- An entry of the remap table (R415). -/
structure Remap where
  st  : Nat
  exp : Nat
  deriving DecidableEq, Repr

/-- Reliability and power. -/
structure Rel where
  remap    : Map Remap          -- cores: 64 × CD + physical; engines: 1024 + 16 × CD + physical
  cdMap    : List Nat
  dumpBase : Word
  rowErrs  : Map (List Nat)     -- by DRAM row: the times of its errors, 8 for one that no code corrects
  pwrCap   : Word
  matLimit : Nat                -- j of R413
  overCap  : Bool
  clkSteps : Nat                -- 5 % steps taken from the arithmetic clock
  refresh2 : NatSet             -- stacks at double refresh
  deriving DecidableEq, Repr

/-- A tagged instruction that a partition follows (R436, R437). -/
structure Penn where
  part  : Nat
  grp   : Nat
  fn    : Nat
  clock : Nat
  pc    : Word
  blkId : BitVec 32
  lid   : BitVec 32
  opc   : Nat
  gid   : Nat
  lanes : LaneMask
  trapM : LaneMask              -- its lanes that trapped
  mem   : Bool                  -- a memory instruction, which reaches a level beyond the registers
  deriving DecidableEq, Repr

/-- Counters, pennants and trace (26). -/
structure Tele where
  counters : Map (BitVec 32)    -- key instance × 2^16 + selector
  swept    : Map (BitVec 32)    -- value at the last sweep into a function's area: function × 2^32 + key
  ctrBase  : Map Word           -- per function
  pennCtl  : Map Word           -- per VF
  penns    : List Penn
  trBase   : Map Word
  trRd     : Map Nat
  trWr     : Map Nat
  cdBuf    : Map (List PRec)    -- the 256 KiB buffer of each CD
  lost     : Map Nat            -- records dropped since the last LOSS record, key 16 × function + CD
  deriving DecidableEq, Repr

/-! ### Time and agenda -/

/-- The bundle that an instruction issues from, or the slot of a fetched line (R40, R127). -/
structure Bundle where
  grp    : Nat
  pc     : Word
  lanes  : LaneMask
  second : Bool                 -- reads registers as they stood before the clock (R27, R47)
  flagA  : Nat
  flagB  : Nat
  ops    : Option (List Word)   -- its wait in MATRIX for a tile is over; the operand values that it read at issue (R243, R244)
  deriving DecidableEq, Repr

/-- What the present clock has still to do. -/
inductive Todo where
  | issue (b : Bundle)
  | run (i : Instr)
  deriving DecidableEq, Repr

/-- Time, agenda and the model's own bookkeeping. -/
structure Agenda where
  cycle   : Nat
  clock   : Nat                 -- ns (R1)
  frac    : Nat                 -- fraction of a ns, in units of 1/2095133040 ns (log 5)
  todo    : List Todo
  atCycle : List (Nat × Instr)  -- events due at a cycle
  atClock : List (Nat × Instr)  -- events due at a time in ns
  inputs  : List (Nat × Instr)  -- events from outside, by due cycle
  cur     : Bundle              -- the bundle that exec's instruction issues from
  snap    : Option (Nat × Group) -- a group as it stood before this clock (R27)
  free    : Nat                 -- counter that free values are drawn with (R6)
  nextId  : Nat                 -- ids of pending results, waits, rounds and regions
  deriving DecidableEq, Repr

/-- The state of the device. -/
structure State where
  ag     : Agenda
  work   : Work
  cores  : Cores
  mems   : Mems
  tr     : Trans
  cp     : Copies
  fe     : Front
  trust  : Trust
  ctl    : Control
  fab    : Fabric
  rel    : Rel
  tele   : Tele
  deriving DecidableEq, Repr

/-! ### Reset (R24, R412, R421) -/

/-- A lane that has just started (R24). -/
def Lane.start (pc : Word) (helper : Bool) : Lane :=
  { left := false, helper := helper, done := false, pc := pc, entry := .resume, wait := .running, remembered := .running, waitId := 0,
    passed := 0, yieldEnd := 0, deadline := 0, restart := pc, restartBsc := 0, bsc := 0, fpStatus := 0, fpMode := 0,
    trapCause := 0, trapPc := 0, trapAddr := 0, inHandler := false, brkDone := false, retry := 0, stepping := false, met := false, heldTrap := false,
    dike := [], stopAsked := false, stopKind := 0, frozen := false }

/-- The group of a control core (R408): one lane in system mode (log 3). -/
def Group.control (cc : Nat) : Group :=
  { blk := 0, gid := 0, part := 1024 + cc, slot := 0, system := true, started := true, retired := false, nregs := 256, ntiles := 32,
    spillSz := 0, spillAt := none, regBase := 0, v := [], s := [], p := [], j := [], b := [], tile := [], tileFmt := [], pending := [],
    score := [], waits := [], ages := [], forcedB := none, lines := [], pausedTo := 0, buf := [], spill := [], poisonV := [],
    poisonR := [], poisonT := [], poisonS := [], windows := [],
    lanes := [Lane.start 0 false] }

/-- A bundle of no group. -/
def Bundle.none_ : Bundle := { grp := 0, pc := 0, lanes := 0, second := false, flagA := 15, flagB := 15, ops := none }

/-- One hop at reset: every channel holds its buffer slots (log 6). -/
def Hop.idle : Hop :=
  { credits := [8, 8, 8, 8, 8], ready := [0, 0, 0, 0, 0], turn := 2, used := 0, quota := 0, passed := [0, 0, 0, 0, 0], granted := [] }

/-- The factory contents of the remap table (R415): units 0 to 31 exposed, 32 and 33 spare; engines 0 to 11 exposed, 12
spare (log 7). -/
def Remap.factory : Map Remap :=
  (List.range 8).flatMap (fun cd => (List.range 34).map (fun u =>
    (64 * cd + u, if u < 32 then { st := 0, exp := u } else { st := 1, exp := 0 }))) ++
  (List.range 8).flatMap (fun cd => (List.range 13).map (fun u =>
    (1024 + 16 * cd + u, if u < 12 then { st := 0, exp := u } else { st := 1, exp := 0 })))

/-- The machine right after a cold reset (R412, step 8): the PF is ready, complex A is active, no polder exists. -/
def State.reset : State :=
  { ag := { cycle := 0, clock := 0, frac := 0, todo := [], atCycle := [], atClock := (List.range 8).map (fun cd => (125000, .scanDrainStart (32 * cd))), inputs := [], cur := Bundle.none_,
            snap := none, free := 0, nextId := 1 }
    work := { nextKey := 16, groups := (List.range 4).map (fun cc => (cc + 1, Group.control cc)), blocks := [],
              clusters := [], launches := [], spawns := [] }
    cores := { core := [], part := [], rings := [], convs := [], matOps := [], moves := [], stale := [] }
    mems := { dram := [], dws := [], host := [], peer := [], sramA := [], sramB := [], poisonD := [], poisonW := [],
              det := [], layers := [], deadStk := [], rowMap := [], badFrm := [] }
    tr := { polder := [], tlb := [], tables := [], walks := [], faults := [], held := [] }
    cp := { copy := [], sent := [], rebuilt := [], colls := [], engDead := [] }
    fe := { queue := [], pend := [], pendBlk := [], cdFor := [], nextLid := [], failed := [], rr := [] }
    trust := { polder := [], nextHnd := 1, keyDraws := 0, pfSess := Session.none_, srIov := [], responses := [], seizure := none,
               images := [], exported := [] }
    ctl := { active := 0, stopped := [], boxes := [], waiting := [], seqs := [], tableVer := (1, 0), mirrored := none,
             updating := false, fw := [], queries := [], arbAt := 0, fwd := [], piece0 := [], hostResp := [], arbDead := false, reports := [], ready := true, failStep := none }
    fab := { hostUp := [true, true], portUp := List.replicate 16 true, retrain := List.replicate 16 0, domain := Config.domainTable.foldl (fun (m : Map (Nat × Nat)) q => Map.insert m q.1 q.2) [],
             hops := [], weights := 0x010408, lanesBad := [], retries := [] }
    rel := { remap := Remap.factory, cdMap := [0, 1, 2, 3, 4, 5, 6, 7], dumpBase := 0, rowErrs := [],
             pwrCap := 0, matLimit := 16, overCap := false, clkSteps := 0, refresh2 := [] }
    tele := { counters := [], swept := [], ctrBase := [], pennCtl := [], penns := [], trBase := [],
              trRd := [], trWr := [], cdBuf := [], lost := [] } }

/-- Why the machine stops with a fault. No step of this model raises one: every failure that the spec describes is a next
state (a trap, a status, a poisoned unit). Safe. -/
inductive Fault where
  /-- Raised by no meaning: kept so that the type is inhabited. Safe. -/
  | stuck
  deriving DecidableEq, Repr

/-- Why a step is refused. -/
inductive Refusal where
  /-- Raised by exec for an instruction that has no meaning yet. Safe: nothing is claimed about it. -/
  | notModelled (mnemonic : String)
  deriving DecidableEq, Repr

end Sys2Proof.Machine
end

