-- ==== Sys2Proof/Machine/Base.lean ====
section
/-! DEFINITION. The base operations over the state: lookups, free values, scheduling, lanes and
their PCs, registers and their results, and the bytes of each memory. -/

namespace Sys2Proof.Machine

/-! ### Lookups -/

/-- A group that does not exist. -/
def Group.none_ : Group := { Group.control 0 with system := false, started := false, nregs := 0, ntiles := 0, lanes := [] }

/-- A kernel that declares nothing. -/
def Kernel.none_ : Kernel :=
  { regionSafe := false, launchCtl := false, w0 := none, w1 := none, handler := none, entry := 0, regs := 0, groups := 0,
    tiles := 0, shared := 0, spill := 0, dwsPages := 0 }

/-- A block that does not exist: it owns no shared memory (R32). -/
def Block.none_ : Block :=
  { cluster := 0, launch := 0, id := 0, rank := 0, place := .retired, core := 0, start := 0, lanesN := 0, sharedSz := 0,
    sharedAt := 0, shared := [], poison := [], tags := 0, tagStatus := [], bars := [], groups := [], rings := [],
    convs := [], image := [], alone := false, stopBy := 0 }

/-- A cluster that does not exist. -/
def Cluster.none_ : Cluster :=
  { launch := 0, id := 0, lineage := 0, parent := none, children := 0, kernel := Kernel.none_, nblocks := 0, lanesN := 0,
    params := [], firstId := 0, placed := false, cd := 0, blocks := [], bars := [], retired := true, queuedAt := 0 }

/-- A launch that does not exist. -/
def Launch.none_ : Launch :=
  { polder := 8, queue := 0, cmdIdx := 0, cookie := 0, id := 0, kernel := Kernel.none_, counter := 0, nextBlock := 0,
    nextClus := 0, ended := none, preDone := false, pred := none, predStat := 0, resLeft := 0, ranOn := [],
    suspect := false, done := true, tokened := true, provision := false, certified := false, attach := false }

/-- The group of a key. -/
def State.group (s : State) (g : Nat) : Group := Map.get s.work.groups Group.none_ g
/-- The block of a key. -/
def State.block (s : State) (b : Nat) : Block := Map.get s.work.blocks Block.none_ b
/-- The cluster of a key. -/
def State.cluster (s : State) (c : Nat) : Cluster := Map.get s.work.clusters Cluster.none_ c
/-- The launch of a key. -/
def State.launch (s : State) (l : Nat) : Launch := Map.get s.work.launches Launch.none_ l
/-- The partition of a number. -/
def State.part (s : State) (p : Nat) : Partition := Map.get s.cores.part Partition.idle p
/-- The core of a number. -/
def State.core (s : State) (c : Nat) : Core := Map.get s.cores.core Core.idle c
/-- The translation state of a polder. -/
def State.xlat (s : State) (p : Nat) : Xlat := Map.get s.tr.polder Xlat.fresh p
/-- The physical queue of a number. -/
def State.queue (s : State) (q : Nat) : Queue := Map.get s.fe.queue Queue.none_ q

/-- Replace a group. -/
def State.setGroup (s : State) (g : Nat) (x : Group) : State :=
  { s with work := { s.work with groups := Map.insert s.work.groups g x } }
/-- Change a group that exists. -/
def State.modGroup (s : State) (g : Nat) (f : Group → Group) : State :=
  { s with work := { s.work with groups := Map.adjust s.work.groups g f } }
/-- Replace a block. -/
def State.setBlock (s : State) (b : Nat) (x : Block) : State :=
  { s with work := { s.work with blocks := Map.insert s.work.blocks b x } }
/-- Change a block that exists. -/
def State.modBlock (s : State) (b : Nat) (f : Block → Block) : State :=
  { s with work := { s.work with blocks := Map.adjust s.work.blocks b f } }
/-- Replace a cluster. -/
def State.setCluster (s : State) (c : Nat) (x : Cluster) : State :=
  { s with work := { s.work with clusters := Map.insert s.work.clusters c x } }
/-- Change a cluster that exists. -/
def State.modCluster (s : State) (c : Nat) (f : Cluster → Cluster) : State :=
  { s with work := { s.work with clusters := Map.adjust s.work.clusters c f } }
/-- Replace a launch. -/
def State.setLaunch (s : State) (l : Nat) (x : Launch) : State :=
  { s with work := { s.work with launches := Map.insert s.work.launches l x } }
/-- Change a launch that exists. -/
def State.modLaunch (s : State) (l : Nat) (f : Launch → Launch) : State :=
  { s with work := { s.work with launches := Map.adjust s.work.launches l f } }
/-- Replace a partition. -/
def State.setPart (s : State) (p : Nat) (x : Partition) : State :=
  { s with cores := { s.cores with part := Map.insert s.cores.part p x } }
/-- Change a core. -/
def State.modCore (s : State) (c : Nat) (f : Core → Core) : State :=
  { s with cores := { s.cores with core := Map.insert s.cores.core c (f (s.core c)) } }
/-- Change the translation state of a polder that exists. -/
def State.modXlat (s : State) (p : Nat) (f : Xlat → Xlat) : State :=
  { s with tr := { s.tr with polder := Map.adjust s.tr.polder p f } }
/-- Change a queue. -/
def State.modQueue (s : State) (q : Nat) (f : Queue → Queue) : State :=
  { s with fe := { s.fe with queue := Map.insert s.fe.queue q (f (s.queue q)) } }
/-- Change a polder that exists. -/
def State.modPolder (s : State) (p : Nat) (f : Polder → Polder) : State :=
  { s with trust := { s.trust with polder := Map.adjust s.trust.polder p f } }
/-- The polder of a number, if it exists. -/
def State.polder? (s : State) (p : Nat) : Option Polder := Map.find? s.trust.polder p

/-- The launch key of a group. -/
def State.launchOf (s : State) (g : Nat) : Nat := (s.block (s.group g).blk).launch
/-- The polder number of a group; 8 when it has none. -/
def State.polderOf (s : State) (g : Nat) : Nat := (s.launch (s.launchOf g)).polder
/-- The core of a group. -/
def Group.core (x : Group) : Nat := x.part / 4
/-- The logical CD of a group. -/
def Group.cd (x : Group) : Nat := x.part / 128

/-! ### Free values and scheduling -/

/-- A free choice, told apart from the others of the same step by a number (log 1). -/
def State.choose (s : State) (k : Nat) : Bool := Config.freeBit (s.ag.free * 2 ^ 96 + k)
/-- A free value. -/
def State.freeW (s : State) (k : Nat) : Word := Config.freeWord (s.ag.free * 2 ^ 96 + k)
/-- Draw afresh from here on. -/
def State.bump (s : State) : State := { s with ag := { s.ag with free := s.ag.free + 1 } }
/-- Those of some times that lie within the last 24 h. -/
def State.lastDay (s : State) (ts : List Nat) : List Nat := ts.filter (fun t => decide (s.ag.clock < t + 86400000000000))
/-- An event of the device at a later cycle. -/
def State.after (s : State) (dt : Nat) (i : Instr) : State :=
  { s with ag := { s.ag with atCycle := s.ag.atCycle ++ [(s.ag.cycle + dt, i)] } }
/-- An event at a time in ns. -/
def State.atNs (s : State) (t : Nat) (i : Instr) : State :=
  { s with ag := { s.ag with atClock := s.ag.atClock ++ [(t, i)] } }
/-- An event that follows in the same clock. -/
def State.next (s : State) (i : Instr) : State := { s with ag := { s.ag with todo := s.ag.todo ++ [.run i] } }
/-- An event of an engine whose pace the spec leaves open (log 2). -/
def State.soon (s : State) (i : Instr) : State := (s.after (1 + Config.pace s.ag.free) i).bump
/-- A fresh id. -/
def State.fresh (s : State) : Nat × State := (s.ag.nextId, { s with ag := { s.ag with nextId := s.ag.nextId + 1 } })
/-- A fresh key for a group, block, cluster, launch, copy or walk. -/
def State.key (s : State) : Nat × State :=
  (s.work.nextKey, { s with work := { s.work with nextKey := s.work.nextKey + 1 } })

/-- Add to a counter of an instance (R432). -/
def State.count (s : State) (inst sel n : Nat) : State :=
  let k := inst * 65536 + sel
  { s with tele := { s.tele with counters := Map.put s.tele.counters 0 k (Map.get s.tele.counters 0 k + BitVec.ofNat 32 n) } }
/-- Counter instances: partitions 0 to 1055, engines, CDs, functions and the device (R432, R434). -/
def instEngine (cd e : Nat) : Nat := 2048 + 16 * cd + e
/-- The translation unit of a CD. -/
def instCd (cd : Nat) : Nat := 4096 + cd
/-- A function's instance in the shared units; 0 the PF, k + 1 the VF of polder k. -/
def instFn (fn : Nat) : Nat := 4160 + fn
/-- The device. -/
def instDev : Nat := 4200

/-! ### Lanes, masks and PCs -/

/-- The lanes of a mask in increasing number. -/
def lanesOf (m : LaneMask) : List Nat := (List.range 32).filter (fun l => m.getLsbD l)
/-- The mask of the lanes that satisfy a test. -/
def maskOf (f : Nat → Bool) : LaneMask :=
  BitVec.ofNat 32 ((List.range 32).foldl (fun n l => if f l then n + 2 ^ l else n) 0)
/-- How many lanes a mask holds. -/
def countMask (m : LaneMask) : Nat := (lanesOf m).length

/-- A lane of a group. -/
def Group.lane (x : Group) (l : Nat) : Lane := x.lanes.getD l Lane.gone
/-- Change a lane. -/
def Group.modLane (x : Group) (l : Nat) (f : Lane → Lane) : Group := { x with lanes := x.lanes.set l (f (x.lane l)) }
/-- Change the lanes of a mask. -/
def Group.modLanes (x : Group) (m : LaneMask) (f : Nat → Lane → Lane) : Group :=
  { x with lanes := x.lanes.mapIdx (fun l y => if m.getLsbD l then f l y else y) }
/-- The lanes that have not left (R189). -/
def Group.present (x : Group) : LaneMask := maskOf (fun l => !(x.lane l).left)
/-- The helper lanes that have not left. -/
def Group.helpers (x : Group) : LaneMask := maskOf (fun l => !(x.lane l).left && (x.lane l).helper)
/-- A lane of a group by key. -/
def State.lane (s : State) (g l : Nat) : Lane := (s.group g).lane l
/-- Change one lane. -/
def State.modLane (s : State) (g l : Nat) (f : Lane → Lane) : State := s.modGroup g (fun x => x.modLane l f)
/-- Change the lanes of a mask. -/
def State.modLanes (s : State) (g : Nat) (m : LaneMask) (f : Nat → Lane → Lane) : State :=
  s.modGroup g (fun x => x.modLanes m f)

/-- The line of a PC (R38). -/
def pcLine (pc : Word) : Word := pc &&& ~~~63#64
/-- The slot of a PC. -/
def pcSlot (pc : Word) : Nat := pc.toNat % 8
/-- The PC of the instruction after a PC (R38, R147). -/
def nextPc (pc : Word) : Word := if pcSlot pc < 4 then pc + 1 else pcLine pc + 64
/-- A PC that no rule of R38 refuses. -/
def okPc (pc : Word) : Bool := decide (pc.toNat < 2 ^ 56) && decide (pc.toNat / 8 % 8 = 0) && decide (pcSlot pc ≤ 4)

/-- A stepped lane returns to STOPPED once its instruction has performed (R259). -/
def Lane.settle (y : Lane) : Lane :=
  if y.stepping && decide (y.wait = .running) then { y with wait := .stopped, remembered := .running, stepping := false, met := false } else y
/-- Go on at the next instruction (R127). -/
def Lane.advance (y : Lane) : Lane :=
  Lane.settle { y with pc := nextPc y.pc, entry := if pcSlot y.pc < 4 then y.entry else .fall,
                       wait := if y.wait = .yield then .running else y.wait, passed := 0, retry := 0 }
/-- Transfer to a target (R147); the landing is checked on arrival (R131). -/
def Lane.goto (y : Lane) (t : Word) : Lane :=
  Lane.settle { y with pc := t, entry := .xfer y.pc, wait := if y.wait = .yield then .running else y.wait, passed := 0,
                       retry := 0 }

/-- Advance the lanes of a mask. -/
def State.advance (s : State) (g : Nat) (m : LaneMask) : State := s.modLanes g m (fun _ y => y.advance)

/-! ### Registers -/

/-- The group whose registers the issuing instruction reads: as it stood before the clock for a second pick (R27, R47). -/
def State.src (s : State) : Group :=
  match s.ag.cur.second, s.ag.snap with
  | true, some (g, x) => if g = s.ag.cur.grp then x else s.group s.ag.cur.grp
  | _, _ => s.group s.ag.cur.grp

/-- The values that pending `lf` = 1 instructions have still to write to a register (R134); an `lf` = 0 answer that is still to
come holds its readers. -/
def pendingFor (x : Group) (cls : RegClass) (idx lane : Nat) : List Nat :=
  (x.pending.filter (fun p => p.flag != 15)).flatMap (fun p => (p.writes.filter (fun w => w.cls == cls && w.idx == idx && w.lane == lane)).map (·.value))
/-- Old or new, by free choices (R134). -/
def State.oldOrNew (s : State) (k : Nat) : List Nat → Nat → Nat
  | [], old => old
  | n :: ns, old => State.oldOrNew s (k + 2 ^ 24) ns (if s.choose k then n else old)
/-- A vector register in a lane (R9, R134). -/
def State.getV (s : State) (x : Group) (r l : Nat) : Word :=
  BitVec.ofNat 64 (s.oldOrNew (32 * r + l) (pendingFor x .v r l) (Map.get x.v 0 (32 * r + l)).toNat)
/-- A uniform register as a lane reads it; a uniform instruction reads it as lane 32 (R134). -/
def State.getS (s : State) (x : Group) (r : Nat) (l : Nat := 32) : Word :=
  BitVec.ofNat 64 (s.oldOrNew (16384 + 33 * r + l) (pendingFor x .s r 0) (Map.get x.s 0 r).toNat)
/-- A predicate register; p7 is all ones (R24, R145). -/
def State.getP (s : State) (x : Group) (r : Nat) : LaneMask :=
  if r = 7 then BitVec.allOnes 32
  else maskOf (fun l => decide (s.oldOrNew (20480 + 32 * r + l) (pendingFor x .p r l)
    ((Map.get x.p 0 r).getLsbD l).toNat = 1))
/-- A record as a lane reads it; a uniform instruction reads it as lane 32 (R134). -/
def State.getB (s : State) (x : Group) (r : Nat) (l : Nat := 32) : BitVec 256 :=
  BitVec.ofNat 256 (s.oldOrNew (24576 + 33 * r + l) (pendingFor x .b r 0) (Map.get x.b 0 r).toNat)

/-- A source operand in a lane (R144). -/
def State.srcVal (s : State) (x : Group) (a : Src) (l : Nat) : Word :=
  match a with
  | .v n => s.getV x n.toNat l
  | .s n => s.getS x n.toNat l
  | .zero => 0
/-- A uniform operand (R169). -/
def State.uVal (s : State) (x : Group) (a : USrc) : Word :=
  match a with
  | .reg n => s.getS x n.toNat
  | .imm i => i.signExtend 64
/-- A lane-mask source as a lane reads it (R155). -/
def State.maskVal (s : State) (x : Group) (a : Src) (l : Nat) : LaneMask :=
  match a with
  | .v n => s.getP x n.toNat
  | .s n => (s.getS x n.toNat l).setWidth 32
  | .zero => 0
/-- An index operand in a lane (R34). -/
def State.ixVal (s : State) (x : Group) (a : Ix) (l : Nat) : Word :=
  match a with
  | .v n => s.getV x n.toNat l
  | .s n => s.getS x n.toNat l

/-- Write a vector register in the lanes of a mask (R10). -/
def Group.putV (x : Group) (r : Nat) (m : LaneMask) (f : Nat → Word) : Group :=
  { x with v := (lanesOf m).foldl (fun t l => Map.put t 0 (32 * r + l) (f l)) x.v }
/-- Write a uniform register. -/
def Group.putS (x : Group) (r : Nat) (v : Word) : Group := { x with s := Map.put x.s 0 r v }
/-- Write a predicate register in the lanes of a mask; a write to p7 is discarded (R26, R145). -/
def Group.putP (x : Group) (r : Nat) (m : LaneMask) (f : Nat → Bool) : Group :=
  if r = 7 then x
  else { x with p := Map.put x.p 0 r ((Map.get x.p 0 r &&& ~~~m) ||| (maskOf f &&& m)) }
/-- Write a record. -/
def Group.putB (x : Group) (r : Nat) (v : BitVec 256) : Group := { x with b := Map.put x.b 0 r v }
/-- Write a rejoin mask. -/
def Group.putJ (x : Group) (r : Nat) (v : LaneMask) : Group := { x with j := Map.put x.j 0 r v }
/-- A rejoin mask. -/
def Group.getJ (x : Group) (r : Nat) : LaneMask := Map.get x.j 0 r
/-- Clear the bits of lanes in every rejoin mask (R51). -/
def Group.dropJ (x : Group) (m : LaneMask) : Group :=
  { x with j := x.j.filterMap (fun q => if q.2 &&& ~~~m = 0 then none else some (q.1, q.2 &&& ~~~m)) }

/-- The register results of one instruction, over the lanes that write. -/
structure Res where
  v : List (Nat × (Nat → Word)) := []
  s : List (Nat × Word) := []
  p : List (Nat × (Nat → Bool)) := []
  b : List (Nat × BitVec 256) := []
  vm : LaneMask := BitVec.allOnes 32 -- of the lanes that write, those that write the vector registers

/-- A full-mask write rewrites the code word of a register and clears its poison (R45, R376). -/
def Group.cleanV (x : Group) (r : Nat) (m : LaneMask) : Group :=
  if x.present &&& ~~~m = 0 then { x with poisonV := NatSet.del x.poisonV r } else x
/-- A write inside a matrix window of the lane leaves the engine an unspecified value (R240). -/
def Group.dirtyV (x : Group) (r : Nat) (m : LaneMask) : Group :=
  if x.windows.isEmpty then x
  else { x with windows := x.windows.map (fun w =>
    if m.getLsbD w.lane && w.regs.contains r then { w with dirty := r :: w.dirty } else w) }
/-- The windows that the results of one instruction write into. -/
def Group.dirtyRes (x : Group) (m : LaneMask) (r : Res) : Group :=
  r.v.foldl (fun x (q : Nat × (Nat → Word)) => x.dirtyV q.1 (m &&& r.vm)) x
/-- Two writes of one register, in one lane where it has lanes. -/
def RegWrite.meets (w u : RegWrite) : Bool := w.cls == u.cls && w.idx == u.idx && w.lane == u.lane
/-- Writes have landed: those of pending results that name the same registers are unordered with them, and may or may not remain
over them (R134). -/
def Group.race (x : Group) (ws : List RegWrite) : Group :=
  if x.pending.isEmpty then x
  else { x with pending := x.pending.map (fun p =>
    { p with writes := p.writes.map (fun w => if ws.any (fun u => w.meets u) then { w with raced := true } else w) }) }
/-- The results of one instruction as single writes, for an `lf` = 1 instruction. -/
def Res.writes (r : Res) (m : LaneMask) : List RegWrite :=
  r.v.flatMap (fun q => (lanesOf (m &&& r.vm)).map (fun l =>
    { cls := .v, idx := q.1, lane := l, value := (q.2 l).toNat, raced := false })) ++
  r.s.map (fun q => { cls := .s, idx := q.1, lane := 0, value := q.2.toNat, raced := false }) ++
  r.p.flatMap (fun q => (lanesOf m).map (fun l => { cls := .p, idx := q.1, lane := l, value := (q.2 l).toNat, raced := false })) ++
  r.b.map (fun q => { cls := .b, idx := q.1, lane := 0, value := q.2.toNat, raced := false })
/-- The registers after the results of one instruction. -/
def Group.applyRes (x : Group) (m : LaneMask) (r : Res) : Group :=
  let x := r.v.foldl (fun x (q : Nat × (Nat → Word)) => ((x.putV q.1 (m &&& r.vm) q.2).cleanV q.1 (m &&& r.vm)).dirtyV q.1 (m &&& r.vm)) x
  let x := r.s.foldl (fun x (q : Nat × Word) => { x.putS q.1 q.2 with poisonR := NatSet.del x.poisonR (4096 + q.1) }) x
  let x := r.p.foldl (fun x (q : Nat × (Nat → Bool)) => x.putP q.1 m q.2) x
  r.b.foldl (fun x (q : Nat × BitVec 256) => { x.putB q.1 q.2 with poisonR := NatSet.del x.poisonR (16384 + q.1) }) x
/-- The scoreboard entries of an `lf` = 0 instruction (R43). -/
def Res.scores (r : Res) (x : Group) (m : LaneMask) (t : Nat) : List Score :=
  r.v.map (fun q => { cls := .v, idx := q.1, lanes := m &&& r.vm, by_ := m, at_ := t,
                      old := (lanesOf (m &&& r.vm)).map (fun l => (l, Map.get x.v 0 (32 * q.1 + l))) }) ++
  r.s.map (fun q => { cls := .s, idx := q.1, lanes := BitVec.allOnes 32, by_ := m, at_ := t, old := [] }) ++
  r.p.map (fun q => { cls := .p, idx := q.1, lanes := m, by_ := m, at_ := t, old := [] }) ++
  r.b.map (fun q => { cls := .b, idx := q.1, lanes := BitVec.allOnes 32, by_ := m, at_ := t, old := [] })

/-- One register write of a pending result. -/
def Group.land (x : Group) (w : RegWrite) : Group :=
  match w.cls with
  | .v => x.putV w.idx (BitVec.ofNat 32 (2 ^ w.lane)) (fun _ => BitVec.ofNat 64 w.value)
  | .s => x.putS w.idx (BitVec.ofNat 64 w.value)
  | .p => x.putP w.idx (BitVec.ofNat 32 (2 ^ w.lane)) (fun _ => decide (w.value = 1))
  | .j => x.putJ w.idx (BitVec.ofNat 32 w.value)
  | .b => x.putB w.idx (BitVec.ofNat 256 w.value)

/-- What tells a register write from others of the same step. -/
def RegWrite.key (w : RegWrite) : Nat :=
  (match w.cls with
   | .v => 0
   | .s => 1
   | .p => 2
   | .j => 3
   | .b => 4) * 16384 + 32 * w.idx + w.lane
/-- Writes of a pending result land; one that another unordered write has overtaken leaves, by a free choice, either result (R134). -/
def State.landWrites (s : State) (x : Group) (ws : List RegWrite) : Group :=
  (ws.foldl (fun x w => if w.raced && !s.choose (2 ^ 31 + w.key) then x else x.land w) x).race ws

/-- The flag that an `lf` = 1 instruction sets (R133). -/
def State.flagOf (s : State) (h : Hdr) : Nat := if h.fs then s.ag.cur.flagB else s.ag.cur.flagA
/-- How many unfinished setters a completion flag has (R133). -/
def Group.flagCount (x : Group) (f : Nat) : Nat := (x.pending.filter (fun p => p.flag == f)).length

/-- Give the results of an instruction to the registers: at once with `lf` = 0, with their scoreboard entry, or through a
pending result with `lf` = 1 that lands by a RESULT_WRITEBACK after the latency (R43, R133). -/
def State.give (s : State) (g : Nat) (h : Hdr) (m : LaneMask) (lat : Nat) (r : Res) : State :=
  if h.lf then
    let (id, s) := s.fresh
    (s.modGroup g (fun x =>
      { x.dirtyRes m r with pending := x.pending ++ [{ id := id, flag := s.flagOf h, lanes := m, writes := r.writes m }] })).after lat
        (.resultWriteback g id)
  else
    s.modGroup g (fun x =>
      { (x.applyRes m r).race (r.writes m) with
        score := x.score.filter (fun q => decide (s.ag.cycle < q.at_)) ++ r.scores x m (s.ag.cycle + lat) })

/-! ### Bytes of the memories -/

/-- The little-endian value of bytes (R4). -/
def wordOf (bs : List Byte) : Word := BitVec.ofNat 64 (numOf bs)
/-- n bytes of a memory. -/
def Mem.read (m : Mem) (a n : Nat) : List Byte := (List.range n).map (fun i => Map.get m 0 (a + i))
/-- Write bytes. -/
def Mem.write (m : Mem) (a : Nat) (bs : List Byte) : Mem :=
  bs.zipIdx.foldl (fun m (p : Byte × Nat) => Map.put m 0 (a + p.2) p.1) m
/-- The canonical form of a memory. -/
def Mem.wf (m : Mem) : Bool := Map.wf m (0 : Byte)

end Sys2Proof.Machine
end

