-- ==== Sys2Proof/Machine/Operands.lean ====
section
/-! DEFINITION. The operands of every instruction: the registers it names (R25, R44), the registers it writes (R43), its engine
port (R46), its class and its latency (R174, R194, R226, R247, R275). -/

namespace Sys2Proof.Machine

/-- The header of an encoded instruction. -/
def hdrOf : Instr → Option Hdr
  | .bra h _ _ | .brx h _ | .brxU h _ | .call h _ _ _ | .callR h _ _ | .ret h _ | .exit h | .joinEnrol h _ | .joinWait h _
  | .joinLeave h _ | .yield h | .nop h | .trap h _ | .brk h _ | .plop h _ _ _ _ _ | .lmaskEvery h _ _ | .lmaskSome h _ _
  | .lmaskAlike h _ _ | .lmaskBits h _ _ | .lmaskCount h _ _ | .lmaskRank h _ _ | .sleep h _ _ => some h
  | .iadd h _ _ _ _ _ | .isub h _ _ _ _ _ | .imul h _ _ _ _ _ | .imulh h _ _ _ _ | .imad h _ _ _ _ _ _ | .imin h _ _ _ _
  | .imax h _ _ _ _ | .iabs h _ _ _ _ | .icmp h _ _ _ _ _ _ | .shl h _ _ _ _ | .shr h _ _ _ _ | .sar h _ _ _ _
  | .rot h _ _ _ _ _ | .tern h _ _ _ _ _ | .popc h _ _ _ | .clz h _ _ _ | .ctz h _ _ _ | .brev h _ _ _ | .bfx h _ _ _ _
  | .bfi h _ _ _ _ _ | .bsRead h _ _ _ _ _ | .bsFill h _ _ _ | .bsSeek h _ _ _ | .sel h _ _ _ _ _ | .mov h _ _
  | .movi h _ _ _ | .moviHi h _ _ | .lea h _ _ _ _ | .leaPc h _ _ _ => some h
  | .uadd h _ _ _ _ | .umul h _ _ _ _ | .utern h _ _ _ _ _ | .ushift h _ _ _ _ | .ucmp h _ _ _ _ _ | .umov h _ _
  | .umovSx h _ _ | .umovZx h _ _ | .umovHi h _ _ | .umovV h _ _ | .upredSet h _ _ | .upredGet h _ _ | .upredNz h _ _
  | .sreg h _ _ | .sregU h _ _ => some h
  | .fadd h _ _ _ _ _ _ _ | .fmul h _ _ _ _ _ _ _ | .ffma h _ _ _ _ _ _ _ _ _ | .fmin h _ _ _ _ _ _ _
  | .fmax h _ _ _ _ _ _ _ | .fcmp h _ _ _ _ _ _ _ _ | .fclass h _ _ _ _ | .fcvt h _ _ _ _ _ _ _ | .icvt h _ _ _ _ _ _
  | .fcvti h _ _ _ _ _ _ _ | .frcp h _ _ _ _ _ | .frsq h _ _ _ _ _ | .fsqrt h _ _ _ _ _ | .fdiv h _ _ _ _ _ _ _
  | .fex2 h _ _ _ _ _ | .flg2 h _ _ _ _ _ | .fsin h _ _ _ _ _ | .fcos h _ _ _ _ _ | .xlane h _ _ _ _ _ | .qx h _ _ _
  | .fold h _ _ _ _ _ _ _ | .scan h _ _ _ _ _ _ _ | .pack h _ _ _ _ _ _ _ _ _ | .fscale h _ _ _ _ _ _
  | .frnd h _ _ _ _ _ _ => some h
  | .ld h _ _ _ _ | .st h _ _ _ _ | .atom h _ _ _ _ _ | .cas h _ _ _ _ _ _ | .fence h _ _ | .recSet h _ _
  | .recSetBase h _ _ | .recSetAdv h _ _ | .recGet h _ _ | .spill h _ _ _ _ | .fill h _ _ _ _ | .barInit h _ _ _ _
  | .barArrive h _ _ _ | .barWait h _ _ | .barTest h _ _ _ _ | .tagWaitany h _ _ _ | .tagWaitall h _ _ _ | .tagFirst h _ _ _
  | .tagRead h _ _ | .tagReadSt h _ _ | .tagClear h _ | .cmapWait h _ _ _ | .cmapTest h _ _ _ | .ringBind h _ _ _ _
  | .ringUnbind h _ _ | .dwsPin h _ _ _ | .dwsUnpin h _ _ _ | .dwsAlloc h _ _ | .dwsFree h _ _ => some h
  | .mma h _ | .mmaBatch h _ | .mfence h | .mwait h _ | .mwaitAll h | .accPut h _ _ _ | .accGet h _ _ _ | .accZero h _ _
  | .convDecl h _ _ _ _ | .convDeclFree h _ _ | .convRead h _ _ | .fmtw h _ _ _ _ => some h
  | .spawn h _ _ _ | .spawnWait h _ _ | .qrunCount h _ _ | .qrunStop h _ _ | .qrunStep h _ _ | .qrunResume h _ _
  | .qrunKill h _ _ | .qrunRead h _ _ _ | .qrunWrite h _ _ _ | .qterm h _ | .preDone h | .preWait h _ | .rgn h
  | .dikeOpen h _ _ _ | .dikeClose h | .icinv h _ | .ctrRead h _ _ | .eret h | .eretNext h | .sset h _ _ | .halt h
  | .haltStop h | .mboxRecv h _ _ _ _ | .mboxSend h _ _ _ _ => some h
  | _ => none

/-- The opcode of an instruction, from its own word; 0 for a step without an encoding. -/
def opcOf (i : Instr) : Nat :=
  match encode i with
  | some w => slotOpc w
  | none => 0

/-- The vector register that a source names. -/
def srcV : Src → List Nat
  | .v n => [n.toNat] | _ => []
/-- The uniform register that a source names. -/
def srcS : Src → List Nat
  | .s n => [n.toNat] | _ => []
/-- Vector register of an index. -/
def ixV : Ix → List Nat
  | .v n => [n.toNat] | _ => []
/-- Uniform register of an index. -/
def ixS : Ix → List Nat
  | .s n => [n.toNat] | _ => []
/-- Uniform register of an operand that may be an immediate. -/
def uS : USrc → List Nat
  | .reg n => [n.toNat] | _ => []
/-- A run of n registers. -/
def run (r : BitVec 8) (n : Nat) : List Nat := (List.range n).map (r.toNat + ·)
/-- The registers that a width moves: one, a pair or a quad (R196). -/
def widthRegs (width : BitVec 4) : Nat :=
  match width.toNat with
  | 4 => 2 | 5 => 4 | _ => 1
/-- The bytes that a width moves (R196). -/
def widthBytes (width : BitVec 4) : Nat := 2 ^ width.toNat

/-- The vector registers that an instruction reads (R44, R228). -/
def vReads : Instr → List Nat
  | .brx _ lr => [lr.toNat]
  | .callR _ _ tr => [tr.toNat]
  | .ret _ lr => [lr.toNat]
  | .sleep _ a _ => srcV a
  | .iadd _ _ _ _ a b | .isub _ _ _ _ a b | .imul _ _ _ _ a b => srcV a ++ srcV b
  | .imulh _ _ _ a b | .imin _ _ _ a b | .imax _ _ _ a b | .shl _ _ _ a b | .shr _ _ _ a b | .sar _ _ _ a b
  | .bfx _ _ _ a b => srcV a ++ srcV b
  | .imad _ _ _ _ a b c => srcV a ++ srcV b ++ srcV c
  | .iabs _ _ _ _ a => srcV a
  | .icmp _ _ _ _ _ a b => srcV a ++ srcV b
  | .rot _ _ _ _ a b => srcV a ++ srcV b
  | .tern _ _ a b c _ => srcV a ++ srcV b ++ srcV c
  | .popc _ _ _ a | .clz _ _ _ a | .ctz _ _ _ a | .brev _ _ _ a => srcV a
  | .bfi _ _ _ a b c => srcV a ++ srcV b ++ srcV c
  | .bsRead _ _ _ _ a b => [a.toNat, a.toNat + 1] ++ srcV b
  | .bsFill _ d a _ => [d.toNat, d.toNat + 1] ++ srcV a
  | .bsSeek _ _ _ a => srcV a
  | .sel _ _ a b _ _ => srcV a ++ srcV b
  | .mov _ _ a => srcV a
  | .moviHi _ d _ => [d.toNat]
  | .lea _ _ a b _ => srcV a ++ srcV b
  | .leaPc _ _ b _ => srcV b
  | .umovV _ _ a => [a.toNat]
  | .fadd _ _ _ _ a b _ _ | .fmul _ _ _ _ a b _ _ => srcV a ++ srcV b
  | .ffma _ _ _ _ a b c _ _ _ => srcV a ++ srcV b ++ srcV c
  | .fmin _ _ _ _ a b _ _ | .fmax _ _ _ _ a b _ _ => srcV a ++ srcV b
  | .fcmp _ _ _ _ _ a b _ _ => srcV a ++ srcV b
  | .fclass _ _ _ a _ => srcV a
  | .fcvt _ _ _ _ _ _ a _ | .fcvti _ _ _ _ _ _ a _ => srcV a
  | .icvt _ _ _ _ _ _ a => srcV a
  | .frcp _ _ _ _ a _ | .frsq _ _ _ _ a _ | .fsqrt _ _ _ _ a _ | .fex2 _ _ _ _ a _ | .flg2 _ _ _ _ a _
  | .fsin _ _ _ _ a _ | .fcos _ _ _ _ a _ => srcV a
  | .fdiv _ _ _ _ a b _ _ => srcV a ++ srcV b
  | .xlane _ _ _ a b _ => srcV a ++ srcV b
  | .qx _ _ _ a => srcV a
  | .fold _ _ _ _ _ _ a _ | .scan _ _ _ _ _ _ a _ => srcV a
  | .pack _ _ _ _ _ _ a b _ _ => srcV a ++ srcV b
  | .fscale _ _ _ _ a b _ => srcV a ++ srcV b
  | .frnd _ _ _ _ _ a _ => srcV a
  | .ld _ _ _ _ m => ixV m.ix
  | .st _ _ _ d m => run d (widthRegs m.width) ++ ixV m.ix
  | .atom _ _ _ _ d2 m => d2.toNat :: ixV m.ix
  | .cas _ _ _ _ d2 nv m => d2.toNat :: nv.toNat :: ixV m.ix
  | .spill _ _ d width _ => run d (widthRegs width)
  | .mma _ f => [f.fw.toNat]
  | .mmaBatch _ f => [f.fw.toNat]
  | .accPut _ _ _ src => run src 8
  | .fmtw _ _ _ a _ => srcV a
  | .sset _ _ a => srcV a
  | _ => []

/-- The vector registers that an instruction writes (R45). -/
def vWrites : Instr → List Nat
  | .call _ lr _ _ => [lr.toNat]
  | .callR _ lr _ => [lr.toNat]
  | .lmaskBits _ d _ | .lmaskCount _ d _ | .lmaskRank _ d _ => [d.toNat]
  | .iadd _ _ _ d _ _ | .isub _ _ _ d _ _ | .imul _ _ _ d _ _ | .imad _ _ _ d _ _ _ | .iabs _ _ _ d _
  | .rot _ _ _ d _ _ => [d.toNat]
  | .imulh _ _ d _ _ | .imin _ _ d _ _ | .imax _ _ d _ _ | .shl _ _ d _ _ | .shr _ _ d _ _ | .sar _ _ d _ _
  | .bfx _ _ d _ _ | .bfi _ _ d _ _ _ => [d.toNat]
  | .tern _ d _ _ _ _ => [d.toNat]
  | .popc _ _ d _ | .clz _ _ d _ | .ctz _ _ d _ | .brev _ _ d _ => [d.toNat]
  | .bsRead _ _ _ d _ _ => [d.toNat]
  | .bsFill _ d _ _ => [d.toNat, d.toNat + 1]
  | .bsSeek _ _ d _ => [d.toNat]
  | .sel _ d _ _ _ _ => [d.toNat]
  | .mov _ d _ => [d.toNat]
  | .movi _ _ d _ => [d.toNat]
  | .moviHi _ d _ => [d.toNat]
  | .lea _ d _ _ _ => [d.toNat]
  | .leaPc _ d _ _ => [d.toNat]
  | .sreg _ d _ => [d.toNat]
  | .fadd _ _ _ d _ _ _ _ | .fmul _ _ _ d _ _ _ _ | .fmin _ _ _ d _ _ _ _ | .fmax _ _ _ d _ _ _ _ => [d.toNat]
  | .ffma _ _ _ d _ _ _ _ _ _ => [d.toNat]
  | .fclass _ _ d _ _ => [d.toNat]
  | .fcvt _ _ _ _ _ d _ _ | .fcvti _ _ _ _ _ d _ _ => [d.toNat]
  | .icvt _ _ _ _ _ d _ => [d.toNat]
  | .frcp _ _ _ d _ _ | .frsq _ _ _ d _ _ | .fsqrt _ _ _ d _ _ | .fex2 _ _ _ d _ _ | .flg2 _ _ _ d _ _
  | .fsin _ _ _ d _ _ | .fcos _ _ _ d _ _ => [d.toNat]
  | .fdiv _ _ _ d _ _ _ _ => [d.toNat]
  | .xlane _ _ d _ _ _ => [d.toNat]
  | .qx _ _ d _ => [d.toNat]
  | .fold _ _ _ _ _ d _ _ | .scan _ _ _ _ _ d _ _ => [d.toNat]
  | .pack _ _ _ _ _ d _ _ _ _ => [d.toNat]
  | .fscale _ _ _ d _ _ _ => [d.toNat]
  | .frnd _ _ _ _ d _ _ => [d.toNat]
  | .ld _ _ _ d m => run d (widthRegs m.width)
  | .atom _ _ _ d _ _ => [d.toNat]
  | .cas _ _ _ d _ _ _ => [d.toNat]
  | .fill _ _ d width _ => run d (widthRegs width)
  | .accGet _ _ d _ => run d 8
  | .fmtw _ _ d _ _ => [d.toNat]
  | _ => []

/-- Every vector register that an instruction names (R25, R228). -/
def vNamed (i : Instr) : List Nat :=
  vReads i ++ vWrites i ++
  (match i with
   | .mma _ f => run f.areg 2 ++ run f.breg 2
   | .mmaBatch _ f => run f.areg 8 ++ run f.breg 8
   | .dikeOpen _ sr _ _ => [sr.toNat]
   | _ => [])

/-- The accumulator tile that an instruction names (R228). -/
def tileNamed : Instr → List Nat
  | .mma _ f => [f.tile.toNat]
  | .mmaBatch _ f => [f.tile.toNat]
  | .mwait _ t => [t.toNat]
  | .accPut _ _ t _ => [t.toNat]
  | .accGet _ _ _ t => [t.toNat]
  | .accZero _ _ t => [t.toNat]
  | _ => []

/-- Check 7 of R142: every register named lies within the group's declared counts (R25). -/
def declared (i : Instr) (x : Group) : Bool :=
  (vNamed i).all (fun r => decide (r < x.nregs)) && (tileNamed i).all (fun t => decide (t < x.ntiles))

/-- The uniform registers that an instruction reads. -/
def sReads : Instr → List Nat
  | .brxU _ lr => [lr.toNat]
  | .plop _ _ a b c _ => srcS a ++ srcS b ++ srcS c
  | .lmaskEvery _ _ a | .lmaskSome _ _ a | .lmaskAlike _ _ a | .lmaskBits _ _ a | .lmaskCount _ _ a | .lmaskRank _ _ a => srcS a
  | .sleep _ a _ => srcS a
  | .iadd _ _ _ _ a b | .isub _ _ _ _ a b | .imul _ _ _ _ a b => srcS a ++ srcS b
  | .imulh _ _ _ a b | .imin _ _ _ a b | .imax _ _ _ a b | .shl _ _ _ a b | .shr _ _ _ a b | .sar _ _ _ a b
  | .bfx _ _ _ a b => srcS a ++ srcS b
  | .imad _ _ _ _ a b c => srcS a ++ srcS b ++ srcS c
  | .iabs _ _ _ _ a => srcS a
  | .icmp _ _ _ _ _ a b => srcS a ++ srcS b
  | .rot _ _ _ _ a b => srcS a ++ srcS b
  | .tern _ _ a b c _ => srcS a ++ srcS b ++ srcS c
  | .popc _ _ _ a | .clz _ _ _ a | .ctz _ _ _ a | .brev _ _ _ a => srcS a
  | .bfi _ _ _ a b c => srcS a ++ srcS b ++ srcS c
  | .bsRead _ _ _ _ _ b => srcS b
  | .bsFill _ _ a _ => srcS a
  | .bsSeek _ _ _ a => srcS a
  | .sel _ _ a b _ _ => srcS a ++ srcS b
  | .mov _ _ a => srcS a
  | .lea _ _ a b _ => srcS a ++ srcS b
  | .leaPc _ _ b _ => srcS b
  | .uadd _ _ _ a b => a.toNat :: uS b
  | .umul _ _ _ a b => a.toNat :: uS b
  | .utern _ _ a b c _ => a.toNat :: c.toNat :: uS b
  | .ushift _ _ _ a b => a.toNat :: uS b
  | .ucmp _ _ _ _ a b => a.toNat :: uS b
  | .umov _ _ a => [a.toNat]
  | .umovHi _ d _ => [d.toNat]
  | .upredSet _ _ a => [a.toNat]
  | .upredNz _ _ a => [a.toNat]
  | .fadd _ _ _ _ a b _ _ | .fmul _ _ _ _ a b _ _ => srcS a ++ srcS b
  | .ffma _ _ _ _ a b c _ _ _ => srcS a ++ srcS b ++ srcS c
  | .fmin _ _ _ _ a b _ _ | .fmax _ _ _ _ a b _ _ => srcS a ++ srcS b
  | .fcmp _ _ _ _ _ a b _ _ => srcS a ++ srcS b
  | .fclass _ _ _ a _ => srcS a
  | .fcvt _ _ _ _ _ _ a _ | .fcvti _ _ _ _ _ _ a _ => srcS a
  | .icvt _ _ _ _ _ _ a => srcS a
  | .frcp _ _ _ _ a _ | .frsq _ _ _ _ a _ | .fsqrt _ _ _ _ a _ | .fex2 _ _ _ _ a _ | .flg2 _ _ _ _ a _
  | .fsin _ _ _ _ a _ | .fcos _ _ _ _ a _ => srcS a
  | .fdiv _ _ _ _ a b _ _ => srcS a ++ srcS b
  | .xlane _ _ _ a b _ => srcS a ++ srcS b
  | .qx _ _ _ a => srcS a
  | .fold _ _ _ _ _ _ a _ | .scan _ _ _ _ _ _ a _ => srcS a
  | .pack _ _ _ _ _ _ a b _ _ => srcS a ++ srcS b
  | .fscale _ _ _ _ a b _ => srcS a ++ srcS b
  | .frnd _ _ _ _ _ a _ => srcS a
  | .ld _ _ _ _ m => ixS m.ix
  | .st _ _ _ _ m => ixS m.ix
  | .atom _ _ _ _ _ m => ixS m.ix
  | .cas _ _ _ _ _ _ m => ixS m.ix
  | .recSet _ _ k => (List.range 4).map (k.toNat + ·)
  | .recSetBase _ _ a => [a.toNat]
  | .recSetAdv _ _ a => [a.toNat]
  | .spill _ _ _ _ _ => [95]
  | .fill _ _ _ _ _ => [95]
  | .barInit _ _ _ _ e => uS e
  | .barWait _ _ p => uS p
  | .barTest _ _ _ _ p => uS p
  | .tagWaitany _ _ _ a | .tagWaitall _ _ _ a | .tagFirst _ _ _ a => [a.toNat]
  | .tagRead _ _ a => [a.toNat]
  | .tagReadSt _ _ a => [a.toNat]
  | .tagClear _ a => [a.toNat]
  | .cmapWait _ _ a b | .cmapTest _ _ a b => [a.toNat, b.toNat]
  | .ringBind _ _ a b _ => [a.toNat, b.toNat]
  | .ringUnbind _ _ a => [a.toNat]
  | .dwsPin _ _ a n | .dwsUnpin _ _ a n => a.toNat :: uS n
  | .dwsAlloc _ _ n => uS n
  | .dwsFree _ _ a => [a.toNat]
  | .convDecl _ g _ _ k => (List.range (if g = 2 then 3 else 2)).map (k.toNat + ·)
  | .fmtw _ _ _ a _ => srcS a
  | .spawn _ _ _ k => (List.range 10).map (k.toNat + ·)
  | .spawnWait _ _ a => [a.toNat]
  | .qrunCount _ _ n | .qrunStop _ _ n | .qrunStep _ _ n | .qrunResume _ _ n | .qrunKill _ _ n =>
    (List.range 8).map (n.toNat + ·)
  | .qrunRead _ _ n sv | .qrunWrite _ _ n sv => sv.toNat :: (List.range 8).map (n.toNat + ·)
  | .qterm _ c => uS c
  | .ctrRead _ _ n => uS n
  | .sset _ _ a => srcS a
  | .mboxSend _ _ _ a k => a.toNat :: (List.range 8).map (k.toNat + ·)
  | _ => []

/-- The uniform registers that an instruction writes. -/
def sWrites : Instr → List Nat
  | .uadd _ _ d _ _ => [d.toNat]
  | .umul _ _ d _ _ => [d.toNat]
  | .utern _ d _ _ _ _ => [d.toNat]
  | .ushift _ _ d _ _ => [d.toNat]
  | .ucmp _ _ _ d _ _ => [d.toNat]
  | .umov _ d _ => [d.toNat]
  | .umovSx _ d _ | .umovZx _ d _ | .umovHi _ d _ => [d.toNat]
  | .umovV _ d _ => [d.toNat]
  | .upredGet _ d _ => [d.toNat]
  | .sregU _ d _ => [d.toNat]
  | .recGet _ _ k => (List.range 4).map (k.toNat + ·)
  | .spill _ push _ _ _ => if push then [95] else []
  | .fill _ pop _ _ _ => if pop then [95] else []
  | .barInit _ _ d _ _ => [d.toNat]
  | .barArrive _ _ d _ => [d.toNat]
  | .barTest _ _ d _ _ => [d.toNat]
  | .tagWaitany _ _ d _ | .tagWaitall _ _ d _ | .tagFirst _ _ d _ => [d.toNat]
  | .tagRead _ d _ => [d.toNat]
  | .tagReadSt _ d _ => [d.toNat]
  | .cmapWait _ d _ _ | .cmapTest _ d _ _ => [d.toNat]
  | .ringBind _ d _ _ _ => [d.toNat]
  | .ringUnbind _ d _ => [d.toNat]
  | .dwsPin _ d _ _ | .dwsUnpin _ d _ _ => [d.toNat]
  | .dwsAlloc _ d _ => [d.toNat]
  | .dwsFree _ d _ => [d.toNat]
  | .convDecl _ _ d _ _ => [d.toNat]
  | .convDeclFree _ d _ => [d.toNat]
  | .convRead _ d _ => [d.toNat]
  | .spawn _ _ d _ => [d.toNat]
  | .spawnWait _ d _ => [d.toNat]
  | .qrunCount _ d _ | .qrunStop _ d _ | .qrunStep _ d _ | .qrunResume _ d _ | .qrunKill _ d _ => [d.toNat]
  | .qrunRead _ d _ _ | .qrunWrite _ d _ _ => [d.toNat]
  | .preWait _ d => [d.toNat]
  | .ctrRead _ d _ => [d.toNat]
  | .mboxRecv _ _ d k _ => d.toNat :: (List.range 8).map (k.toNat + ·)
  | .mboxSend _ _ d _ _ => [d.toNat]
  | _ => []

/-- The predicate register that a mask source names. -/
def srcP : Src → List Nat
  | .v n => [n.toNat] | _ => []
/-- The predicate registers that an instruction reads, its own predicate apart. -/
def pReads : Instr → List Nat
  | .plop _ _ a b c _ => srcP a ++ srcP b ++ srcP c
  | .lmaskEvery _ _ a | .lmaskSome _ _ a | .lmaskAlike _ _ a | .lmaskBits _ _ a | .lmaskCount _ _ a | .lmaskRank _ _ a => srcP a
  | .sel _ _ _ _ k _ => [k.toNat]
  | .upredGet _ _ a => [a.toNat]
  | _ => []
/-- The predicate registers that an instruction writes. -/
def pWrites : Instr → List Nat
  | .plop _ d _ _ _ _ => [d.toNat]
  | .lmaskEvery _ d _ | .lmaskSome _ d _ | .lmaskAlike _ d _ => [d.toNat]
  | .icmp _ _ _ _ d _ _ => [d.toNat]
  | .fcmp _ _ _ _ d _ _ _ _ => [d.toNat]
  | .bsFill _ _ _ k => [k.toNat]
  | .upredSet _ d _ => [d.toNat]
  | .upredNz _ d _ => [d.toNat]
  | _ => []
/-- The records that an instruction reads. -/
def bReads : Instr → List Nat
  | .ld _ _ _ _ m | .st _ _ _ _ m => [m.rc.toNat]
  | .atom _ _ _ _ _ m => [m.rc.toNat]
  | .cas _ _ _ _ _ _ m => [m.rc.toNat]
  | .recSetBase _ rc _ | .recSetAdv _ rc _ => [rc.toNat]
  | .recGet _ rc _ => [rc.toNat]
  | _ => []
/-- The records that an instruction writes. -/
def bWrites : Instr → List Nat
  | .recSet _ rc _ => [rc.toNat]
  | .recSetBase _ rc _ | .recSetAdv _ rc _ => [rc.toNat]
  | _ => []
/-- The rejoin masks that an instruction writes or waits on (R27, R52). -/
def jNamed : Instr → List Nat
  | .joinEnrol _ n | .joinWait _ n | .joinLeave _ n => [n.toNat]
  | _ => []

/-- The engine ports (R46). -/
inductive Port where
  | int | fp | sf | mem | mat
  deriving DecidableEq, Repr

/-- The port of an opcode (R46). -/
def portOf (opc : Nat) : Port :=
  if opc ≤ 0x42 then .int
  else if opc ≤ 0x59 then .fp
  else if opc ≤ 0x65 then .sf
  else if opc ≤ 0x68 then .fp
  else if opc ≤ 0x99 then .mem
  else if opc ≤ 0xA9 then .mat
  else .mem

/-- A latency that the spec gives as about n cycles: within a quarter of n (R13) (log 2). -/
def near (k n : Nat) : Nat := n - n / 4 + Config.about k % (n / 2 + 1)
/-- The latency of an instruction's results in cycles; an "about" latency is an implementation's (R13, R174, R194, R226,
R247, R275), and a ns is 2.095 cycles (R1). -/
def latency (i : Instr) : Nat :=
  let two := fun (t : Ty) (a b : Nat) => if t == .f32x2 then b else a
  match i with
  | .imul _ t _ _ _ _ | .imulh _ t _ _ _ | .imad _ t _ _ _ _ _ => if t == .i64 || t == .u64 then 8 else 6
  | .umul _ _ _ _ _ => 8
  | .bsRead .. | .bsFill .. | .bsSeek .. => 6
  | .sreg _ _ n | .sregU _ _ n => if n = 8 then 20 else 4
  | .fadd _ t _ _ _ _ _ _ | .fmul _ t _ _ _ _ _ _ => if t == .f64 then 6 else 4
  | .ffma _ t _ _ _ _ _ _ _ _ => if t == .f64 then 6 else 4
  | .fcvt .. | .icvt .. | .fcvti .. | .pack .. => 6
  | .frcp _ t _ _ _ _ | .frsq _ t _ _ _ _ | .fex2 _ t _ _ _ _ | .flg2 _ t _ _ _ _ => two t 14 16
  | .fsin _ t _ _ _ _ | .fcos _ t _ _ _ _ => two t 20 24
  | .fsqrt _ t _ _ _ _ => if t == .f64 then 40 else two t 18 22
  | .fdiv _ t _ _ _ _ _ _ => if t == .f64 then 40 else two t 18 22
  | .xlane .. => 10
  | .qx .. => 6
  | .fold _ t op _ _ _ _ _ => if t == .f64 && decide (op = 0) then 20 else 16
  | .scan .. => 20
  | .ld .. => near 0 24
  | .fill .. => near 1 24
  | .atom .. | .cas .. => near 2 40
  | .barInit _ _ _ n _ => if n.toNat < 16 then 8 else near 3 419
  | .barArrive _ _ _ n => if n.toNat < 16 then 8 else near 3 419
  | .barWait .. | .cmapWait .. | .tagWaitany .. | .tagWaitall .. => 8
  | .ringBind .. | .ringUnbind .. => near 4 100
  | .dwsPin .. | .dwsUnpin .. | .dwsFree .. => near 5 2095
  | .dwsAlloc .. => near 6 2095
  | .accPut .. | .accGet .. => 8
  | .accZero .. => 2
  | .spawn .. => near 7 1048
  | .spawnWait .. | .preWait .. => 8
  | .qrunCount .. | .qrunStop .. | .qrunStep .. | .qrunResume .. | .qrunKill .. | .qrunRead .. | .qrunWrite .. | .qterm .. =>
    near 8 251
  | .icinv .. => near 9 50
  | .ctrRead .. => near 10 40
  | .halt .. | .mboxRecv .. | .mboxSend .. => 20
  | _ => 4

/-- The cycles from when the condition of a wait holds to its completion (R226, R247, R275). -/
def afterHolds : Instr → Nat
  | .barWait .. | .cmapWait .. | .tagWaitany .. | .tagWaitall .. | .spawnWait .. | .preWait .. => 8
  | .ringUnbind .. => near 4 100
  | .mwait .. | .mwaitAll .. => 2
  | .halt .. | .mboxRecv .. | .mboxSend .. => 20
  | _ => 0

/-- The cycles for which an instruction keeps its port busy, bank cycles and matrix rounds apart (R194, R226). -/
def portBusy (i : Instr) : Nat :=
  let two := fun (t : Ty) (a b : Nat) => if t == .f32x2 then b else a
  match i with
  | .frcp _ t _ _ _ _ | .frsq _ t _ _ _ _ | .fex2 _ t _ _ _ _ | .flg2 _ t _ _ _ _ => two t 2 4
  | .fsin _ t _ _ _ _ | .fcos _ t _ _ _ _ => two t 4 8
  | .fsqrt _ t _ _ _ _ => if t == .f64 then 16 else two t 4 8
  | .fdiv _ t _ _ _ _ _ _ => if t == .f64 then 16 else two t 4 8
  | .xlane .. | .fold .. | .scan .. => 2
  | _ => 1

/-- The instructions of the control class, 0x01 to 0x0F (R47). -/
def isControl (opc : Nat) : Bool := decide (1 ≤ opc) && decide (opc ≤ 15)

/-- The instructions that check a privilege of their own (R141). -/
def needsSystem : Instr → Bool
  | .halt _ | .haltStop _ | .mboxRecv .. | .mboxSend .. => true
  | _ => false

/-- The instructions that helper lanes execute as if their predicate were false (R17). -/
def skipsHelpers : Instr → Bool
  | .spawn .. | .qrunCount .. | .qrunStop .. | .qrunStep .. | .qrunResume .. | .qrunKill .. | .qrunRead .. | .qrunWrite ..
  | .dwsPin .. | .dwsUnpin .. | .dwsAlloc .. | .dwsFree .. | .mboxSend .. => true
  | _ => false

/-- Forced boundaries (R58). -/
def isBoundary : Instr → Bool
  | .atom .. | .cas .. => true
  | .fence _ _ o => decide (o ≠ 0)
  | .st _ _ _ _ m => decide (m.order = 2) || decide (m.order = 3)
  | .barInit .. | .barArrive .. | .barWait .. | .barTest .. | .tagWaitany .. | .tagWaitall .. | .cmapWait .. => true
  | .joinWait .. | .ringBind .. | .ringUnbind .. | .dwsPin .. | .dwsUnpin .. | .dwsAlloc .. | .dwsFree .. => true
  | .mma .. | .mmaBatch .. => true
  | .spawn .. | .spawnWait .. | .qrunCount .. | .qrunStop .. | .qrunStep .. | .qrunResume .. | .qrunKill .. | .qrunRead ..
  | .qrunWrite .. | .qterm .. | .preDone .. | .preWait .. | .dikeOpen .. | .dikeClose .. | .eret .. | .eretNext .. | .sset ..
  | .halt .. | .haltStop .. | .mboxRecv .. | .mboxSend .. => true
  | .exit _ => true
  | _ => false

end Sys2Proof.Machine
end

