-- ==== Sys2Proof/Machine/Xlat.lean ====
section
/-! DEFINITION. Translation: the two stages of R348 to R351, the cached entries that an access may still use (R354, R355),
and the physical places they lead to. -/

namespace Sys2Proof.Machine

/-- A field of a 64-bit entry. -/
def bitsOf (w : Word) (lo n : Nat) : Nat := (w.toNat / 2 ^ lo) % 2 ^ n

/-- Why a translation fails (R349, R350, R357): 0 NOT_MAPPED, 1 BAD_ENTRY, 2 permission, 3 STAGE2; 4 a page that only
waits for service (mig, demoted, non-resident). -/
structure XFault where
  cause : Nat
  serv  : Bool
  page  : Nat
  deriving DecidableEq, Repr

/-- A physical place: 0 DRAM, 1 host memory, 2 a majority page (its descriptor), 3 a DWS frame, 4 control SRAM. -/
structure Place where
  kind : Nat
  addr : Nat
  ipa  : Nat
  deriving DecidableEq, Repr

/-- The access that asks: read, write or fetch. -/
inductive Need where
  | r | w | x
  deriving DecidableEq, Repr

/-- The bytes that a leaf of a level maps (R349). -/
def levelSize (level : Nat) : Nat := 2 ^ (12 + 9 * (4 - level))
/-- The 4 KiB pages of a level's entry. -/
def levelPages (level : Nat) : Nat := 2 ^ (9 * (4 - level))
/-- A range overlaps another. -/
def overlaps (a n b m : Nat) : Bool := decide (a < b + m) && decide (b < a + n)
/-- The levels of a global walk with the low bit and width of their index (R349). -/
def walkLevels : List (Nat × Nat × Nat) := [(0, 48, 8), (1, 39, 9), (2, 30, 9), (3, 21, 9), (4, 12, 9)]

/-- A stage-2 entry that breaks no rule of R350. -/
def okS2 (e : Word) : Bool :=
  decide (bitsOf e 0 1 = 1) && decide (bitsOf e 60 4 = 0) && decide (bitsOf e 10 2 = 0) && decide (bitsOf e 1 2 = 0) &&
  decide (bitsOf e 56 4 ≤ 3)

/-- An entry's address field. -/
def entryAddr (e : Word) : Nat := bitsOf e 12 44 * 4096
/-- What a stage-2 entry of a level leads to: the next table, or a leaf; `none` is a fault (R350). -/
def s2Step (e : Word) (level : Nat) : Option (Sum Nat Word) :=
  if !okS2 e then none
  else if bitsOf e 6 1 = 1 then
    if level ≤ 1 ∨ (bitsOf e 56 4 ≤ 1 ∧ entryAddr e % levelSize level ≠ 0) then none else some (.inr e)
  else if level = 4 then none
  else some (.inl (entryAddr e))
/-- A stage-2 walk: the entries that it reads, and its leaf (R348, R350). -/
def Xlat.s2walk (x : Xlat) (p ipa : Nat) : List (Nat × Nat × Nat) → Nat → List Cached × Option S2Leaf
  | [], _ => ([], none)
  | (level, lo, n) :: rest, table =>
    let a := table + 8 * (ipa / 2 ^ lo % 2 ^ n)
    let e := Map.get x.s2tab 0 a
    let page := ipa / levelSize level * levelPages level
    let c : Cached := { polder := p, stage := 2, page := page, level := level, entry := e }
    match s2Step e level with
    | none => ([], none)
    | some (.inr e) => ([c], some { at_ := a, page := page, level := level, entry := e })
    | some (.inl t) =>
      let r := Xlat.s2walk x p ipa rest t
      (c :: r.1, r.2)
/-- The stage-2 leaf that maps an intermediate address (R350). -/
def Xlat.s2find (x : Xlat) (ipa : Nat) : Option S2Leaf := (x.s2walk 0 ipa walkLevels x.s2root).2
/-- Every leaf below a table that maps from an intermediate address on. -/
def Xlat.leavesIn (x : Xlat) : List (Nat × Nat × Nat) → Nat → Nat → List S2Leaf
  | [], _, _ => []
  | (level, lo, n) :: rest, table, base =>
    (x.s2tab.filter (fun q => decide (table ≤ q.1) && decide (q.1 < table + 8 * 2 ^ n))).flatMap (fun q =>
      let ipa := base + (q.1 - table) / 8 * 2 ^ lo
      match s2Step q.2 level with
      | none => []
      | some (.inr e) => [{ at_ := q.1, page := ipa / 4096, level := level, entry := e }]
      | some (.inl t) => Xlat.leavesIn x rest t ipa)
/-- The leaves of a polder's stage-2 tree. -/
def Xlat.leaves (x : Xlat) : List S2Leaf := x.leavesIn walkLevels x.s2root 0
/-- Replace a stage-2 entry. -/
def Xlat.setS2 (x : Xlat) (a : Nat) (e : Word) : Xlat := { x with s2tab := Map.insert x.s2tab a e }
/-- Map a page by a leaf of a level, with new tables where the tree has none. -/
def Xlat.putLeaf (x : Xlat) (ipa leaf : Nat) (e : Word) : List (Nat × Nat × Nat) → Nat → Xlat
  | [], _ => x
  | (level, lo, n) :: rest, table =>
    let a := table + 8 * (ipa / 2 ^ lo % 2 ^ n)
    if level = leaf then x.setS2 a e
    else match s2Step (Map.get x.s2tab 0 a) level with
      | some (.inl t) => Xlat.putLeaf x ipa leaf e rest t
      | _ => Xlat.putLeaf { x.setS2 a (BitVec.ofNat 64 (x.s2next + 1)) with s2next := x.s2next + 4096 } ipa leaf e rest x.s2next
/-- Map a page. -/
def Xlat.mapPage (x : Xlat) (page level : Nat) (e : Word) : Xlat := x.putLeaf (page * 4096) level e walkLevels x.s2root

/-- Permission bits r, w, x of an entry: stage 1 bits 3, 4, 5. -/
def perm (e : Word) : Need → Bool
  | .r => decide (bitsOf e 3 1 = 1)
  | .w => decide (bitsOf e 4 1 = 1)
  | .x => decide (bitsOf e 5 1 = 1)
/-- Permission bits of a stage-2 entry: `x`, `w`, `r` in bits 5 to 3. -/
def perm2 (e : Word) : Need → Bool := perm e

/-! ### What a unit holds (R352, R354, R355) -/

/-- A page lies in what a held entry maps. -/
def Cached.has (c : Cached) (page : Nat) : Bool := decide (c.page ≤ page) && decide (page < c.page + levelPages c.level)
/-- An invalidation covers an entry (R353). -/
def Inval.covers (v : Inval) (c : Cached) : Bool :=
  !v.queue && v.stages.contains c.stage &&
  (match v.range with
   | none => true
   | some (page, n) => decide (page < c.page + levelPages c.level) && decide (c.page < page + n))
/-- The entries of a stage and page that an access of a unit may still use: those that the unit holds, and those that an incomplete
invalidation has removed from it. -/
def State.held (s : State) (u p stage page : Nat) : List Cached :=
  let mine := fun (c : Cached) => c.polder == p && c.stage == stage && c.has page
  (Map.get s.tr.tlb [] u).filter mine ++
  (((s.xlat p).invals ++ (s.xlat p).invals2).flatMap (fun v => (v.old.filter (fun q => q.1 == u)).map (·.2))).filter mine
/-- One of them, or none: the access walks (R354, R355). -/
def State.heldPick (s : State) (u p stage page : Nat) : Option Cached :=
  let cs := s.held u p stage page
  if cs.isEmpty then none else cs[(s.freeW (2 ^ 31 + 4 * page + stage)).toNat % (cs.length + 1)]?
/-- A table entry of stage 1 that the unit's walk cache may give in the place of memory (R352). -/
def State.tablePick (s : State) (u p va level : Nat) (e : Word) : Word :=
  match (Map.get s.tr.tables [] u).find? (fun c => c.polder == p && c.stage == 1 && c.level == level && c.has (va / 4096)) with
  | some c => if s.choose (2 ^ 31 + 4 * (8 * (va / 4096) + level)) then c.entry else e
  | none => e

/-- The stage-2 leaf of an intermediate address that an access of a unit uses. -/
def State.leaf2 (s : State) (u p ipa : Nat) : Option S2Leaf :=
  match s.heldPick u p 2 (ipa / 4096) with
  | some c => some { at_ := 0, page := c.page, level := c.level, entry := c.entry }
  | none => (s.xlat p).s2find ipa

/-- Stage 2 of an access: the place of an intermediate address (R348, R350, R356, R360). Host pages are translated by the host's IOMMU,
and a failed page request is unserviceable. -/
def State.stage2 (s : State) (u p ipa : Nat) (need : Need) : Except XFault Place :=
  let bad : Except XFault Place := .error { cause := 3, serv := false, page := ipa / 4096 }
  match s.leaf2 u p ipa with
  | none => bad
  | some l =>
    if bitsOf l.entry 7 1 = 1 ∨ bitsOf l.entry 56 4 = 3 then .error { cause := 4, serv := true, page := ipa / 4096 }
    else if !perm2 l.entry need then bad
    else
      let a := entryAddr l.entry + ipa % levelSize l.level
      match bitsOf l.entry 56 4 with
      | 2 => .ok { kind := 2, addr := entryAddr l.entry, ipa := ipa }
      | 1 =>
        match Config.ats (a / 4096) with
        | some f => .ok { kind := 1, addr := f * 4096 + a % 4096, ipa := ipa }
        | none => bad
      | _ => .ok { kind := 0, addr := a, ipa := ipa }

/-- Eight bytes of polder memory at an intermediate address, for a stage-1 table read: itself translated by stage 2 (R348). A majority
page holds no table. -/
def State.readIpa (s : State) (u p ipa : Nat) : Except XFault Word :=
  match s.stage2 u p ipa .r with
  | .error f => .error f
  | .ok k =>
    match k.kind with
    | 0 => .ok (wordOf (Mem.read s.mems.dram k.addr 8))
    | 1 => .ok (wordOf (Mem.read s.mems.host k.addr 8))
    | _ => .error { cause := 3, serv := false, page := ipa / 4096 }

/-- What a stage-1 entry of a level leads to: a fault cause, the next table, or a leaf (R349). -/
def s1Step (e : Word) (level : Nat) : Except Nat (Sum Nat Word) :=
  if bitsOf e 0 1 = 0 then .error 0
  else if bitsOf e 56 8 ≠ 0 ∨ bitsOf e 8 4 ≠ 0 ∨ bitsOf e 1 2 ≠ 0 then .error 1
  else if level ≠ 4 ∧ bitsOf e 7 1 ≠ 0 then .error 1
  else if bitsOf e 6 1 = 1 then
    if level ≤ 1 then .error 1
    else if bitsOf e 12 44 * 4096 % levelSize level ≠ 0 then .error 1
    else .ok (.inr e)
  else if level = 4 then .error 1
  else .ok (.inl (bitsOf e 12 44 * 4096))

/-- Whether the tenant's fault ring is enabled (R357). -/
def Xlat.ringOn (x : Xlat) : Bool := decide (bitsOf x.fring 0 4 ≠ 0)
/-- A stage-1 fault of a cause: serviceable while the tenant's fault ring is enabled (R356). -/
def State.s1fault (s : State) (p va c : Nat) : XFault := { cause := c, serv := (s.xlat p).ringOn, page := va / 4096 }

/-- The stage-1 walk of a global VA: the leaf entry and its level. -/
def State.s1walk (s : State) (u p va : Nat) : List (Nat × Nat × Nat) → Nat → Except XFault (Word × Nat)
  | [], _ => .error (s.s1fault p va 1)
  | (level, lo, n) :: rest, table =>
    match s.readIpa u p (table + 8 * (va / 2 ^ lo % 2 ^ n)) with
    | .error f => .error f
    | .ok e =>
      match s1Step (s.tablePick u p va level e) level with
      | .error c => .error (s.s1fault p va c)
      | .ok (.inr e) => .ok (e, level)
      | .ok (.inl t) => State.s1walk s u p va rest t
/-- The entries that such a walk reads at both stages (R354). -/
def State.s1reads (s : State) (u p va : Nat) : List (Nat × Nat × Nat) → Nat → List Cached
  | [], _ => []
  | (level, lo, n) :: rest, table =>
    let ipa := table + 8 * (va / 2 ^ lo % 2 ^ n)
    ((s.xlat p).s2walk p ipa walkLevels (s.xlat p).s2root).1 ++
    (match s.readIpa u p ipa with
     | .error _ => []
     | .ok e =>
       { polder := p, stage := 1, page := va / levelSize level * levelPages level, level := level, entry := e } ::
       (match s1Step e level with
        | .ok (.inl t) => State.s1reads s u p va rest t
        | _ => []))

/-- The entry that a 64 KiB group gives for a page: that of the page itself, or that of any entry of a group that
disagrees (R349). -/
def State.c64pick (s : State) (u p va : Nat) (e : Word) (level : Nat) : Word :=
  if level = 4 ∧ bitsOf e 7 1 = 1 ∧ s.choose (va / 4096) then
    let k := (s.freeW (va / 4096)).toNat % 16
    let va' := va / 65536 * 65536 + 4096 * k
    match s.s1walk u p va' walkLevels (bitsOf (s.xlat p).s1Root 12 44 * 4096) with
    | .ok (e', 4) => e' + BitVec.ofNat 64 (va % 65536 / 4096 * 4096) - BitVec.ofNat 64 (4096 * k)
    | _ => e
  else e

/-- The stage-1 leaf that an access of a unit uses: a held one, or that of a walk that ends now (R354). -/
def State.leaf1 (s : State) (u p va : Nat) : Except XFault (Word × Nat) :=
  match s.heldPick u p 1 (va / 4096) with
  | some c => .ok (c.entry, c.level)
  | none =>
    if bitsOf (s.xlat p).s1Root 0 1 = 0 then .error (s.s1fault p va 0)
    else match s.s1walk u p va walkLevels (entryAddr (s.xlat p).s1Root) with
      | .ok (e, level) => .ok (s.c64pick u p va e level, level)
      | .error f => .error f

/-- Translate a global VA in a unit, 8 being the AD's (R348 to R350, R356). -/
def State.global (s : State) (u p va : Nat) (need : Need) : Except XFault Place :=
  if 2 ^ 56 ≤ va then .error { cause := 0, serv := false, page := va / 4096 } else
  match s.leaf1 u p va with
  | .error f => .error f
  | .ok (e1, level) =>
    if !perm e1 need then .error (s.s1fault p va 2) else s.stage2 u p (entryAddr e1 + va % levelSize level) need

/-- Where the device-allocation window begins, as a page index (R351). -/
def windowPage : Nat := 0xFF0000

/-- The intermediate frame that an allocation gives a window page. -/
def Xlat.allocFrame (x : Xlat) (page : Nat) : Option Nat :=
  match x.allocs.find? (fun a => decide (a.base ≤ page) && decide (page < a.base + a.frames.length)) with
  | some a => a.frames[page - a.base]?
  | none => none

/-- The stage-1 entry of a DWS page that an access of a unit uses. A page of the table that only waits for service is named apart from
the frames. -/
def State.dwsEntry (s : State) (u p page : Nat) : Except XFault Word :=
  match s.heldPick u p 3 page with
  | some c => .ok c.entry
  | none =>
    match s.readIpa u p (entryAddr (s.xlat p).dwsRoot + 8 * page) with
    | .error f => .error (if f.serv then { f with page := 2 ^ 24 + f.page } else { f with page := page })
    | .ok e => .ok e

/-- The intermediate frame and permission of a DWS page (R351). -/
def State.dws1 (s : State) (u p page : Nat) (need : Need) : Except XFault Nat :=
  let x := s.xlat p
  let no := fun (c : Nat) => ({ cause := c, serv := false, page := page } : XFault)
  if windowPage ≤ page then
    match x.allocFrame page with
    | some f => .ok f
    | none => .error (no 0)
  else if x.dwsLen ≤ page then .error (no 0)
  else
    match s.dwsEntry u p page with
    | .error f => .error f
    | .ok e =>
      if bitsOf e 0 1 = 0 then .error (no 0)
      else if bitsOf e 40 24 ≠ 0 ∨ bitsOf e 5 11 ≠ 0 ∨ bitsOf e 1 2 ≠ 0 then .error (no 1)
      else if !perm e need then .error (no 2)
      else .ok (bitsOf e 16 24)

/-- A stage-2 DWS entry that breaks no rule of R351. -/
def okDws2 (e : Word) : Bool := decide (bitsOf e 0 1 = 1) && decide (bitsOf e 60 4 = 0) && decide (bitsOf e 1 1 = 0)
/-- The byte address of a frame of a CD's DWS. -/
def dwsPa (e : Word) : Nat := bitsOf e 57 3 * 2 ^ 30 + bitsOf e 2 14 * 65536
/-- The DRAM backing page of a frame. -/
def dwsBack (e : Word) : Nat := bitsOf e 16 40 * 65536

/-- The stage-2 DWS entry of an intermediate frame that an access of a unit uses, and whether the frame is being moved (R355, R360). -/
def State.dws2 (s : State) (u p iframe : Nat) : Word × Bool :=
  match s.heldPick u p 4 iframe with
  | some c => (c.entry, false)
  | none => (Map.get (s.xlat p).s2dws 0 iframe, (s.xlat p).migs.any (fun m => m.dws && m.page == iframe && m.phase == 1))

/-- Translate a DWS VA in a unit, for a requester on a CD; `none` for a copy, which is routed to the frame's CD (R31, R351). -/
def State.dws (s : State) (u p va : Nat) (need : Need) (cd : Option Nat) : Except XFault Place :=
  let page := va / 65536
  match s.dws1 u p page need with
  | .error f => .error f
  | .ok f =>
    let (e, moves) := s.dws2 u p f
    if !okDws2 e then .error { cause := 3, serv := false, page := f }
    else if cd.any (fun c => decide (c ≠ bitsOf e 57 3)) then .error { cause := 0, serv := false, page := f }
    else if bitsOf e 56 1 = 0 ∨ moves then
      .error { cause := 4, serv := true, page := f }
    else .ok { kind := 3, addr := dwsPa e + va % 65536, ipa := f * 65536 + va % 65536 }

/-- Where a byte of an intermediate DWS address is held now: its frame, or its backing page (R351). -/
def State.dwsHome (s : State) (p ipa : Nat) : Option Place :=
  let e := Map.get (s.xlat p).s2dws 0 (ipa / 65536)
  if !okDws2 e then none
  else if bitsOf e 56 1 = 1 then some { kind := 3, addr := dwsPa e + ipa % 65536, ipa := ipa }
  else some { kind := 0, addr := dwsBack e + ipa % 65536, ipa := ipa }

/-- Bytes at a physical place. -/
def State.readAt (s : State) (k : Place) (n : Nat) : List Byte :=
  match k.kind with
  | 0 => Mem.read s.mems.dram k.addr n
  | 1 => Mem.read s.mems.host k.addr n
  | 3 => Mem.read s.mems.dws k.addr n
  | _ => List.replicate n 0
/-- Write bytes at a physical place. -/
def State.writeAt (s : State) (k : Place) (bs : List Byte) : State :=
  match k.kind with
  | 0 => { s with mems := { s.mems with dram := Mem.write s.mems.dram k.addr bs } }
  | 1 => { s with mems := { s.mems with host := Mem.write s.mems.host k.addr bs } }
  | 3 => { s with mems := { s.mems with dws := Mem.write s.mems.dws k.addr bs } }
  | _ => s

/-- The units of `size` bytes that a range touches. -/
def unitsOf (a n size : Nat) : List Nat :=
  if n = 0 then [] else (List.range ((a + n - 1) / size - a / size + 1)).map (fun i => a / size + i)
/-- The parts of a range that lie in one page each. -/
def pageParts (va n : Nat) : List (Nat × Nat) :=
  (unitsOf va n 4096).map (fun u => (max va (4096 * u), min (va + n) (4096 * u + 4096) - max va (4096 * u)))

/-- Whether a physical range holds poison (R423): 64-byte lines of DRAM, 64-bit words of the DWS. -/
def State.poisonAt (s : State) (k : Place) (n : Nat) : Bool :=
  match k.kind with
  | 0 => (unitsOf k.addr n 64).any (NatSet.mem s.mems.poisonD)
  | 3 => (unitsOf k.addr n 8).any (NatSet.mem s.mems.poisonW)
  | _ => false
/-- Units wholly inside a range. -/
def wholeUnits (a n size : Nat) : List Nat := (unitsOf a n size).filter (fun u => decide (a ≤ u * size) && decide (u * size + size ≤ a + n))
/-- A write that covers a whole unit clears its poison (R424). -/
def State.cleanAt (s : State) (k : Place) (n : Nat) : State :=
  match k.kind with
  | 0 => { s with mems := { s.mems with poisonD := (wholeUnits k.addr n 64).foldl NatSet.del s.mems.poisonD } }
  | 3 => { s with mems := { s.mems with poisonW := (wholeUnits k.addr n 8).foldl NatSet.del s.mems.poisonW } }
  | _ => s
/-- Poison every unit that a range touches. -/
def State.poisonPut (s : State) (k : Place) (n : Nat) : State :=
  match k.kind with
  | 0 => { s with mems := { s.mems with poisonD := (unitsOf k.addr n 64).foldl NatSet.add s.mems.poisonD } }
  | 3 => { s with mems := { s.mems with poisonW := (unitsOf k.addr n 8).foldl NatSet.add s.mems.poisonW } }
  | _ => s

/-! ### Invalidations (R353, R354) -/

/-- The units drop what an invalidation covers. -/
def State.uncache (s : State) (p : Nat) (v : Inval) : State :=
  let out := fun (m : Map (List Cached)) =>
    m.map (fun (q : Nat × List Cached) => (q.1, q.2.filter (fun c => !(c.polder == p && v.covers c))))
  { s with tr := { s.tr with tlb := out s.tr.tlb, tables := out s.tr.tables } }
/-- The cached entries of every unit that an invalidation covers. -/
def State.coveredBy (s : State) (p : Nat) (v : Inval) : List (Nat × Cached) :=
  s.tr.tlb.flatMap (fun q => (q.2.filter (fun c => c.polder == p && v.covers c)).map (fun c => (q.1, c)))

/-- Accept an invalidation of stage 1: the generation rises, and every unit drops the entries that it covers (R354, step 1). -/
def State.invalidate (s : State) (p : Nat) (stages : List Nat) (range : Option (Nat × Nat)) (queue : Bool) : State :=
  let x := s.xlat p
  let v : Inval := { num := x.issued + 1, gen := x.gen + 1, stages := stages, range := range, queue := queue, old := [] }
  let old := s.coveredBy p v
  ((s.uncache p v).modXlat p (fun x =>
    { x with gen := v.gen, issued := v.num, invals := x.invals ++ [{ v with old := old }] })).soon (.invalidationComplete p)
/-- Accept one of stage 2, through the trust root's own copy of the interface (R353). Without `keep` the change that it follows is one
act of the trust root and the units, and no access uses what it removed (log 144). -/
def State.invalidate2 (s : State) (p : Nat) (stages : List Nat) (range : Option (Nat × Nat)) (keep : Bool) : State :=
  let x := s.xlat p
  let v : Inval := { num := x.issued2 + 1, gen := x.gen2 + 1, stages := stages, range := range, queue := false, old := [] }
  let old := if keep then s.coveredBy p v else []
  ((s.uncache p v).modXlat p (fun x =>
    { x with gen2 := v.gen, issued2 := v.num, invals2 := x.invals2 ++ [{ v with old := old }] })).soon (.invalidationComplete (8 + p))
/-- Write a stage-2 leaf's entry and invalidate its page. -/
def State.setLeaf (s : State) (p : Nat) (l : S2Leaf) (e : Word) (keep : Bool) : State :=
  (s.modXlat p (fun x => x.setS2 l.at_ e)).invalidate2 p [2] (some (l.page, levelPages l.level)) keep
/-- Write a stage-2 DWS entry and invalidate it. -/
def State.setDws2 (s : State) (p f : Nat) (e : Word) (keep : Bool) : State :=
  (s.modXlat p (fun x => { x with s2dws := Map.insert x.s2dws f e })).invalidate2 p [4] (some (f, 1)) keep

/-! ### Walks (R352, R354) -/

/-- The entries that a walk would read now; none when it ends in a fault. A page of the allocation window has no table entry. -/
def State.formed (s : State) (u p : Nat) (dws : Bool) (va : Nat) : Option (List Cached) :=
  let x := s.xlat p
  if dws then
    let page := va / 65536
    match s.dws1 u p page .r, s.readIpa u p (entryAddr x.dwsRoot + 8 * page) with
    | .ok f, .ok e1 =>
      if windowPage ≤ page then some [{ polder := p, stage := 4, page := f, level := 4, entry := Map.get x.s2dws 0 f }]
      else some ((x.s2walk p (entryAddr x.dwsRoot + 8 * page) walkLevels x.s2root).1 ++
        [{ polder := p, stage := 3, page := page, level := 4, entry := e1 },
         { polder := p, stage := 4, page := f, level := 4, entry := Map.get x.s2dws 0 f }])
    | _, _ => none
  else if bitsOf x.s1Root 0 1 = 0 then none
  else
    match s.s1walk u p va walkLevels (entryAddr x.s1Root) with
    | .ok (e1, level) =>
      match x.s2walk p (entryAddr e1 + va % levelSize level) walkLevels x.s2root with
      | (cs, some _) => some (s.s1reads u p va walkLevels (entryAddr x.s1Root) ++ cs)
      | _ => none
    | .error _ => none

/-- A walk starts, if one of its unit's 32 places is free; one that ends in a fault leaves nothing to hold (R352). -/
def State.runWalk (s : State) (k : Nat) (w : Walk) : State :=
  if 32 ≤ (s.tr.walks.filter (fun q => q.2.unit == w.unit && q.2.running)).length then s
  else
    let x := s.xlat w.polder
    match s.formed w.unit w.polder w.dws w.va with
    | none => { s with tr := { s.tr with walks := Map.erase s.tr.walks k } }
    | some cs =>
      let w := { w with running := true, gen := x.gen, gen2 := x.gen2, reads := cs.eraseDups }
      ({ s with tr := { s.tr with walks := Map.insert s.tr.walks k w } }.count (instCd w.unit) 0x0600 1).soon (.walkComplete k)
/-- A unit runs at most 32 walks at once; further requests queue in arrival order (R352). -/
def State.runWalks (s : State) (u : Nat) : State :=
  (s.tr.walks.filter (fun q => q.2.unit == u && !q.2.running)).foldl (fun s q => s.runWalk q.1 q.2) s

/-- An access to a page that the unit does not hold makes it walk. -/
def State.startWalk (s : State) (p u : Nat) (who : Requester) (dws : Bool) (va : Nat) : State :=
  let page := if dws then va / 65536 else va / 4096
  let held := (Map.get s.tr.tlb [] u).any (fun c => c.polder == p && (if dws && decide (windowPage ≤ page) then
    c.stage == 4 && some c.page == (s.xlat p).allocFrame page else c.stage == (if dws then 3 else 1) && c.has page))
  let same := fun (w : Walk) => w.unit == u && w.polder == p && w.dws == dws && (if w.dws then w.va / 65536 else w.va / 4096) == page
  if held || s.tr.walks.any (fun q => same q.2) then s
  else
    let (k, s) := s.key
    let w : Walk := { unit := u, polder := p, who := who, dws := dws, va := va, running := false, gen := 0, gen2 := 0, reads := [] }
    { s with tr := { s.tr with walks := Map.insert s.tr.walks k w } }.runWalks u

end Sys2Proof.Machine
end

