-- ==== Sys2Proof/Machine/Region.lean ====
section
/-! DEFINITION. What a lane reaches: the bytes of shared memory, of the DWS (by intermediate address) and of the spill stack,
the region store buffer that holds its stores (R57), the regions of R56, and the conflict detector of R74. -/

namespace Sys2Proof.Machine

/-! ### Bytes of the three spaces: 0 shared, 1 DWS (intermediate address), 2 spill stack -/

/-- A byte as memory holds it. -/
def State.spaceByte (s : State) (g space a : Nat) : Byte :=
  match space with
  | 0 => Map.get (s.block (s.group g).blk).shared 0 a
  | 1 =>
    match s.dwsHome (s.polderOf g) a with
    | some k => (s.readAt k 1).headD 0
    | none => 0
  | _ => Map.get (s.group g).spill 0 a

/-- Write one byte. -/
def State.putSpaceByte (s : State) (g space a : Nat) (b : Byte) : State :=
  match space with
  | 0 => s.modBlock (s.group g).blk (fun x => { x with shared := Map.put x.shared 0 a b })
  | 1 =>
    match s.dwsHome (s.polderOf g) a with
    | some k => s.writeAt k [b]
    | none => s
  | _ => s.modGroup g (fun x => { x with spill := Map.put x.spill 0 a b })

/-- Write bytes. -/
def State.putSpace (s : State) (g space a : Nat) (bs : List Byte) : State :=
  bs.zipIdx.foldl (fun s (p : Byte × Nat) => s.putSpaceByte g space (a + p.2) p.1) s

/-- Whether a range holds poison (R376). -/
def State.spacePoison (s : State) (g space a n : Nat) : Bool :=
  match space with
  | 0 => (unitsOf a n 8).any (NatSet.mem (s.block (s.group g).blk).poison)
  | 1 =>
    (unitsOf a n 8).any (fun u =>
      match s.dwsHome (s.polderOf g) (8 * u) with
      | some k => s.poisonAt k 8
      | none => false)
  | _ => (unitsOf a n 8).any (NatSet.mem (s.group g).poisonS)

/-- A store that covers whole 64-bit words clears their poison (R424). -/
def State.cleanSpace (s : State) (g space a n : Nat) : State :=
  (wholeUnits a n 8).foldl (fun s u =>
    match space with
    | 0 => s.modBlock (s.group g).blk (fun x => { x with poison := NatSet.del x.poison u })
    | 1 =>
      match s.dwsHome (s.polderOf g) (8 * u) with
      | some k => s.cleanAt k 8
      | none => s
    | _ => s.modGroup g (fun x => { x with poisonS := NatSet.del x.poisonS u })) s

/-- A store performed at the memory. -/
def State.storeSpace (s : State) (g space a : Nat) (bs : List Byte) : State :=
  (s.putSpace g space a bs).cleanSpace g space a bs.length

/-! ### The region store buffer (R57) -/

/-- The byte that a lane itself has buffered. -/
def Group.buffered (x : Group) (l space a : Nat) : Option Byte :=
  (x.buf.find? (fun b => b.space == space && b.addr == a && b.lane == l)).map (·.value)

/-- A byte as a lane sees it: its own buffered byte, or memory (R57, R197). -/
def State.laneByte (s : State) (g l space a : Nat) : Byte :=
  match (s.group g).buffered l space a with
  | some b => b
  | none => s.spaceByte g space a
/-- Bytes as a lane sees them. -/
def State.laneBytes (s : State) (g l space a n : Nat) : List Byte := (List.range n).map (fun i => s.laneByte g l space (a + i))

/-- Buffer a byte that a lane stores, with the page and generation of its translation (R57, R354); a higher lane of the same instruction
may store it too (R37). -/
def Group.bufferStore (x : Group) (l space a : Nat) (v : Byte) (page gen : Nat) (under : Bool) : Group :=
  { x with buf := x.buf.filter (fun b => !(b.space == space && b.addr == a && b.lane == l)) ++
      [{ space := space, addr := a, lane := l, value := v, page := page, gen := gen, under := under }] }

/-- The 128-byte lines that a group's buffered bytes take (R57). -/
def Group.bufLines (x : Group) : List (Nat × Nat) := (x.buf.map (fun b => (b.space, b.addr / 128))).eraseDups

/-- Commit the buffered stores of a lane (R56). -/
def State.commit (s : State) (g l : Nat) : State :=
  if !(s.group g).buf.any (fun b => b.lane == l) then s else
  let mine := (s.group g).buf.filter (fun b => b.lane == l && !b.under)
  let s := s.modGroup g (fun x => { x with buf := x.buf.filter (fun b => b.lane != l) })
  let s := mine.foldl (fun s b => s.putSpaceByte g b.space b.addr b.value) s
  let whole := mine.filter (fun b => decide (b.addr % 8 = 0) &&
    (List.range 8).all (fun i => mine.any (fun c => c.space == b.space && c.addr == b.addr + i)))
  whole.foldl (fun s b => s.cleanSpace g b.space b.addr 8) s
/-- Commit the lanes of a mask in increasing lane order. -/
def State.commitLanes (s : State) (g : Nat) (m : LaneMask) : State := (lanesOf m).foldl (fun s l => s.commit g l) s
/-- Drop the buffered stores of a lane (R59, R260). -/
def Group.dropBuf (x : Group) (l : Nat) : Group := { x with buf := x.buf.filter (fun b => b.lane != l) }

/-- A lane with its restart PC, and with it `bsc`, set (R56, R168). -/
def Lane.restartAt (y : Lane) (pc : Word) : Lane := { y with restart := pc, restartBsc := y.bsc }

/-- End the region of every lane of a group that holds buffered stores: they commit, and the restart PC becomes the lane's
current PC (R57). -/
def State.endBuffered (s : State) (g : Nat) : State :=
  let m := maskOf (fun l => (s.group g).buf.any (fun b => b.lane == l))
  if m = 0 then s
  else ((s.commitLanes g m).modLanes g m (fun _ y => y.restartAt y.pc)).count (s.group g).part 0x0105 1

/-- The lines that a partition's store buffer holds. -/
def State.partLines (s : State) (part : Nat) : Nat :=
  ((s.work.groups.filter (fun q => q.2.part == part)).map (fun q => q.2.bufLines.length)).sum

/-- Make room for the lines of a store (R57): with too few lines free for it, the regions of the group's storing lanes end, and when that
frees too few, those of the whole partition (log 141). -/
def State.bufferRoom (s : State) (g : Nat) (lines : List (Nat × Nat)) : State :=
  let need := (lines.filter (fun q => !(s.group g).bufLines.contains q)).length
  if need = 0 ∨ s.partLines (s.group g).part + need ≤ 64 then s
  else
    let s := s.endBuffered g
    if s.partLines (s.group g).part + lines.length ≤ 64 then s
    else (s.work.groups.filter (fun q => q.2.part == (s.group g).part)).foldl (fun s q => s.endBuffered q.1) s

/-! ### The conflict detector (R72 to R77) -/

/-- What the detector names a byte of a space by: the block for shared memory, the polder for the DWS. -/
def State.detKey (s : State) (g space : Nat) : Nat := if space = 0 then (s.group g).blk else s.polderOf g

/-- Two accesses to one byte conflict (R72). -/
def Access.clash (d : Access) (who : Accessor) (write atom : Bool) : Bool :=
  d.who != who && (d.write || write) && !(d.atom && atom) &&
  (match d.who, who with
   | .copy _, .copy _ => false
   | _, _ => true)

/-- The first byte of a range that conflicts with an access of another open region (R74, R75). -/
def State.conflict (s : State) (who : Accessor) (space key a n : Nat) (write atom : Bool) : Option Nat :=
  (List.range n).find? (fun i => s.mems.det.any (fun d =>
    d.space == space && d.blk == key && d.addr == a + i && d.clash who write atom)) |>.map (a + ·)

/-- Record the bytes of an access in its open region (R74). -/
def State.recordBy (s : State) (who : Accessor) (space key a n : Nat) (write atom : Bool) (chunk : Nat → Nat) : State :=
  let new := (List.range n).map (fun i =>
    ({ who := who, space := space, blk := key, addr := a + i, write := write, atom := atom, chunk := chunk i } : Access))
  { s with mems := { s.mems with det := s.mems.det ++ new.filter (fun d => !s.mems.det.contains d) } }

/-- Record a lane's access. -/
def State.record (s : State) (who : Accessor) (space key a n : Nat) (write atom : Bool) : State :=
  s.recordBy who space key a n write atom (fun _ => 0)
/-- An acquire has read bytes of a block's shared memory: what the chunks whose chunk-map bits it saw set have read and written is ordered
before what follows (R79). A lane that did not wait is then not reported either (log 147). -/
def State.ackChunks (s : State) (blk : Nat) (bs : List (Nat × Byte)) : State :=
  let seen := fun (c : Copy) (k : Nat) =>
    let o := bitsOf c.w3 0 32
    c.blk == blk && c.w0.getLsbD 17 && bs.any (fun b => b.1 == o + k / 8 && b.2.getLsbD (k % 8))
  { s with mems := { s.mems with det := s.mems.det.filter (fun d => match d.who with
      | .copy ck => d.chunk == 0 || !(Map.find? s.cp.copy ck).any (fun c => seen c (d.chunk - 1))
      | .lane .. => true) } }

/-- Close an open region (R73, R77). -/
def State.closeRegion (s : State) (who : Accessor) : State :=
  { s with mems := { s.mems with det := s.mems.det.filter (fun d => d.who != who) } }
/-- Close the regions of the lanes of a mask: a synchronising instruction (R66, R73). -/
def State.sync (s : State) (g : Nat) (m : LaneMask) : State := (lanesOf m).foldl (fun s l => s.closeRegion (.lane g l)) s

/-- A forced boundary for the lanes of a mask: their buffered stores commit and their restart PC becomes the instruction
after it (R56, R58). -/
def State.boundary (s : State) (g : Nat) (m : LaneMask) : State :=
  (s.commitLanes g m).modLanes g m (fun _ y => y.restartAt (nextPc y.pc))
/-- A forced boundary that may hold its lanes: while the wait lasts the restart PC is the waiting instruction (R56). -/
def State.waitBoundary (s : State) (g : Nat) (m : LaneMask) : State :=
  (s.commitLanes g m).modLanes g m (fun _ y => y.restartAt y.pc)

end Sys2Proof.Machine
end

