-- ==== Sys2Proof/Machine/Waits.lean ====
section
/-! DEFINITION. Lanes that wait: the instruction that holds them, when its condition holds, and what its completion does.
Barriers (R204 to R209), rejoin masks (R51, R52), tags and chunk maps (R210 to R212), rings being unbound (R216), child
slots (R253), predecessors (R264), tiles and register writes (R241 to R243) and mailboxes (R272, R274). -/

namespace Sys2Proof.Machine

/-! ### Entering and leaving a wait -/

/-- The instructions that issue again when their wait ends (R81, R232). -/
def reissues : Instr → Bool
  | .mma .. | .mmaBatch .. | .accPut .. | .accGet .. | .accZero .. => true
  | _ => false

/-- Place the lanes of a mask in a wait state for an instruction, with the operand values it read (R255), and with them the helper
lanes of the bundle that skip it (R17, log 143). While a forced boundary waits, the restart PC is the waiting instruction (R56). With
`lf` = 1 its completion flag stays set (R133). -/
def State.hold (s : State) (g : Nat) (m : LaneMask) (w : WaitState) (i : Instr) (ops : List Word) : Nat × State :=
  let (id, s) := s.fresh
  let all := if skipsHelpers i then m ||| s.ag.cur.lanes else m
  let pc := (s.lane g ((lanesOf m).headD 0)).pc
  let ps := match hdrOf i with
    | some h => if h.lf then [{ id := id, flag := s.flagOf h, lanes := m, writes := [] }] else []
    | none => []
  (id, s.modGroup g (fun x =>
    { x.modLanes all (fun _ y =>
        { (if isBoundary i then y.restartAt y.pc else y) with wait := w, waitId := id, passed := 0 }) with
      pending := x.pending ++ ps,
      waits := x.waits ++ [{ id := id, instr := i, lanes := all, pc := pc, ops := ops, due := false }] }))

/-- A lane whose wait is over goes on at the next instruction, where the region that a forced boundary has ended starts; a
stopped lane will go on when it is resumed (R56, R258). -/
def Lane.unwait (y : Lane) (boundary : Bool) : Lane :=
  let y := { y with pc := nextPc y.pc, entry := if pcSlot y.pc < 4 then y.entry else .fall, waitId := 0 }
  let y := if boundary then y.restartAt y.pc else y
  if y.wait = .stopped then { y with remembered := .running, met := true } else Lane.settle { y with wait := .running }

/-- The lanes of a wait that are still in it. -/
def Group.inWait (x : Group) (id : Nat) (m : LaneMask) : LaneMask :=
  m &&& maskOf (fun l => !(x.lane l).left && (x.lane l).waitId == id)

/-- Waits that no lane is in are over, and with them the flags of instructions that have nothing to write. -/
def Group.dropWaits (x : Group) : Group :=
  let spent := (x.waits.filter (fun w => decide (w.lanes = 0))).map (·.id)
  { x with waits := x.waits.filter (fun w => decide (w.lanes ≠ 0)),
           pending := x.pending.filter (fun p => !(spent.contains p.id && p.writes.isEmpty)) }

/-- End a wait for some of its lanes. -/
def State.release (s : State) (g : Nat) (id : Nat) (m : LaneMask) : State :=
  s.modGroup g (fun x =>
    let m := x.inWait id m
    let b := x.waits.any (fun w => w.id == id && isBoundary w.instr)
    Group.dropWaits { x.modLanes m (fun _ y => y.unwait b) with
      waits := x.waits.map (fun w => if w.id == id then { w with lanes := w.lanes &&& ~~~m } else w) })

/-- Take the lanes of a mask out of whatever they wait for, leaving them where they are (R234, R260, R267). -/
def State.abandon (s : State) (g : Nat) (m : LaneMask) : State :=
  s.modGroup g (fun x =>
    Group.dropWaits { x.modLanes m (fun _ y => { y with waitId := 0 }) with
      waits := x.waits.map (fun w => { w with lanes := w.lanes &&& ~~~m }) })

/-! ### Barriers -/

/-- A barrier as a group sees it: bar0 to bar15 of its block, bar16 to bar31 of its cluster (R205). -/
def State.bar (s : State) (blk n : Nat) : Barrier :=
  if n < 16 then Map.get (s.block blk).bars Barrier.fresh n
  else Map.get (s.cluster (s.block blk).cluster).bars Barrier.fresh n
/-- Replace a barrier. -/
def State.setBar (s : State) (blk n : Nat) (b : Barrier) : State :=
  if n < 16 then s.modBlock blk (fun x => { x with bars := Map.insert x.bars n b })
  else s.modCluster (s.block blk).cluster (fun c => { c with bars := Map.insert c.bars n b })
/-- The groups that a barrier serves. -/
def State.barGroups (s : State) (blk n : Nat) : List Nat :=
  if n < 16 then (s.block blk).groups
  else (s.cluster (s.block blk).cluster).blocks.flatMap (fun b => (s.block b).groups)
/-- Complete the phase of a barrier whose count has reached its expected count (R204); one lowered to 0 becomes
uninitialised (R208). -/
def Barrier.check (b : Barrier) : Barrier :=
  if b.init && decide (b.expected ≤ b.count) then
    { b with phase := b.phase + 1, count := 0, lanesArr := [], groupArr := [], init := decide (b.expected ≠ 0) }
  else b
/-- The phase P has passed (R209). -/
def Barrier.passed (b : Barrier) (p : Word) : Bool :=
  let d := (b.phase - p.setWidth 16).toNat
  decide (1 ≤ d) && decide (d ≤ 32767)

/-! ### Conditions -/

/-- The copies that a ring carries and that have not completed (R216). -/
def State.ringBusy (s : State) (core slot : Nat) : Bool :=
  s.cp.copy.any (fun q => q.2.core == core && q.2.ring == slot && !q.2.complete)
/-- A 64-bit word of a block's shared memory. -/
def State.sharedWord (s : State) (blk a : Nat) : Word := wordOf (Mem.read (s.block blk).shared a 8)
/-- A ring has published entries to fetch; a CHAIN whose second entry is not published is not one (R215). -/
def State.owes (s : State) (r : Ring) : Bool :=
  !r.halted && decide (r.next < r.prod) &&
  !(decide (r.next + 1 = r.prod) && decide ((s.sharedWord r.blk (r.base + 64 + 32 * (r.next % r.n))).toNat % 16 = 5))
/-- The windows that a lane holds open on a tile (R240). -/
def Group.openOn (x : Group) (t : Option Nat) (l : Option Nat) : Bool :=
  x.windows.any (fun w => t.all (fun t => w.tile == t) && l.all (fun l => w.lane == l) && decide (w.round ≠ 0))
/-- The control core of a control group (R408). -/
def Group.ctl (x : Group) : Nat := x.part - 1024
/-- The messages of a box. -/
def State.box (s : State) (core box : Nat) : List Msg := Map.get s.ctl.boxes [] (4 * core + box)
/-- Whether a control core takes messages of a box: the active complex takes none of boxes 0 and 3 between the acceptance of its successor's
table and the takeover (R410). -/
def State.takes (s : State) (core box : Nat) : Bool :=
  !(s.ctl.updating && s.ctl.mirrored.isSome && (box == 0 || box == 3) && core / 2 == s.ctl.active)
/-- The destination of a message sent by a control core: box 1 and box 0 leave the complex, box 2 goes to the peer core. -/
def peerCore (core : Nat) : Nat := if core < 2 then core + 2 else core - 2

/-- Whether the condition of a wait holds for a lane. -/
def State.ready (s : State) (g : Nat) (w : GWait) (l : Nat) : Bool :=
  let x := s.group g
  let op := fun k => w.ops.getD k 0
  match w.instr with
  | .barWait _ n _ => (s.bar x.blk n.toNat).passed (op 0)
  | .tagWaitany _ _ _ _ => decide ((s.block x.blk).tags &&& op 0 ≠ 0)
  | .tagWaitall _ _ _ _ => decide ((s.block x.blk).tags &&& op 0 = op 0)
  | .cmapWait _ _ _ _ => decide (s.sharedWord x.blk (op 0).toNat &&& op 1 = op 1)
  | .ringUnbind _ _ _ => decide (w.ops.length = 2) || (!s.ringBusy x.core (op 0).toNat &&
      (match Map.find? s.cores.rings (16 * x.core + (op 0).toNat) with
       | some r => !s.owes r
       | none => true))
  | .spawnWait _ _ _ => decide ((s.cluster (s.block x.blk).cluster).children &&& op 0 = 0)
  | .preWait _ _ => (s.launch (s.block x.blk).launch).pred.isNone
  | .mwait _ t => !x.openOn (some t.toNat) (some l)
  | .mwaitAll _ => !x.openOn none (some l)
  | .accPut _ _ _ _ | .accGet _ _ _ _ | .accZero _ _ _ =>
    x.windows.all (fun q => !((w.ops.take ((op 0).toNat + 1)).drop 1).contains (BitVec.ofNat 64 q.round))
  | .mfence _ => x.pending.all (fun p => !(p.lanes.getLsbD l && w.ops.contains (BitVec.ofNat 64 p.id))) &&
      x.score.all (fun q => decide (q.at_ ≤ s.ag.cycle) || !q.by_.getLsbD l)
  | .halt _ => (List.range 4).any (fun b => !(s.box x.ctl b).isEmpty)
  | .mboxRecv _ _ _ _ box => !(s.box x.ctl box.toNat).isEmpty && s.takes x.ctl box.toNat
  | .mboxSend _ _ _ _ _ => decide ((s.box (peerCore x.ctl) 2).length < 16)
  | _ => false

/-! ### Completions -/

/-- Tile entry (r, c) as lane l's register j of the image (R243). -/
def tileKey (t l j : Nat) : Nat := 256 * t + 16 * (l / 2) + 8 * (l % 2) + j
/-- The format code of a type in a tile: 1 i32, 2 f64, 3 f32 (R367). -/
def tyFmt : Ty → Nat
  | .i32 => 1 | .f64 => 2 | .f32 => 3 | _ => 0
/-- A value written as a scalar type (R106). -/
def tyClip (t : Ty) (x : Word) : Word := if t.lane32 then (x.setWidth 32).setWidth 64 else x

/-- `acc.put` of lanes of a group (R243). -/
def Group.accPut (x : Group) (t : Ty) (tile : Nat) (m : LaneMask) (get : Nat → Nat → Word) : Group :=
  let ents := (lanesOf m).flatMap (fun l => (List.range 8).map (fun j => (tileKey tile l j, tyClip t (get j l))))
  { x with tile := ents.foldl (fun tl (q : Nat × Word) => Map.put tl 0 q.1 q.2) x.tile,
           tileFmt := Map.put x.tileFmt 0 tile (tyFmt t),
           poisonT := ents.foldl (fun ps (q : Nat × Word) => NatSet.del ps q.1) x.poisonT }
/-- `acc.zero` (R243). -/
def Group.accZero (x : Group) (t : Ty) (tile : Nat) : Group :=
  { x with tile := (List.range 256).foldl (fun tl k => Map.erase tl (256 * tile + k)) x.tile,
           tileFmt := Map.put x.tileFmt 0 tile (tyFmt t),
           poisonT := (List.range 256).foldl (fun ps k => NatSet.del ps (256 * tile + k)) x.poisonT }

/-- Close the windows of a lane on a tile once its operations have completed (R240, R242). -/
def Group.closeWindows (x : Group) (t : Option Nat) (l : Nat) : Group :=
  { x with windows := x.windows.filter (fun w => !(w.lane == l && t.all (fun t => w.tile == t) && w.round == 0)) }

/-- The header of a message (R273). -/
def msgHeader (m : Msg) (box : Nat) : Word :=
  BitVec.ofNat 64 (m.seq % 65536 * 2 ^ 32 + m.fn % 65536 * 2 ^ 16 + box * 2 ^ 8 + m.length % 256)
/-- The payload words of a message; bytes at and beyond its length read as zero (R274). -/
def msgWord (m : Msg) (i : Nat) : Word :=
  let n := m.length - 8 * i
  let x := m.words.getD i 0
  if 8 ≤ n then x else BitVec.ofNat 64 (x.toNat % 256 ^ n)

/-- Messages that found a box full enter it in order as it gets room (R274). -/
def State.refill (s : State) (core box : Nat) : State :=
  let k := 4 * core + box
  match Map.get s.ctl.waiting [] k with
  | m :: ms =>
    if (s.box core box).length < 16 then
      { s with ctl := { s.ctl with boxes := Map.insert s.ctl.boxes k (s.box core box ++ [m]),
                                   waiting := Map.insert s.ctl.waiting k ms } }
    else s
  | [] => s

/-- Put a message into a control core's box; it is given the box's sequence number, and waits when the box is full
(R273, R274). -/
def State.enter (s : State) (core box : Nat) (m : Msg) : State :=
  let k := 4 * core + box
  let q := Map.get s.ctl.seqs 0 k
  let m := { m with seq := q % 65536 }
  let s := { s with ctl := { s.ctl with seqs := Map.insert s.ctl.seqs k (q + 1) } }
  if (s.box core box).length < 16 then
    { s with ctl := { s.ctl with boxes := Map.insert s.ctl.boxes k (s.box core box ++ [m]) } }
  else { s with ctl := { s.ctl with waiting := Map.insert s.ctl.waiting k (Map.get s.ctl.waiting [] k ++ [m]) } }

/-- The results of `mbox.recv` (R274) and the box without its oldest message. -/
def State.takeMsg (s : State) (core box d k : Nat) : Res × State :=
  match s.box core box with
  | m :: ms =>
    let s := { s with ctl := { s.ctl with boxes := Map.insert s.ctl.boxes (4 * core + box) ms } }
    ({ s := (d, msgHeader m box) :: (List.range 8).map (fun i => (k + i, msgWord m i)) },
     (s.refill core box).next (.resultWriteback (peerCore core + 1) 0))
  | [] => ({}, s)

/-- The other waits for the unbinding of a ring that a block has bound get its final C too (R216). -/
def State.tellUnbound (s : State) (blk : Nat) (k c : Word) : State :=
  (s.block blk).groups.foldl (fun s g => s.modGroup g (fun x =>
    { x with waits := x.waits.map (fun w => match w.instr with
        | .ringUnbind _ _ _ => if w.ops = [k] then { w with ops := [k, c] } else w
        | _ => w) })) s

/-- The effect of a completed wait, once for the lanes released, and the registers it writes (R204 to R274). -/
def State.complete (s : State) (g : Nat) (w : GWait) (m : LaneMask) : State × Res :=
  let x := s.group g
  let op := fun k => w.ops.getD k 0
  let out := fun (d : BitVec 8) (v : Word) => ({ s := [(d.toNat, v)] } : Res)
  match w.instr with
  | .barWait _ _ _ => (s.sync g m, {})
  | .tagWaitany _ clr d _ =>
    let hit := (s.block x.blk).tags &&& op 0
    let s := s.sync g m
    (if clr then s.modBlock x.blk (fun b => { b with tags := b.tags &&& ~~~hit }) else s, out d hit)
  | .tagWaitall _ clr d _ =>
    let s := s.sync g m
    (if clr then s.modBlock x.blk (fun b => { b with tags := b.tags &&& ~~~(op 0) }) else s, out d (op 0))
  | .cmapWait _ d _ _ =>
    ((s.sync g m).ackChunks x.blk ((List.range 8).map (fun i => ((op 0).toNat + i, (op 1).extractLsb' (8 * i) 8))), out d (op 1))
  | .ringUnbind _ d _ =>
    let k := 16 * x.core + (op 0).toNat
    match Map.find? s.cores.rings k with
    | some r =>
      if w.ops.length = 2 then (s, out d (op 1))
      else
        let c := BitVec.ofNat 64 (r.cons + if r.halted then 2 ^ 63 else 0)
        ({ s with cores := { s.cores with rings := Map.erase s.cores.rings k } }.tellUnbound r.blk (op 0) c, out d c)
    | none => (s, out d (op 1))
  | .spawnWait _ d _ => (s, out d 0)
  | .preWait _ d => (s.sync g m, out d (BitVec.ofNat 64 (s.launch (s.block x.blk).launch).predStat))
  | .mwait _ t => (s.modGroup g (fun x => (lanesOf m).foldl (fun x l => x.closeWindows (some t.toNat) l) x), {})
  | .mwaitAll _ => (s.modGroup g (fun x => (lanesOf m).foldl (fun x l => x.closeWindows none l) x), {})
  | .mboxRecv _ _ d k box =>
    let (r, s) := s.takeMsg x.ctl box.toNat d.toNat k.toNat
    (s, r)
  | .mboxSend _ _ d _ _ =>
    let m : Msg := { seq := 0, fn := bitsOf (op 0) 16 16, length := (op 0).toNat % 256, words := w.ops.drop 1 }
    ((s.enter (peerCore x.ctl) 2 m).next (.resultWriteback (peerCore x.ctl + 1) 0), out d 0)
  | _ => (s, {})

/-- The results of a completed wait are given to their registers after a latency: at once with `lf` = 0, with their scoreboard
entry; with `lf` = 1 through the pending result that holds the flag, which lands once every lane has completed (R133). -/
def State.giveWait (s : State) (g : Nat) (w : GWait) (m : LaneMask) (lat : Nat) (r : Res) : State :=
  match (s.group g).pending.find? (fun p => p.id == w.id) with
  | some _ =>
    let ws := r.writes m
    let s := s.modGroup g (fun x => { x with pending := x.pending.map (fun p =>
      if p.id == w.id then { p with writes := p.writes ++ ws } else p) })
    if (s.group g).inWait w.id w.lanes &&& ~~~m = 0 && !ws.isEmpty then
      (if lat = 0 then s.next (.resultWriteback g w.id) else s.after lat (.resultWriteback g w.id)) else s
  | none => s.modGroup g (fun x => { (x.applyRes m r).race (r.writes m) with score := x.score ++ r.scores x m (s.ag.cycle + lat) })

/-- Lanes whose instruction is to issue again do so in this clock, before the schedulers pick, with the operands that it read at
its issue; a stopped lane will do so when it is resumed (R232, R244). -/
def State.rerun (s : State) (g : Nat) (w : GWait) (m : LaneMask) : State :=
  let live := m &&& maskOf (fun l => (s.lane g l).wait = .matrix && !(s.lane g l).frozen)
  let s := s.modLanes g m (fun _ y => if y.wait = .stopped then { y with remembered := .running } else { y with wait := .running })
  let s := s.abandon g m
  if live = 0 then s
  else
    let b : Bundle := { grp := g, pc := w.pc, lanes := live, second := false, flagA := 15, flagB := 15, ops := some w.ops }
    { s with ag := { s.ag with todo := .issue b :: s.ag.todo } }

/-- The lanes of a wait whose condition holds. -/
def State.readyIn (s : State) (g : Nat) (w : GWait) : LaneMask :=
  (s.group g).inWait w.id (w.lanes &&& maskOf (fun l => s.ready g w l))

/-- Complete a wait for the lanes whose condition holds; its results come after a latency. -/
def State.wake1 (s : State) (g : Nat) (w : GWait) (lat : Nat) : State :=
  let m := s.readyIn g w
  if m = 0 then s
  else if reissues w.instr then s.rerun g w m
  else
    let (s, r) := s.complete g w m
    (s.giveWait g w m lat r).release g w.id m

/-- The condition of a wait holds for some of its lanes: it completes, at once or after the cycles that its instruction takes from
then on (R226, R247, R275). -/
def State.wakeSoon (s : State) (g : Nat) (w : GWait) : State :=
  if s.readyIn g w = 0 ∨ w.due then s
  else if afterHolds w.instr = 0 then s.wake1 g w 0
  else
    (s.modGroup g (fun x => { x with waits := x.waits.map (fun q => if q.id == w.id then { q with due := true } else q) })).after
      (afterHolds w.instr) (.resultWriteback g w.id)

/-- The completion of a wait that is under way: its lanes go on if the condition still holds, with their results, and wait on
if it does not (R210). -/
def State.wakeDue (s : State) (g : Nat) (w : GWait) : State :=
  (s.modGroup g (fun x => { x with waits := x.waits.map (fun q => if q.id == w.id then { q with due := false } else q) })).wake1 g w 0

/-- Complete every wait of a group whose condition holds. -/
def State.wake (s : State) (g : Nat) : State := (s.group g).waits.foldl (fun s w => s.wakeSoon g w) s
/-- The same for several groups. -/
def State.wakeAll (s : State) (gs : List Nat) : State := gs.foldl State.wake s

/-- Check a barrier after its count or expected count changed, and release its waiters when the phase completes (R204). -/
def State.checkBar (s : State) (blk n : Nat) : State :=
  let b := s.bar blk n
  if b.check = b then s else (s.setBar blk n b.check).wakeAll (s.barGroups blk n)

/-- A rejoin mask is complete when every lane whose bit is set waits at a `join.wait` naming it; its waiters are then
released in one clock and the mask becomes zero (R52). -/
def State.rejoin (s : State) (g jn : Nat) : State :=
  let x := s.group g
  let m := x.getJ jn
  let at_ := maskOf (fun l => x.waits.any (fun w => w.lanes.getLsbD l &&
    (match w.instr with
     | .joinWait _ n => n.toNat == jn
     | _ => false)))
  if m ≠ 0 ∧ m &&& ~~~at_ = 0 then
    let s := s.modGroup g (fun x => x.putJ jn 0)
    x.waits.foldl (fun s w =>
      match w.instr with
      | .joinWait _ n => if n.toNat == jn then (s.sync g w.lanes).release g w.id w.lanes else s
      | _ => s) s
  else s
/-- Test every rejoin mask of a group. -/
def State.rejoinAll (s : State) (g : Nat) : State := (List.range 16).foldl (fun s j => s.rejoin g j) s

end Sys2Proof.Machine
end

