-- ==== Sys2Proof/Machine/Ops.lean ====
section
/-! DEFINITION. The operations that every instruction shares: taking a trap and returning from one (R363 to R365, R270),
consuming poison (R267, R376 to R378), and performing an instruction for its executing set (R137, R142). -/

namespace Sys2Proof.Machine

/-- The trap causes (R363), in the order of their codes from 1. -/
inductive Cause where
  | illegalOpcode | illegalEncoding | illegalLine | illegalTarget | priv | bounds | align | formatDivergence | tileFormat
  | mmConflict | poison | dwsUnserviceable | software | breakpoint | spawnDepth
  deriving DecidableEq, Repr

/-- The code of a cause. -/
def Cause.code : Cause → Nat
  | .illegalOpcode => 1 | .illegalEncoding => 2 | .illegalLine => 3 | .illegalTarget => 4 | .priv => 5 | .bounds => 6
  | .align => 7 | .formatDivergence => 8 | .tileFormat => 9 | .mmConflict => 10 | .poison => 11 | .dwsUnserviceable => 12
  | .software => 13 | .breakpoint => 14 | .spawnDepth => 15

/-- The mask of one lane. -/
def bit1 (l : Nat) : LaneMask := BitVec.ofNat 32 (2 ^ l)

/-! ### Taking a trap (R363 to R365) -/

/-- Whether a debugger attachment holds traps of a cause (R365). -/
def State.holdsTrap (s : State) (g code : Nat) : Bool :=
  (s.launch (s.launchOf g)).attach &&
  (match s.polder? (s.polderOf g) with
   | some p => p.attach.any (fun a => a.1.getLsbD code)
   | none => false)

/-- A lane whose trap is unhandled: it issues nothing more and shows TRAPPED until the instant (R365). -/
def State.unhandled (s : State) (g l : Nat) (code : Nat) : State :=
  let s := s.modLane g l (fun y => { y.restartAt y.pc with wait := .trapped, stepping := false, heldTrap := false, brkDone := false })
  if (s.group g).system then s else s.soon (.unhandledTrapInstant (s.launchOf g) code)

/-- A lane asked to stop at its next forced boundary has performed one: it stops before anything else of the clock (R60). -/
def State.stopAtBoundary (s : State) (g : Nat) (m : LaneMask) : State :=
  let ls := (lanesOf m).filter (fun l => (s.lane g l).stopAsked)
  { s with ag := { s.ag with todo := ls.map (fun l => Todo.run (.preemptLaneStop g l)) ++ s.ag.todo } }

/-- Delivery of a trap whose registers are written (R364). -/
def State.deliver (s : State) (g l : Nat) (code : Nat) : State :=
  match (s.launch (s.launchOf g)).kernel.handler, (s.lane g l).inHandler with
  | some h, false =>
    s.modLane g l (fun y =>
      { { y with pc := h }.restartAt h with
        inHandler := true, entry := .handler code, heldTrap := false, brkDone := false, met := false, stepping := false, remembered := .running,
        wait := if y.wait = .stopped ∨ y.stepping then .stopped else .running })
  | _, _ => s.unhandled g l code

/-- A tagged instruction's pennant notes that a lane of it trapped (R437). -/
def State.pennTrap (s : State) (g l : Nat) : State :=
  { s with tele := { s.tele with penns := s.tele.penns.map (fun (q : Penn) =>
      if q.grp == g && q.pc == (s.lane g l).pc then { q with trapM := q.trapM ||| bit1 l } else q) } }

/-- A lane takes a trap at its PC: its wait is abandoned, its buffered stores commit, its detection region closes, the trap
registers are written, and the trap is held, delivered or unhandled. -/
def State.trap (s : State) (g l : Nat) (c : Cause) (addr : Word) : State :=
  let s := ((s.abandon g (bit1 l)).commit g l).closeRegion (.lane g l)
  let s := s.modLane g l (fun y => { y with trapCause := BitVec.ofNat 32 c.code, trapPc := y.pc, trapAddr := addr, retry := 0 })
  let s := s.pennTrap g l
  if s.holdsTrap g c.code then
    (s.modLane g l (fun y => { y.restartAt y.pc with wait := .trapped, heldTrap := true, stepping := false, brkDone := false })).stopAtBoundary
      g (bit1 l)
  else (s.deliver g l c.code).stopAtBoundary g (bit1 l)

/-- Every lane of a mask takes a trap, in increasing lane order. -/
def State.trapAll (s : State) (g : Nat) (m : LaneMask) (c : Cause) (addr : Nat → Word) : State :=
  (lanesOf m).foldl (fun s l => s.trap g l c (addr l)) s

/-! ### Return from a trap (R270, R364) -/

/-- A lane returns to a target formed from `trap.pc`; its `in_handler` bit clears. -/
def State.returnTo (s : State) (g l : Nat) (t : Word) : State :=
  if okPc t then s.modLane g l (fun y => { { y.goto t with inHandler := false } with restart := t, restartBsc := y.bsc })
  else s.trap g l .illegalTarget t

/-! ### Poison (R267, R376 to R378) -/

/-- The results that issued instructions have still to write to one lane land now (R267). -/
def State.landLane (s : State) (x : Group) (l : Nat) : Group :=
  let mine := fun (w : RegWrite) => w.lane == l && (w.cls == .v || w.cls == .p)
  x.pending.foldl (fun x p => s.landWrites x (p.writes.filter mine))
    { x with pending := x.pending.map (fun p => { p with writes := p.writes.filter (fun w => !mine w) }) }

/-- The entry of a dike stack at a depth, counted from 1 at the bottom. -/
def Lane.dikeAt (y : Lane) (d : Nat) : Option DikeEntry := y.dike.reverse[d - 1]?

/-- One lane of a region instance unwinds to the handler of its entry (R267). -/
def State.unwind (s : State) (g l d : Nat) (status : Word) : State :=
  match (s.lane g l).dikeAt d with
  | none => s
  | some e =>
    (s.abandon g (bit1 l)).modGroup g (fun x =>
      ((((s.landLane x l).dropBuf l).putV e.sreg.toNat (bit1 l) (fun _ => status)).dirtyV e.sreg.toNat (bit1 l)).modLane l (fun y =>
        { { y with pc := e.handler }.restartAt e.handler with
          dike := y.dike.drop (y.dike.length + 1 - d), entry := .handler Cause.illegalTarget.code, stepping := false,
          remembered := .running, heldTrap := false, brkDone := false, met := false, retry := 0,
          wait := if y.wait = .trapped ∧ !y.heldTrap then .trapped
                  else if y.wait = .stopped ∨ y.stepping then .stopped else .running }))

/-- The lanes of the region instance that a lane's innermost entry names: those of its block with, at that depth, an entry of
the same `dike.open` (R266). -/
def State.instanceOf (s : State) (g d : Nat) (e : DikeEntry) : List (Nat × Nat) :=
  (s.block (s.group g).blk).groups.flatMap (fun k => (lanesOf (s.group k).present).filterMap (fun l =>
    match (s.lane k l).dikeAt d with
    | some q => if q.openPc = e.openPc then some (k, l) else none
    | none => none))

/-- The error report of a consumption (R425). -/
def State.consumption (s : State) (g rsrc paddr : Nat) : Report :=
  let x := s.group g
  { cls := 2, source := rsrc, cd := x.cd, unit := x.core % 32, polder := if x.system then none else some (s.polderOf g),
    addr := paddr, time := s.ag.clock, launch := (s.launch (s.launchOf g)).id.toNat }

/-- One lane consumes poison: it unwinds the innermost region instance, or is held, or ends its launch. -/
def State.consume1 (s : State) (g l src : Nat) (addr : Word) : State :=
  let y := s.lane g l
  match y.dike with
  | e :: _ =>
    let d := y.dike.length
    let status := BitVec.ofNat 64 (addr.toNat % 2 ^ 48 * 65536 + d * 256 + src)
    (s.instanceOf g d e).foldl (fun s q => s.unwind q.1 q.2 d status) s
  | [] =>
    let s := ((s.abandon g (bit1 l)).commit g l).closeRegion (.lane g l)
    let s := s.modLane g l (fun y => { y.restartAt y.pc with wait := .trapped, stepping := false, brkDone := false })
    let s := s.stopAtBoundary g (bit1 l)
    if s.holdsTrap g Cause.poison.code then
      s.modLane g l (fun y => { y with heldTrap := true, trapCause := BitVec.ofNat 32 Cause.poison.code, trapPc := y.pc,
                                       trapAddr := addr })
    else if (s.group g).system then s
    else s.soon (.poisonConsumedInstant (s.launchOf g))

/-- The lanes of a mask consume poison in one act: a lane that an earlier lane's unwinding has moved does so no more. The
consumption is reported. -/
def State.consume (s : State) (g : Nat) (m : LaneMask) (src rsrc : Nat) (addr : Nat → Word) (paddr : Nat) : State :=
  let s0 := s
  let s := (lanesOf m).foldl (fun s l =>
    if (s.lane g l).dike.length = (s0.lane g l).dike.length then s.consume1 g l src (addr l) else s) s
  s.next (.errorReport (s0.consumption g rsrc paddr))

/-! ### Performing an instruction (R137, R142) -/

/-- The executing set (R137). -/
def State.execSet (s : State) (h : Hdr) (i : Instr) : LaneMask :=
  let x := s.src
  let p := s.getP x h.pr.toNat
  let m := s.ag.cur.lanes &&& (if h.pn then ~~~p else p)
  if skipsHelpers i then m &&& ~~~x.helpers else m

/-- Checks 5 to 7 of R142, which fail in every lane of the executing set together. -/
def State.early (s : State) (h : Hdr) (i : Instr) (x : Group) : Option Cause :=
  if needsSystem i && !x.system then some .priv
  else if !i.wf then some .illegalEncoding
  else if h.lf && decide (s.flagOf h = 15) then some .illegalEncoding
  else if !declared i x then some .illegalEncoding
  else none

/-- Whether an instruction reads a register that holds poison, and the source of its report (R376, R425). -/
def Group.readsPoison (x : Group) (h : Hdr) (i : Instr) (m : LaneMask) : Option Nat :=
  let part := decide (x.present &&& ~~~m ≠ 0)
  if (vReads i).any (NatSet.mem x.poisonV) || (part && (vWrites i).any (NatSet.mem x.poisonV)) then some 1
  else if (sReads i).any (fun r => NatSet.mem x.poisonR (4096 + r)) ||
      (h.pr.toNat :: pReads i).any (fun r => NatSet.mem x.poisonR (8192 + r)) ||
      (jNamed i).any (fun r => NatSet.mem x.poisonR (12288 + r)) ||
      (bReads i).any (fun r => NatSet.mem x.poisonR (16384 + r)) then some 2
  else none

/-- The helper lanes of a bundle that would execute an instruction that helper lanes skip (R17). -/
def State.beside (s : State) (h : Hdr) (i : Instr) : LaneMask :=
  let x := s.src
  let p := s.getP x h.pr.toNat
  if skipsHelpers i then s.ag.cur.lanes &&& (if h.pn then ~~~p else p) &&& x.helpers else 0
/-- Helper lanes that skip an instruction stay with the lanes of their bundle that execute it, and go on when those do, so that they
change nothing by themselves (R17, R312) (log 143): the bundle that is performed is of both, and a wait that it enters holds both. -/
def State.keepBeside (s : State) (i : Instr) (m k : LaneMask) : State :=
  if !skipsHelpers i then s else { s with ag := { s.ag with cur := { s.ag.cur with lanes := m ||| k } } }
/-- Those of them that wait for nothing go on. -/
def State.leaveBeside (s : State) (g : Nat) (k : LaneMask) : State :=
  if k = 0 then s else s.advance g (k &&& maskOf (fun l => decide ((s.lane g l).waitId = 0)))

/-- Perform an instruction for its executing set: the bundle's other lanes only advance; the checks, then poisoned sources,
then a forced boundary, come before the instruction's own effect. -/
def State.performed (s : State) (h : Hdr) (i : Instr) (body : Group → Nat → LaneMask → State → State) : State :=
  let b := s.ag.cur
  let x := s.src
  let m := s.execSet h i
  if m = 0 then s.advance b.grp b.lanes
  else
    let k := s.beside h i
    let s := (s.advance b.grp (b.lanes &&& ~~~(m ||| k))).keepBeside i m k
    match s.early h i x with
    | some c => (s.trapAll b.grp m c (fun _ => 0)).leaveBeside b.grp k
    | none =>
      match x.readsPoison h i m with
      | some rsrc => (s.consume b.grp m 2 rsrc (fun _ => 0) 0).leaveBeside b.grp k
      | none =>
        if isBoundary i then ((body x b.grp m (s.boundary b.grp (m ||| k))).leaveBeside b.grp k).stopAtBoundary b.grp (m ||| k)
        else (body x b.grp m s).leaveBeside b.grp k

/-- An issued instruction may be tagged (R436): when the VF's `pennant_ctl` holds 4 or more and its polder a trace grant, a partition
that follows no other and holds no record tags one at random. -/
def State.tag (s : State) (h : Hdr) (i : Instr) : State :=
  let g := s.ag.cur.grp
  let x := s.group g
  let p := s.polderOf g
  let m := s.execSet h i
  if x.system || m == 0 || (Map.get s.tele.pennCtl 0 (p + 1)).toNat < 4 || !(s.polder? p).any (fun q => q.trace) || (s.part x.part).tagged ||
      !s.choose (2 ^ 30 + 1) then s
  else
    let q : Penn := { part := x.part, grp := g, fn := p + 1, clock := s.ag.clock, pc := s.ag.cur.pc, blkId := (s.block x.blk).id,
                      lid := (s.launch (s.launchOf g)).id, opc := opcOf i, gid := x.gid, lanes := m, trapM := 0,
                      mem := decide (portOf (opcOf i) = .mem) }
    let s := s.setPart x.part { s.part x.part with tagged := true }
    ({ s with tele := { s.tele with penns := s.tele.penns ++ [q] } } : State).soon (.pennantRecord x.part)

/-- The next state of an instruction. -/
def State.perform (s : State) (h : Hdr) (i : Instr) (body : Group → Nat → LaneMask → State → State) :
    Host.Outcome State Fault Refusal :=
  .next ((s.tag h i).performed h i body).bump

/-- An instruction that computes register results and goes on. -/
def State.compute (s : State) (h : Hdr) (i : Instr) (f : State → Group → LaneMask → Res) : Host.Outcome State Fault Refusal :=
  s.perform h i (fun x g m s => (s.give g h m (latency i) (f s x m)).advance g m)

/-- An instruction that does something to the state and goes on; a completion flag it sets clears as it performs (R133). -/
def State.act (s : State) (h : Hdr) (i : Instr) (f : Group → Nat → LaneMask → State → State) : Host.Outcome State Fault Refusal :=
  s.perform h i (fun x g m s => (f x g m s).advance g m)

end Sys2Proof.Machine
end

