-- ==== Sys2Proof/Machine/Rounds.lean ====
section
/-! DEFINITION. Rounds of the matrix engine: when a pending round issues, and when it fails (R232 to R236, R242). -/

namespace Sys2Proof.Machine

/-- Replace a convergence register's declaration. -/
def State.setConv (s : State) (k : Nat) (c : Conv) : State :=
  { s with cores := { s.cores with convs := Map.insert s.cores.convs k c } }

/-- The cycles for which a shape holds the engine per member (R237). -/
def shapeCycles : Ty → Nat
  | .f64 | .f32 => 4 | _ => 2

/-- The accumulator's format of a format word: 1 i32, 2 f64, 3 f32 (R122, R243). -/
def accFormat (w : Word) : Nat := tyFmt (Ty.of (bitsOf w 8 4))

/-- Every declared lane has signed the round or has left its group (R232, R235). -/
def State.allSigned (s : State) (c : Conv) (r : Round) : Bool :=
  c.members.zipIdx.all (fun q => (lanesOf (c.masks.getD q.2 0)).all (fun l =>
    (s.lane q.1 l).left || r.sigs.any (fun e => e.grp == q.1 && e.lane == l)))

/-- The tiles that a round's signers name: a tile keeps the format it has unless the round zeroes it (R233, check 5). -/
def State.formatsFit (s : State) (r : Round) : Bool :=
  r.zacc || r.sigs.all (fun e =>
    let f := Map.get (s.group e.grp).tileFmt 0 e.tile
    decide (f = 0) || decide (f = accFormat r.word))

/-- A round's windows and its unfinished completion flags go (R234, R240, R242). -/
def Group.forget (x : Group) (id : Nat) : Group :=
  { x with windows := x.windows.filter (fun w => w.round != id), pending := x.pending.filter (fun p => p.id != id) }

/-- The lanes of a group that wait in MATRIX at a signing on a convergence register sign the next round at once (R232). -/
def State.signAgain (s : State) (g cn : Nat) : State :=
  (s.group g).waits.foldl (fun s w =>
    let mine := match w.instr with
      | .mma _ f => f.conv.toNat == cn
      | .mmaBatch _ f => f.conv.toNat == cn
      | _ => false
    if mine then s.rerun g w w.lanes else s) s

/-- A round fails: the lanes of the signing bundle trap at their `mma`, the other signers at the instruction they would issue
next, and the round is discarded (R234). -/
def State.failRound (s : State) (k : Nat) (g : Nat) (m : LaneMask) (cause : Cause) : State :=
  match Map.find? s.cores.convs k with
  | none => s
  | some c =>
    match c.round with
    | none => s.trapAll g m cause (fun _ => 0)
    | some r =>
      let s := s.trapAll g m cause (fun _ => 0)
      let s := r.sigs.foldl (fun s e =>
        if (s.lane e.grp e.lane).left || (e.grp == g && m.getLsbD e.lane) then s
        else s.trap e.grp e.lane cause e.pc) s
      let s := s.setConv k { c with round := none }
      let s := c.members.foldl (fun s q => s.modGroup q (fun x => x.forget r.id)) s
      let s := s.count (k / 8) 0x0201 1
      let s := c.members.foldl (fun s q => s.signAgain q (k % 8)) s
      s.wakeAll c.members

/-- The first cycle from t on in which a matrix engine limited to j of every 16 cycles issues (R413). -/
def matSlot (j t : Nat) : Nat := if t % 16 < j then t else (t / 16 + 1) * 16

/-- The pending round of a convergence register issues once every declared lane has signed or left; a tile whose format has changed
since its signing fails it (R232, R233, R236, R238). -/
def State.issueRound (s : State) (k : Nat) : State :=
  match Map.find? s.cores.convs k with
  | none => s
  | some c =>
    match c.round with
    | none => s
    | some r =>
      if !s.allSigned c r then s
      else if !s.formatsFit r then s.failRound k 0 0 .tileFormat
      else
        let p := s.part (k / 8)
        let busy := matSlot s.rel.matLimit (max s.ag.cycle p.busyMat) + c.members.length * shapeCycles r.ty
        let s := (s.setPart (k / 8) { p with busyMat := busy }).count (k / 8) 0x0200 1
        let s := s.count (k / 8) 0x0202 (c.members.length * shapeCycles r.ty)
        let s := r.sigs.foldl (fun s e => s.modGroup e.grp (fun x =>
          { x with tileFmt := Map.put x.tileFmt 0 e.tile (accFormat r.word) })) s
        let op : MatOp := { part := k / 8, members := c.members, masks := c.masks, round := r }
        let s := s.setConv k { c with round := none }
        let s := { s with cores := { s.cores with matOps := Map.insert s.cores.matOps r.id op } }
        let s := s.after (busy + 12 - s.ag.cycle) (.matrixOpComplete r.id)
        c.members.foldl (fun s q => s.signAgain q (k % 8)) s

/-- Test the rounds of every set that a group is a member of. -/
def State.issueRounds (s : State) (g : Nat) : State :=
  s.cores.convs.foldl (fun s q => if q.2.members.contains g then s.issueRound q.1 else s) s

end Sys2Proof.Machine
end

