-- ==== Sys2Proof/Machine/Retire.lean ====
section
/-! DEFINITION. Lanes that leave and what their leaving ends: rejoin masks (R51), barriers (R208), matrix rounds (R235),
helper lanes (R17), groups, blocks, clusters and launches (R20, R22, R252, R342). -/

namespace Sys2Proof.Machine

/-! ### Barriers lowered by lanes and groups that leave (R208) -/

/-- Lower a barrier's expected count. -/
def State.lowerBar (s : State) (blk n by_ : Nat) (go : Barrier → Bool) : State :=
  let b := s.bar blk n
  if b.init && go b then s.setBar blk n { b with expected := b.expected - by_ } else s

/-- Lower the barriers of mode `lanes` for the lanes of a mask, each by its own arrived bit. -/
def State.lowerLanes (s : State) (g : Nat) (m : LaneMask) : State :=
  (List.range 32).foldl (fun s n =>
    let b := s.bar (s.group g).blk n
    let k := ((lanesOf m).filter (fun l => !NatSet.mem b.lanesArr (32 * g + l))).length
    s.lowerBar (s.group g).blk n k (fun b => b.mode == 1)) s

/-- Lower the barriers of mode `groups` for a group that retires. -/
def State.lowerGroup (s : State) (g : Nat) : State :=
  (List.range 32).foldl (fun s n =>
    s.lowerBar (s.group g).blk n 1 (fun b => b.mode == 2 && !NatSet.mem b.groupArr g)) s

/-- Complete the phases that a lowering has completed. -/
def State.checkBars (s : State) (blk : Nat) : State := (List.range 32).foldl (fun s n => s.checkBar blk n) s

/-! ### Frames of the DWS window (R225, R351) -/

/-- The logical CD of an intermediate frame. -/
def Xlat.frameCd (x : Xlat) (f : Nat) : Nat := bitsOf (Map.get x.s2dws 0 f) 57 3
/-- The free frames of the window: those that no allocation and no spill stack holds. -/
def Xlat.freeFrames (x : Xlat) : List Nat :=
  (x.window.map (·.1)).filter (fun f => !x.allocs.any (fun a => a.frames.contains f) && !NatSet.mem x.spillFrm f)
/-- A memory without n bytes at a. -/
def Mem.clear (m : Mem) (a n : Nat) : Mem := m.filter (fun c => !(decide (a ≤ c.1) && decide (c.1 < a + n)))
/-- Zero a range of a memory. -/
def State.zeroRange (s : State) (k : Place) (n : Nat) : State :=
  let s := match k.kind with
    | 0 => { s with mems := { s.mems with dram := Mem.clear s.mems.dram k.addr n } }
    | 3 => { s with mems := { s.mems with dws := Mem.clear s.mems.dws k.addr n } }
    | _ => s
  let s := s.cleanAt k n
  { s with cores := { s.cores with stale := s.cores.stale.filter (fun e => !(e.kind == k.kind && decide (k.addr ≤ e.addr) && decide (e.addr < k.addr + n))) } }

/-- Zero a frame before its reuse (R225). -/
def State.zeroFrame (s : State) (p f : Nat) : State :=
  match s.dwsHome p (f * 65536) with
  | some k => s.zeroRange k 65536
  | none => s
/-- A majority cell out of IDLE holds a frame as its destination: it is not used again before the cell has written it (R100). -/
def State.heldFrame (s : State) (p f : Nat) : Bool :=
  s.cp.copy.any (fun q => (s.launch (s.block q.2.blk).launch).polder == p &&
    q.2.cell.any (fun c => c.st != .idle && c.dest.1 == 3 && c.dest.2.2 / 65536 == f))
/-- The free frames of a CD that may be taken. -/
def State.takeable (s : State) (p cd : Nat) : List Nat :=
  (s.xlat p).freeFrames.filter (fun f => (s.xlat p).frameCd f == cd && !s.heldFrame p f)
/-- Unmap an allocation and free its frames; its pages return to the counts they were drawn from (R225). -/
def State.freeAlloc (s : State) (p : Nat) (a : DwsAlloc) : State :=
  let s := a.frames.foldl (fun s f => s.zeroFrame p f) s
  let s := s.modXlat p (fun x =>
    { x with allocs := x.allocs.filter (fun b => b.base != a.base) })
  s.modLaunch a.launch (fun l => { l with resLeft := l.resLeft + a.drawn })
/-- Release the pins of a launch (R225). -/
def Xlat.unpinLaunch (x : Xlat) (l : Nat) : Xlat :=
  { x with pins := (x.pinsBy.filter (fun q => q.1 == l)).foldl (fun m q => Map.put m 0 q.2 (Map.get m 0 q.2 - 1)) x.pins,
           pinsBy := x.pinsBy.filter (fun q => q.1 != l) }

/-! ### Completion of a launch (R252, R342 to R344) -/

/-- The status with which a launch ends (R342). -/
def Launch.finalStatus (l : Launch) : EndStatus := l.ended.getD { status := 0, detail := 0 }

/-- Whether every command that a queue has taken has completed (R335). -/
def State.allDone (s : State) (q : Nat) : Bool :=
  (s.queue q).waiting.isNone && s.work.launches.all (fun l => l.2.queue != q || l.2.done)
/-- Whether the next LAUNCH of a queue may be its head: after the completion token of the one before it, or its `pre.done` (R263, R336). -/
def State.headFree (s : State) (q : Nat) : Bool :=
  match (s.queue q).lastLaunch with
  | some l => (s.launch l).tokened || (s.launch l).preDone
  | none => true
/-- The code of a command. -/
def Cmd.code (c : Cmd) : Nat := bitsOf (c.words.headD 0) 0 8
/-- A command that breaks no rule of R334 and R335. -/
def Cmd.ok (c : Cmd) : Bool :=
  let w := fun i => c.words.getD i 0
  let zero := fun (a n : Nat) => (List.range n).all (fun i => decide (w (a + i) = 0))
  match c.code with
  | 0 => decide (bitsOf (w 0) 8 56 = 0) && zero 1 1 && zero 3 13
  | 1 => decide (bitsOf (w 0) 19 45 = 0) && decide (1 ≤ bitsOf (w 0) 8 11) && decide (bitsOf (w 0) 8 11 ≤ 32) && zero 3 5
  | 2 => decide (bitsOf (w 0) 8 56 = 0) && zero 3 13 && decide ((w 1).toNat % 8 = 0)
  | _ => false
/-- Whether the next command of a queue can be taken (R334 to R336). -/
def State.canTake (s : State) (q : Nat) : Bool :=
  match (s.queue q).store with
  | c :: _ =>
    (s.queue q).waiting.isNone &&
    (if c.ok then match c.code with
      | 1 => s.headFree q
      | _ => s.allDone q
     else true)
  | [] => false
/-- The front end takes the next command of a queue when its turn has come. -/
def State.kick (s : State) (q : Nat) : State :=
  match (s.queue q).store with
  | c :: _ =>
    if !s.canTake q then s
    else if !c.ok then s.soon (.badCommand q)
    else match c.code with
      | 1 => s.soon (.launch q)
      | 2 => s.soon (.wait q)
      | _ => s.soon (.nopCommand q)
  | [] => s

/-- The front end looks for work to place (R339): it does so whenever something is pending and resources change. -/
def State.seek (s : State) : State :=
  if s.fe.pend.isEmpty && s.fe.pendBlk.isEmpty then s else s.soon (.blockPlacement 0 0 [] [])

/-- Hand a formed token to the queue's writer (R344). -/
def State.formToken (s : State) (q : Nat) (t : Token) : State :=
  (s.modQueue q (fun x => { x with tokens := x.tokens ++ [t] })).soon (.tokenWrite q)

/-- The launches of a queue that wait for the token of a command see its status (R84, R264, R323) (log 66). -/
def State.releaseSuccessors (s : State) (queue cmd status : Nat) : State :=
  (s.work.launches.filter (fun q => q.2.queue == queue && q.2.pred == some cmd)).foldl (fun s q =>
    let s := s.modLaunch q.1 (fun x => { x with pred := none, predStat := status })
    s.wakeAll ((s.work.groups.filter (fun e => s.launchOf e.1 == q.1)).map (·.1))) s

/-- A launch whose spawn-tree counter has reached 0 completes: it frees what it holds and its token is formed. -/
def State.finishLaunch (s : State) (l : Nat) : State :=
  let x := s.launch l
  let e := x.finalStatus
  let s := ((s.xlat x.polder).allocs.filter (fun a => a.launch == l)).foldl (fun s a => s.freeAlloc x.polder a) s
  let s := s.modXlat x.polder (fun t => t.unpinLaunch l)
  let s := s.modLaunch l (fun x => { x with resLeft := 0, done := true })
  (s.formToken x.queue { kind := 0, status := e.status, detail := e.detail, prov := false, cmd := x.cmdIdx, cookie := x.cookie,
                         launch := x.id.toNat })

/-! ### Clusters (R20, R22) -/

/-- The clusters whose child slots may end with a cluster: a slot is live until its cluster and all its descendants have
retired. -/
def State.freeSlots : Nat → State → Nat → State
  | 0, s, _ => s
  | n + 1, s, c =>
    let x := s.cluster c
    if x.retired && decide (x.children = 0) then
      match x.parent with
      | some (p, slot) =>
        let s := s.modCluster p (fun y => { y with children := y.children &&& ~~~(1#64 <<< slot) })
        let gs := ((s.cluster p).blocks.flatMap (fun b => (s.block b).groups))
        State.freeSlots n (s.wakeAll gs) p
      | none => s
    else s

/-- A cluster retires: the spawn-tree counter falls, and at 0 the launch completes (R252). -/
def State.retireCluster (s : State) (c : Nat) : State :=
  let x := s.cluster c
  if x.retired then s
  else
    let s := s.modCluster c (fun y => { y with retired := true })
    let s := State.freeSlots 12 s c
    let s := s.modLaunch x.launch (fun l => { l with counter := l.counter - 1 })
    if (s.launch x.launch).counter = 0 ∧ ¬(s.launch x.launch).done then s.finishLaunch x.launch else s

/-! ### Blocks (R20) -/

/-- Whether every copy that a block's lanes published has completed. -/
def State.copiesDone (s : State) (b : Nat) : Bool :=
  !s.cp.copy.any (fun q => q.2.blk == b && !q.2.complete) &&
  !s.cores.rings.any (fun q => q.2.blk == b && s.owes q.2) &&
  !(s.block b).rings.any (fun q => s.owes q.2)

/-- Give back the spill pages of a block's groups (R54). -/
def State.freeSpill (s : State) (b : Nat) : State :=
  let x := s.block b
  let p := (s.launch x.launch).polder
  x.groups.foldl (fun s g =>
    match (s.group g).spillAt with
    | some f => (s.modXlat p (fun t => { t with spillFrm := NatSet.del t.spillFrm f })).modGroup g (fun y => { y with spillAt := none })
    | none => s) s

/-- A core that a scan drains looks whether its last block has gone (R426). -/
def State.drainSeen (s : State) (core : Nat) : State := if (s.core core).draining then s.next (.scanDrainStart core) else s

/-- A block of a launch leaves a core now (R345, R427). -/
def State.leftCore (s : State) (l core : Nat) : State :=
  s.modLaunch l (fun x => { x with ranOn := x.ranOn.map (fun q => if q.1 = core then (q.1, max 1 s.ag.clock) else q) })

/-- A block whose groups have retired and whose copies have completed retires: its resources and rings are freed. -/
def State.retireBlock (s : State) (b : Nat) : State :=
  let x := s.block b
  if x.place = .retired ∨ x.groups.any (fun g => !(s.group g).retired) ∨ !s.copiesDone b then s
  else
    let s := s.freeSpill b
    let s := { s with cores := { s.cores with rings := s.cores.rings.filter (fun q => q.2.blk != b),
                                              convs := s.cores.convs.filter (fun q => q.2.blk != b) } }
    let s := { s with cp := { s.cp with copy := s.cp.copy.filter (fun q => q.2.blk != b) },
                      fe := { s.fe with pendBlk := s.fe.pendBlk.filter (fun k => k != b) } }
    let s := { s with work := { s.work with groups := x.groups.foldl Map.erase s.work.groups } }
    let s := if x.place = .live ∨ x.place = .saving then s.leftCore x.launch x.core else s
    let s := s.modBlock b (fun y => { y with place := .retired, groups := [], shared := [], rings := [], convs := [], image := [] })
    let s := s.seek.drainSeen x.core
    if (s.cluster x.cluster).placed && (s.cluster x.cluster).blocks.all (fun k => (s.block k).place = .retired) then
      s.retireCluster x.cluster
    else s

/-! ### Groups and lanes -/

/-- A group is part of a matrix operation in flight (R246). -/
def State.inFlight (s : State) (g : Nat) : Bool := s.cores.matOps.any (fun q => q.2.members.contains g)

/-- A group whose lanes have all left retires once none of its matrix operations is in flight. -/
def State.retireGroup (s : State) (g : Nat) : State :=
  let x := s.group g
  if x.retired ∨ x.present ≠ 0 ∨ s.inFlight g ∨ x.lanes.isEmpty then s
  else
    let s := s.modGroup g (fun x => { x with retired := true, tile := [], tileFmt := [] })
    let s := (s.lowerGroup g).checkBars x.blk
    let cs := s.cores.convs.filter (fun q => q.2.members.any (fun k => !(s.group k).retired))
    let s := { s with cores := { s.cores with convs := cs } }
    s.retireBlock x.blk

/-- The helper lanes whose quad has no other lane left (R17). -/
def Group.orphans (x : Group) : LaneMask :=
  maskOf (fun l => (x.lane l).helper && !(x.lane l).left &&
    (List.range 4).all (fun i => (x.lane (l / 4 * 4 + i)).left || (x.lane (l / 4 * 4 + i)).helper))

/-- The lanes that leave when those of a mask do: with the last other lane of a quad its helper lanes go too (R17). -/
def Group.leavers (x : Group) (m : LaneMask) : LaneMask :=
  m ||| (x.modLanes m (fun _ y => { y with left := true })).orphans

/-- Mark lanes as having left. -/
def Group.markLeft (x : Group) (m : LaneMask) : Group :=
  (x.modLanes m (fun _ y => { y with left := true, wait := .unstarted, remembered := .running, waitId := 0, stepping := false,
                                     stopAsked := false, heldTrap := false })).dropJ m

/-- Lanes leave their groups in one act: by `exit`, by a kill or at a launch's end, and helper lanes with their quad. -/
def State.leave (s : State) (who : List (Nat × LaneMask)) : State :=
  let who := who.map (fun (q : Nat × LaneMask) => (q.1, (s.group q.1).leavers (q.2 &&& (s.group q.1).present)))
  let s := who.foldl (fun s (q : Nat × LaneMask) => ((s.abandon q.1 q.2).sync q.1 q.2).modGroup q.1 (fun x => x.markLeft q.2)) s
  let s := who.foldl (fun s (q : Nat × LaneMask) => s.lowerLanes q.1 (q.2 &&& maskOf (fun l => !(s.lane q.1 l).helper))) s
  let s := (who.map (fun (q : Nat × LaneMask) => (s.group q.1).blk)).eraseDups.foldl (fun s b => s.checkBars b) s
  let s := who.foldl (fun s (q : Nat × LaneMask) => (s.rejoinAll q.1).issueRounds q.1) s
  let s := who.foldl (fun s (q : Nat × LaneMask) => s.retireGroup q.1) s
  who.foldl (fun s (q : Nat × LaneMask) =>
    if (s.block (s.group q.1).blk).place = .saving then s.next (.preemptLaneStop q.1 32) else s) s

/-! ### Kill (R260) -/

/-- The pending results of killed lanes are discarded and count as written: an instruction all of whose lanes are killed has none
left (R135, R260). -/
def Group.dropResults (x : Group) (m : LaneMask) : Group :=
  let theirs := fun (w : RegWrite) => (w.cls == .v || w.cls == .p) && m.getLsbD w.lane
  { x with pending := x.pending.filterMap (fun p =>
      let ws := p.writes.filter (fun w => !theirs w)
      if p.lanes &&& ~~~m = 0 || (ws.isEmpty && !p.writes.isEmpty) then none
      else some { p with lanes := p.lanes &&& ~~~m, writes := ws }) }

/-- Lanes are killed: their results and buffered stores are dropped, a fault they wait for is forgotten, and they leave. -/
def State.kill (s : State) (who : List (Nat × LaneMask)) : State :=
  let s := who.foldl (fun s (q : Nat × LaneMask) => s.modGroup q.1 (fun x =>
    { x.dropResults q.2 with buf := x.buf.filter (fun b => !q.2.getLsbD b.lane) })) s
  let drop := fun (r : Requester) => match r with
    | .lane g m => Requester.lane g (who.foldl (fun m (q : Nat × LaneMask) => if q.1 = g then m &&& ~~~q.2 else m) m)
    | .fetch g m => Requester.fetch g (who.foldl (fun m (q : Nat × LaneMask) => if q.1 = g then m &&& ~~~q.2 else m) m)
    | r => r
  let fs := s.tr.faults.map (fun (q : Nat × List FaultReq) => (q.1, q.2.map (fun f => { f with who := drop f.who })))
  { s with tr := { s.tr with faults := fs } }.leave who

end Sys2Proof.Machine
end

