-- ==== Sys2Proof/Machine/Faulting.lean ====
section
/-! DEFINITION. Translation faults (R356 to R358): the requests that wait for a CD's fault service, and the records of a
tenant's fault ring. -/

namespace Sys2Proof.Machine

/-- The requester's code in a fault record (R357). -/
def Requester.code : Requester → Nat
  | .lane .. => 0 | .fetch .. => 1 | .copy _ => 2 | .front _ => 3

/-- The `launch.id` in a fault record. -/
def State.requesterLaunch (s : State) : Requester → Nat
  | .lane g _ | .fetch g _ => (s.launch (s.launchOf g)).id.toNat
  | .copy c => match Map.find? s.cp.copy c with
    | some k => (s.launch (s.block k.blk).launch).id.toNat
    | none => 0
  | .front _ => 0

/-- Join the fault service of a CD, at the back of its order (R358). -/
def State.queueService (s : State) (cd : Nat) (f : FaultReq) : State :=
  let q := Map.get s.tr.faults [] cd
  let s := { s with tr := { s.tr with faults := Map.insert s.tr.faults cd (q ++ [f]) } }
  if q.isEmpty then s.soon (.faultServiceComplete cd) else s

/-- Write bytes at a physical place: poison of units they cover clears (R424), and instruction caches may still hold the bytes they
replace (R143). -/
def State.putBytes (s : State) (k : Place) (bs : List Byte) : State :=
  let old := s.readAt k bs.length
  let s := (s.writeAt k bs).cleanAt k bs.length
  if 1 < k.kind || old == bs then s
  else
    let e : Stale := { kind := k.kind, addr := k.addr, old := old, fresh := [] }
    { s with cores := { s.cores with stale := e :: s.cores.stale } }

/-- Write a word of global memory of a polder; nothing when it cannot be translated. -/
def State.putGlobal (s : State) (p va : Nat) (bs : List Byte) : Option State :=
  match s.global 8 p va .w with
  | .ok k => if k.kind = 2 then none else some (s.putBytes k bs)
  | .error _ => none
/-- Read bytes of global memory of a polder that lie in one page. -/
def State.getGlobal (s : State) (p va n : Nat) : Option (List Byte) :=
  match s.global 8 p va .r with
  | .ok k => if k.kind = 2 then none else some (s.readAt k n)
  | .error _ => none

/-- The entries of a tenant's fault ring. -/
def Xlat.ringSize (x : Xlat) : Nat := 2 ^ bitsOf x.fring 0 4

/-- A serviceable fault: a stage-1 fault is recorded in the tenant's ring and waits for the driver's answer, any other
joins the service of a CD. `none` when the ring is full or cannot be written, which fails the fault (R357). -/
def State.raiseFault (s : State) (p cd : Nat) (who : Requester) (dws : Bool) (f : XFault) (va : Nat) : Option State :=
  if f.cause = 4 then some (s.queueService cd { polder := p, who := who, pages := [f.page], dws := dws })
  else
    let x := s.xlat p
    if x.ringSize ≤ x.rfaults.length then none
    else
      let rec32 := bytesOf 8 va ++ bytesOf 8 (x.fidx * 256 + who.code * 16 + f.cause) ++ bytesOf 8 (s.requesterLaunch who) ++
        bytesOf 8 0
      match s.putGlobal p (bitsOf x.fring 12 44 * 4096 + 32 * (x.fidx % x.ringSize)) rec32 with
      | none => none
      | some s =>
        let due := s.ag.clock + 1000000000
        some ((s.modXlat p (fun x =>
          { x with rfaults := x.rfaults ++ [{ idx := x.fidx, who := who, va := va, due := due }], fidx := x.fidx + 1 })).atNs due
            (.faultAnswerTimeout p x.fidx))

/-- A stage-2 fault is recorded in an enabled fault ring for the tenant's information, and is never retried (R357). -/
def State.noteFault (s : State) (p : Nat) (who : Requester) (f : XFault) (va : Nat) : State :=
  let x := s.xlat p
  if !x.ringOn || decide (f.cause ≠ 3) || decide (x.ringSize ≤ x.rfaults.length) then s
  else
    let rec32 := bytesOf 8 va ++ bytesOf 8 (x.fidx * 256 + who.code * 16 + f.cause) ++ bytesOf 8 (s.requesterLaunch who) ++
      bytesOf 8 0
    match s.putGlobal p (bitsOf x.fring 12 44 * 4096 + 32 * (x.fidx % x.ringSize)) rec32 with
    | some s => s.modXlat p (fun x => { x with fidx := x.fidx + 1 })
    | none => s

/-- Park the lanes of a mask in FAULT with their PCs at the instruction, under one name by which they will return together (R53). -/
def State.park (s : State) (g : Nat) (m : LaneMask) : State :=
  let (id, s) := s.fresh
  s.modLanes g m (fun _ y => { y with wait := .fault, waitId := 0, retry := id })

/-- Parked lanes return to re-execute; a stopped lane does so when it is resumed (R53). -/
def State.unpark (s : State) (g : Nat) (m : LaneMask) : State :=
  s.modLanes g m (fun _ y =>
    if y.left then y
    else if y.wait = .fault ∧ y.waitId = 0 then { y with wait := .running }
    else if y.wait = .stopped ∧ y.remembered = .fault ∧ y.waitId = 0 then { y with remembered := .running }
    else y)

end Sys2Proof.Machine
end

