-- ==== Sys2Proof/Machine/Fetch.lean ====
section
/-! DEFINITION. Fetching a line (R127 to R132, R142, R143): its bytes, its parity and line word, and the lanes that enter it. -/

namespace Sys2Proof.Machine

/-- What fetching a line gives. -/
inductive Fetched where
  | line (bytes : List Byte)
  | poisoned (addr : Nat)
  | fault (f : XFault)
  deriving DecidableEq, Repr

/-- The SRAM of a control core's complex, through which its code addresses wrap (R408, log 9). -/
def sramSize : Nat := 2 ^ 23

/-- The bytes that a core's fetch sees: each may be one that a write has replaced and that the core has not invalidated (R143). -/
def State.fetchBytes (s : State) (core : Nat) (k : Place) (n : Nat) : List Byte :=
  let olds := s.cores.stale.filter (fun e => e.kind == k.kind && !NatSet.mem e.fresh core && decide (e.addr < k.addr + n) &&
    decide (k.addr < e.addr + e.old.length))
  if olds.isEmpty then s.readAt k n
  else (s.readAt k n).zipIdx.map (fun q =>
    olds.zipIdx.foldl (fun b (e : Stale × Nat) =>
      match if e.1.addr ≤ k.addr + q.2 then e.1.old[k.addr + q.2 - e.1.addr]? else none with
      | some o => if s.choose (2 ^ 28 + 4096 * e.2 + q.2) then o else b
      | none => b) q.1)

/-- Fetch the line of a PC for a group. -/
def State.fetchLine (s : State) (g : Nat) (pc : Word) : Fetched :=
  let x := s.group g
  let va := (pcLine pc).toNat
  if x.system then
    let m := if x.ctl < 2 then s.mems.sramA else s.mems.sramB
    .line (Mem.read m (va % sramSize) 64)
  else
    match s.global x.cd (s.polderOf g) va .x with
    | .error f => .fault f
    | .ok k =>
      if k.kind = 2 then .fault { cause := 3, serv := false, page := k.ipa / 4096 }
      else if s.poisonAt k 64 then .poisoned k.addr
      else .line (s.fetchBytes x.core k 64)

/-- The copy of a PC's line that a group's lanes have fetched and still run in. -/
def Group.lineAt (x : Group) (pc : Word) : Option (List Byte) := Map.find? x.lines (pcLine pc).toNat
/-- Keep a fetched line for the lanes that stand in it; lines in which no lane stands go (R143). -/
def Group.keepLine (x : Group) (pc : Word) (bytes : List Byte) : Group :=
  let here := fun (va : Nat) => (List.range 32).any (fun l => !(x.lane l).left && (pcLine (x.lane l).pc).toNat == va)
  { x with lines := Map.insert (x.lines.filter (fun q => here q.1)) (pcLine pc).toNat bytes }

/-- How many ones a range of bits of a number holds. -/
def onesIn (n lo len : Nat) : Nat := ((List.range len).filter (fun i => n.testBit (lo + i))).length

/-- Both parity bits of a line are right (R129). -/
def okParity (bytes : List Byte) : Bool :=
  let n := numOf bytes
  decide ((onesIn n 0 240 + onesIn n 511 1) % 2 = 0) && decide ((onesIn n 240 270 + onesIn n 510 1) % 2 = 0)

/-- The fields of a line word (R128). -/
def flagAOf (w : Nat) : Nat := w / 2 ^ 6 % 16
/-- `flag_b`. -/
def flagBOf (w : Nat) : Nat := w / 2 ^ 2 % 16
/-- `wait_mask`. -/
def waitMaskOf (w : Nat) : Nat := w / 2 ^ 10 % 2 ^ 12
/-- `target_mask` of a slot. -/
def isTarget (w slot : Nat) : Bool := w.testBit (22 + slot)
/-- `pair_tmpl` names the pair (s, s + 1) (R128). -/
def pairs (w slot : Nat) : Bool :=
  match w / 2 ^ 27 % 8 with
  | 1 => slot == 0 | 2 => slot == 1 | 3 => slot == 2 | 4 => slot == 3
  | 5 => slot == 0 || slot == 2 | 6 => slot == 1 || slot == 3 | 7 => slot == 0 || slot == 3
  | _ => false
/-- A line word that breaks no rule of R128. -/
def okLineWord (w : Nat) : Bool :=
  decide (w % 4 = 0) && (decide (flagAOf w < 12) || decide (flagAOf w = 15)) &&
  (decide (flagBOf w < 12) || decide (flagBOf w = 15)) && (decide (flagAOf w ≠ flagBOf w) || decide (flagAOf w = 15))
/-- Every flag named in the wait mask is clear (R132). -/
def Group.waitClear (x : Group) (w : Nat) : Bool :=
  (List.range 12).all (fun f => !(waitMaskOf w).testBit f || decide (x.flagCount f = 0))

/-- The landing check of a transfer (R131): the cause's address when the target's bit is clear. -/
def Lane.landing (y : Lane) (w : Nat) : Option Word :=
  if isTarget w (pcSlot y.pc) then none
  else match y.entry with
    | .xfer src => some src
    | .handler _ => some 0
    | _ => none

/-- A lane whose landing fails takes ILLEGAL_TARGET at the target; when trap delivery or an unwinding lands on a clear bit, the
trap counts as unhandled with that cause (R131, R267). -/
def State.badLanding (s : State) (g l : Nat) (src : Word) : State :=
  match (s.lane g l).entry with
  | .handler _ => s.unhandled g l Cause.illegalTarget.code
  | _ => s.trap g l .illegalTarget src

/-- Lanes at one PC enter its line, whose bytes are at hand and are kept as fetched: line word, landing, wait mask (checks 2 and 3
of R142, R132). Lanes that already run in the line only go on (R132). -/
def State.enterBytes (s : State) (g : Nat) (m : LaneMask) (pc : Word) (bytes : List Byte) : State :=
  let w := lineWord bytes
  let s := s.modGroup g (fun x => x.keepLine pc bytes)
  let m := m &&& maskOf (fun l => (s.lane g l).entry != .inLine)
  if !okLineWord w then s.trapAll g m .illegalLine (fun _ => 0)
  else
    let bad := maskOf (fun l => m.getLsbD l && ((s.lane g l).landing w).isSome)
    let s := (lanesOf bad).foldl (fun s l => s.badLanding g l (((s.lane g l).landing w).getD 0)) s
    if (s.group g).waitClear w then s.modLanes g (m &&& ~~~bad) (fun _ y => { y with entry := .inLine }) else s

/-- What the lanes of a group see of a line: the copy that it has fetched, while its translation stands, or a new fetch (R129,
R143). -/
def State.seenLine (s : State) (g : Nat) (pc : Word) : Fetched :=
  match s.fetchLine g pc, (s.group g).lineAt pc with
  | .fault f, _ => .fault f
  | _, some bytes => .line bytes
  | r, none => r

/-- Lanes at one PC enter its line, or fetch again the line that they run in (R129, R132, R356). -/
def State.enterLine (s : State) (g : Nat) (m : LaneMask) (pc : Word) : State :=
  let va := (pcLine pc).toNat
  match s.seenLine g pc with
  | .poisoned a => s.consume g m 3 7 (fun _ => pcLine pc) a
  | .line bytes =>
    let s := if (s.group g).system then s else s.startWalk (s.polderOf g) (s.group g).cd (.fetch g m) false va
    if okParity bytes && !NatSet.mem (s.part (s.group g).part).badL0 va then s.enterBytes g m pc bytes
    else s.next (.lineParityRefetch g m pc)
  | .fault f =>
    let who := Requester.fetch g m
    if f.serv then
      match s.raiseFault (s.polderOf g) (s.group g).cd who false f va with
      | some s => (s.park g m).count (s.group g).part 0x0103 1
      | none => s.trapAll g m .dwsUnserviceable (fun _ => pcLine pc)
    else (s.noteFault (s.polderOf g) who f va).trapAll g m .dwsUnserviceable (fun _ => pcLine pc)

/-- The slot at a PC of a line that the group has fetched: the line word and the slot's bits. -/
def State.slotAt (s : State) (g : Nat) (pc : Word) : Option (Nat × Nat) :=
  ((s.group g).lineAt pc).map (fun bytes => (lineWord bytes, lineSlot bytes (pcSlot pc)))
/-- The instruction at a PC. -/
def State.instrAt (s : State) (g : Nat) (pc : Word) : Option (Nat × Except DecErr Instr) :=
  (s.slotAt g pc).map (fun q => (q.1, decode q.2))

/-- The lanes of a bundle that still stand at its PC and may issue. -/
def Group.atPc (x : Group) (m : LaneMask) (pc : Word) : LaneMask :=
  m &&& maskOf (fun l => let y := x.lane l
    !y.left && !y.done && !y.frozen && decide (y.waitId = 0) && y.pc == pc && (y.wait = .running || y.wait = .yield))

/-- A slot that decodes to no instruction takes its trap in every lane of its executing set (checks 4 and 6 of R142). -/
def State.illegal (s : State) (w : Nat) (e : DecErr) : State :=
  let b := s.ag.cur
  let p := s.getP s.src (slotPr w).toNat
  let m := b.lanes &&& (if slotPn w then ~~~p else p)
  let cause := match e with
    | .illegalOpcode => Cause.illegalOpcode
    | .illegalEncoding => if slotOpc w ≥ 0xBD && slotOpc w ≤ 0xBF && !(s.group b.grp).system then Cause.priv
                          else Cause.illegalEncoding
  ((s.advance b.grp (b.lanes &&& ~~~m)).trapAll b.grp m cause (fun _ => 0)).bump

/-- What issuing a bundle comes to: an instruction to perform, or a state in which the bundle's lanes have trapped or moved. -/
inductive Issued where
  | run (i : Instr) (s : State)
  | done (s : State)

/-- Issue a bundle: its lanes that still stand at the PC, the flags of the line as fetched, the group as it stood before the clock,
and the decoded slot. Lanes whose line an `icinv` has taken meanwhile fetch it again and issue then (R143). -/
def State.issue (s : State) (b : Bundle) : Issued :=
  let lanes := (s.group b.grp).atPc b.lanes b.pc
  if lanes = 0 then .done s
  else
    match s.slotAt b.grp b.pc with
    | some (w, slot) =>
      let snap := if b.second then s.ag.snap else some (b.grp, s.group b.grp)
      let cur := { b with lanes := lanes, flagA := flagAOf w, flagB := flagBOf w }
      let s := { s with ag := { s.ag with cur := cur, snap := snap } }
      let s := s.modGroup b.grp (fun x => { x.modLanes lanes (fun _ y => { y with passed := 0 }) with started := true })
      match decode slot with
      | .ok i => .run i s
      | .error e => .done (s.illegal slot e)
    | none => .done s

end Sys2Proof.Machine
end

