-- ==== Sys2Proof/Machine/Issue.lean ====
section
/-! DEFINITION. Bundles and the partition scheduler (R39 to R50): one clock of one partition, the override, promotion, and the
ends of `yield` and `sleep`; and the writing of results (R133). -/

namespace Sys2Proof.Machine

/-! ### Ready lanes and bundles (R39 to R41) -/

/-- A lane may issue but for its line: it runs, and nothing outside it holds it. -/
def Lane.runs (y : Lane) : Bool :=
  !y.left && !y.done && !y.frozen && decide (y.waitId = 0) && (y.wait = .running || y.wait = .yield)

/-- The groups of a partition, in slot order. -/
def State.partGroups (s : State) (p : Nat) : List Nat :=
  let gs := s.work.groups.filter (fun q => q.2.part == p && !q.2.retired)
  (List.range 16).flatMap (fun n => (gs.filter (fun q => q.2.slot == n)).map (·.1))

/-- A group that the compactor has paused, or whose core is held, has no ready lane (R39). -/
def State.heldUp (s : State) (x : Group) : Bool :=
  decide (s.ag.cycle < x.pausedTo) || (!x.system && (s.core x.core).hold)

/-- The ready lanes of a group (R39): those that have entered their line. -/
def State.readyLanes (s : State) (g : Nat) : LaneMask :=
  let x := s.group g
  if s.heldUp x then 0
  else maskOf (fun l => (x.lane l).runs && (x.lane l).entry == .inLine && (x.lineAt (x.lane l).pc).isSome)

/-- The lanes of a group that have not yet entered the line of their PC, or whose line is to be fetched again (R143). -/
def State.entering (s : State) (g : Nat) : LaneMask :=
  let x := s.group g
  if s.heldUp x then 0
  else maskOf (fun l => (x.lane l).runs && ((x.lane l).entry != .inLine || (x.lineAt (x.lane l).pc).isNone))

/-- Lanes of a group that would issue together: their PC, the parking from which they all return, and the lanes. -/
structure Together where
  pc    : Word
  park  : Nat
  lanes : LaneMask
  deriving DecidableEq, Repr

/-- The lanes of a mask by PC; those that return from a parking are apart from the others (R40, R53). -/
def Group.byPc (x : Group) (m : LaneMask) : List Together :=
  (((lanesOf m).map (fun l => ((x.lane l).pc, (x.lane l).retry))).eraseDups).map (fun q =>
    { pc := q.1, park := q.2, lanes := m &&& maskOf (fun l => (x.lane l).pc == q.1 && (x.lane l).retry == q.2) })

/-- Let the lanes of a group enter their lines. -/
def State.enterLines (s : State) (g : Nat) : State :=
  ((s.group g).byPc (s.entering g)).foldl (fun s q => s.enterLine g q.lanes q.pc) s

/-- The PC with the most lanes, the lower PC among equals (R40). -/
def biggest : List Together → Option Together
  | [] => none
  | q :: qs =>
    match biggest qs with
    | none => some q
    | some r =>
      if countMask r.lanes < countMask q.lanes ∨ (countMask r.lanes = countMask q.lanes ∧ q.pc.toNat < r.pc.toNat) then some q
      else some r

/-- The bundle that the starvation override names: that of the ready lane outside bundle A with the highest count of 64 or more,
the lowest lane among equals; lanes in a `yield` window are not chosen (R41, R49). -/
def Group.overridePc (x : Group) (ready : LaneMask) (a : Together) : Option (Word × Nat) :=
  let ls := (lanesOf (ready &&& ~~~a.lanes)).filter (fun l => (x.lane l).wait != .yield && decide (64 ≤ (x.lane l).passed))
  (ls.foldl (fun (best : Option Nat) l =>
    match best with
    | none => some l
    | some k => if (x.lane k).passed < (x.lane l).passed then some l else some k) none).map (fun l => ((x.lane l).pc, (x.lane l).retry))

/-- A bundle that a group offers, with its age (R42, R48, R49). -/
structure Offer where
  grp     : Nat
  slot    : Nat
  pc      : Word
  park    : Nat
  lanes   : LaneMask
  second  : Bool
  since   : Nat
  promo   : Bool
  keeps   : Bool                -- its port is reserved for it
  yields  : Bool
  deriving DecidableEq, Repr

/-- The bundles A and B of a group (R40, R41). -/
def State.bundles (s : State) (g : Nat) : List Together :=
  let x := s.group g
  let qs := x.byPc (s.readyLanes g)
  match biggest qs with
  | none => []
  | some a =>
    let rest := qs.filter (fun q => q != a)
    let b := match x.forcedB.bind (fun f => rest.find? (fun q => (q.pc, q.park) == f)) with
      | some q => some q
      | none => biggest rest
    match b with
    | some b => [a, b]
    | none => [a]

/-- The offers of a group. -/
def State.offers (s : State) (g : Nat) : List Offer :=
  let x := s.group g
  (s.bundles g).zipIdx.map (fun (q : Together × Nat) =>
    let y := (lanesOf q.1.lanes).any (fun l => (x.lane l).wait == .yield)
    let age := x.ages.find? (fun a => a.pc == q.1.pc && a.park == q.1.park)
    { grp := g, slot := x.slot, pc := q.1.pc, park := q.1.park, lanes := q.1.lanes, second := decide (q.2 = 1), yields := y,
      since := if y then (lanesOf q.1.lanes).foldl (fun n l => max n (x.lane l).yieldEnd) 0 else (age.map (·.since)).getD s.ag.cycle,
      promo := !y && (age.map (·.promoted)).getD false, keeps := !y && (age.map (·.reserved)).getD false })

/-- A list of numbers comes before another. -/
def lexLt : List Nat → List Nat → Bool
  | a :: as, b :: bs => decide (a < b) || (decide (a = b) && lexLt as bs)
  | _, _ => false

/-- The order in which the scheduler serves offers (R42, R48, R49). -/
def Offer.rank (o : Offer) : List Nat := [o.yields.toNat, (!o.promo).toNat, o.since, o.slot, o.second.toNat]

/-! ### Eligibility (R43 to R47) -/

/-- What the scheduler sees of the instruction at an offered PC. -/
structure Cand where
  off   : Offer
  word  : Nat                   -- the line word
  opc   : Nat                   -- the slot's opcode, decoded or not
  instr : Option Instr          -- none when the slot traps at checks 4 to 7 of R142: no port and no read (R46)
  set_  : LaneMask
  flag  : Option Nat
  deriving DecidableEq, Repr

/-- Look at the slot of a PC for the lanes of an offer. -/
def State.look (s : State) (o : Offer) (pc : Word) : Cand :=
  let none_ : Cand := { off := { o with pc := pc }, word := 0, opc := 0, instr := none, set_ := 0, flag := none }
  match s.slotAt o.grp pc with
  | none => none_
  | some (w, slot) =>
    let none_ := { none_ with word := w, opc := slotOpc slot }
    match decode slot with
    | .error _ => none_
    | .ok i =>
      match hdrOf i with
      | none => none_
      | some h =>
        let s := { s with ag := { s.ag with cur := { grp := o.grp, pc := pc, lanes := o.lanes, second := false, flagA := flagAOf w, flagB := flagBOf w, ops := none } } }
        let m := s.execSet h i
        if (s.early h i (s.group o.grp)).isSome then { none_ with set_ := m }
        else { none_ with instr := some i, set_ := m, flag := if h.lf && decide (m ≠ 0) then some (s.flagOf h) else none }

/-- The reads of a bank that an instruction needs (R44, R45). -/
def Group.bankReads (x : Group) (i : Instr) (m : LaneMask) (bank : Nat) : Nat :=
  let part := decide (x.present &&& ~~~m ≠ 0)
  (((vReads i).eraseDups).filter (fun r => r % 4 == bank)).length +
  (if part then ((vWrites i).filter (fun r => r % 4 == bank)).length else 0)

/-- A waiting `lf` = 0 instruction has still to write a register. -/
def owedByWait (cls : RegClass) (idx : Nat) (m : LaneMask) (w : GWait) : Bool :=
  (hdrOf w.instr).any (fun h => !h.lf) &&
  (match cls with
   | .s => (sWrites w.instr).contains idx
   | .v => (vWrites w.instr).contains idx && decide (w.lanes &&& m ≠ 0)
   | _ => false)
/-- Whether an unfinished `lf` = 0 write of a register for a lane of a mask stands until a cycle. -/
def Group.scored (x : Group) (cls : RegClass) (idx : Nat) (m : LaneMask) (t : Nat) : Bool :=
  x.score.any (fun q => q.cls == cls && q.idx == idx && decide (q.lanes &&& m ≠ 0) && decide (t < q.at_)) ||
  x.waits.any (owedByWait cls idx m)

/-- Instructions that read a vector register of other lanes. -/
def readsAcross : Instr → Bool
  | .xlane .. | .qx .. | .fold .. | .scan .. | .umovV .. => true
  | _ => false

/-- Sources readable, and no write that could land before an earlier one (R43). -/
def State.interlockFree (s : State) (x : Group) (h : Hdr) (i : Instr) (m : LaneMask) : Bool :=
  let t := s.ag.cycle
  let all := BitVec.allOnes 32
  let vm := if readsAcross i then all else m
  !(vReads i).any (fun r => x.scored .v r vm t) && !(sReads i).any (fun r => x.scored .s r all t) &&
  !(h.pr.toNat :: pReads i).any (fun r => x.scored .p r all t) && !(bReads i).any (fun r => x.scored .b r all t) &&
  (let land := t + latency i - 1
   !(vWrites i).any (fun r => x.scored .v r m land) && !(sWrites i).any (fun r => x.scored .s r all land) &&
   !(pWrites i).any (fun r => x.scored .p r m land) && !(bWrites i).any (fun r => x.scored .b r all land))

/-- The port is free (R46). -/
def State.portFree (s : State) (p : Nat) (i : Instr) : Bool :=
  let q := s.part p
  match portOf (opcOf i) with
  | .int => true
  | .fp => decide (q.busyFp ≤ s.ag.cycle)
  | .sf => decide (q.busySf ≤ s.ag.cycle)
  | .mem => decide (q.busyMem ≤ s.ag.cycle)
  | .mat => decide (q.busyMat ≤ s.ag.cycle)

/-- No promoted bundle that ranks before a candidate has its port reserved (R48). -/
def unreserved (cands : List Cand) (c : Cand) : Bool :=
  match c.instr with
  | none => true
  | some i => !cands.any (fun d => d.off.keeps && lexLt d.off.rank c.off.rank &&
      d.instr.any (fun j => portOf (opcOf j) == portOf (opcOf i)))

/-- A candidate is eligible beside the bank reads that this clock already holds (R43, R44, R133). -/
def State.eligible (s : State) (p : Nat) (used : List Nat) (c : Cand) : Bool :=
  match c.instr with
  | none => true
  | some i =>
    let x := s.group c.off.grp
    (match hdrOf i with
     | some h => s.interlockFree x h i c.set_
     | none => true) &&
    s.portFree p i && c.flag.all (fun f => decide (x.flagCount f < 15)) &&
    (List.range 4).all (fun b => decide (used.getD b 0 + min 2 (x.bankReads i c.set_ b) ≤ 2))

/-- Two picks of one clock are compatible (R27, R46). -/
def compatible (a b : Cand) : Bool :=
  match a.instr, b.instr with
  | some i, some j =>
    let pi := portOf (opcOf i)
    let pj := portOf (opcOf j)
    (pi != pj || pi == .int) &&
    (a.off.grp != b.off.grp ||
      (!(sWrites i).any (fun r => (sWrites j).contains r) && !(bWrites i).any (fun r => (bWrites j).contains r) &&
       !(jNamed i).any (fun r => (jNamed j).contains r) &&
       (match a.flag, b.flag with
        | some f, some g => f != g
        | _, _ => true)))
  | _, _ => true

/-- The bank reads of a pick in its issue clock, added to those held. -/
def State.addBanks (s : State) (used : List Nat) (c : Cand) : List Nat :=
  match c.instr with
  | none => used
  | some i => (List.range 4).map (fun b => used.getD b 0 + min 2 ((s.group c.off.grp).bankReads i c.set_ b))
/-- The bank reads that a pick leaves for the next clock. -/
def State.lateBanks (s : State) (late : List Nat) (c : Cand) : List Nat :=
  match c.instr with
  | none => late
  | some i => (List.range 4).map (fun b => late.getD b 0 + ((s.group c.off.grp).bankReads i c.set_ b - 2))

/-- The oldest candidate. -/
def oldest : List Cand → Option Cand
  | [] => none
  | c :: cs =>
    match oldest cs with
    | none => some c
    | some d => if lexLt d.off.rank c.off.rank then some d else some c

/-- The picks of one clock, in order; the second half of a pair, and a second bundle of the same group, read as before the
clock (R42, R47). -/
def State.picks (s : State) (p : Nat) (cands : List Cand) : List Cand :=
  let used := (s.part p).bankNext
  let cands := cands.filter (unreserved cands)
  match oldest (cands.filter (s.eligible p used)) with
  | none => []
  | some a =>
    let used' := s.addBanks used a
    let pair : Option Cand :=
      if !pairs a.word (pcSlot a.off.pc) || isControl a.opc then none
      else
        let b := s.look a.off (a.off.pc + 1)
        if compatible a b && s.eligible p used' b then some b else none
    match pair with
    | some b => [a, b]
    | none =>
      match oldest (cands.filter (fun c => (c.off.grp, c.off.pc, c.off.park) != (a.off.grp, a.off.pc, a.off.park) && compatible a c && s.eligible p used' c)) with
      | some c => [a, c]
      | none => [a]

/-! ### One clock of a partition -/

/-- The events that come before the picks of a clock: overrides and promotions (R41, R48). -/
def State.beforePicks (s : State) (g : Nat) : List Instr :=
  let x := s.group g
  (match (s.bundles g).head? with
   | some a => if x.forcedB.isNone && (x.overridePc (s.readyLanes g) a).isSome then [.passedOverOverride g] else []
   | none => []) ++
  (s.offers g).filterMap (fun o =>
    if !o.yields && !o.promo && decide (96 ≤ s.ag.cycle - o.since) then some (.bundlePromotion g o.pc) else none)

/-- Ages and passed-over counts of a group after the picks of a clock. A bundle keeps its age while its group offers its PC in each
clock; the first clock without the offer forgets it (R42, log 139). A promoted bundle that finds its port busy has
that port reserved (R48). Once a `yield` window is over, the bundle's age is the window's end (R49). -/
def State.ageGroup (s : State) (g : Nat) (cands : List Cand) (issued : LaneMask) : State :=
  let left := s.readyLanes g &&& ~~~issued
  let busy := fun (o : Offer) => cands.any (fun c => c.off == o && c.instr.any (fun i => !s.portFree (s.group g).part i))
  let ages := (s.offers g).map (fun o =>
    ({ pc := o.pc, park := o.park, since := o.since, promoted := o.promo, reserved := decide (o.lanes &&& issued = 0) && (o.keeps || (o.promo && busy o)) } : Age))
  let s := s.modGroup g (fun x => { x with forcedB := none, ages := ages })
  let s := s.modLanes g left (fun _ y => if y.wait = .yield then y else { y with passed := y.passed + 1 })
  if left = 0 then s else s.count (s.group g).part 0x0004 1

/-- The counters of a pick (R433). -/
def State.countPick (s : State) (p : Nat) (c : Cand) : State :=
  let s := s.count p 0x0001 1
  let quads := ((List.range 8).filter (fun q => decide (c.set_ >>> (4 * q) &&& 15#32 ≠ 0))).length
  let s := s.count p 0x0002 quads
  match c.instr with
  | some i =>
    let x := s.group c.off.grp
    let s := if (List.range 4).any (fun b => decide (2 < x.bankReads i c.set_ b)) then s.count p 0x0005 1 else s
    if (vWrites i).isEmpty || decide (x.present &&& ~~~c.set_ = 0) then s else s.count p 0x0006 1
  | none => s

/-- PARTITION_ISSUE_CYCLE (R39 to R47). -/
def execPartitionIssueCycle (p : Nat) (s : State) : Host.Outcome State Fault Refusal :=
  let gs := s.partGroups p
  let s := gs.foldl State.enterLines s
  let evs := gs.flatMap s.beforePicks
  if !evs.isEmpty then
    .next { s with ag := { s.ag with todo := evs.map Todo.run ++ .run (.partitionIssueCycle p) :: s.ag.todo } }
  else
    let cands := (gs.flatMap s.offers).map (fun o => s.look o o.pc)
    let ps := s.picks p cands
    let late := ps.foldl s.lateBanks [0, 0, 0, 0]
    let q := s.part p
    let sf := ps.foldl (fun n c => match c.instr with
      | some i => if portOf (opcOf i) = .sf then s.ag.cycle + portBusy i else n
      | none => n) q.busySf
    let issues := ps.zipIdx.map (fun (c : Cand × Nat) => Todo.issue
      { grp := c.1.off.grp, pc := c.1.off.pc, lanes := c.1.off.lanes,
        second := decide (c.2 = 1) && (ps.head?.any (fun a => a.off.grp == c.1.off.grp)), flagA := 15, flagB := 15, ops := none })
    let s := s.setPart p { q with bankNext := late, busySf := sf }
    let s := gs.foldl (fun s g => s.ageGroup g cands
      (ps.foldl (fun m c => if c.off.grp = g then m ||| c.off.lanes else m) 0)) s
    let s := ps.foldl (fun s c => s.countPick p c) (s.count p 0x0000 1)
    let s := match ps with
      | [a, b] => if a.off.grp = b.off.grp ∧ a.off.lanes = b.off.lanes then s.count p 0x0003 1 else s
      | _ => s
    .next { s with ag := { s.ag with todo := s.ag.todo ++ issues } }.bump

/-- PASSED_OVER_OVERRIDE: bundle B is the PC of the lane that has been passed over longest (R41). -/
def execPassedOverOverride (g : Nat) (s : State) : Host.Outcome State Fault Refusal :=
  match (s.bundles g).head? with
  | some a => .next (s.modGroup g (fun x => { x with forcedB := x.overridePc (s.readyLanes g) a }))
  | none => .next s

/-- BUNDLE_PROMOTION: a bundle of age 96 or more ranks before those that are not promoted (R48). -/
def execBundlePromotion (g : Nat) (pc : Word) (s : State) : Host.Outcome State Fault Refusal :=
  match (s.offers g).find? (fun o => o.pc == pc && !o.yields && !o.promo && decide (96 ≤ s.ag.cycle - o.since)) with
  | some o =>
    let s := s.modGroup g (fun x =>
      { x with ages := { pc := pc, park := o.park, since := o.since, promoted := true, reserved := false } ::
          x.ages.filter (fun a => (a.pc, a.park) != (pc, o.park)) })
    .next (s.count (s.group g).part 0x0007 1)
  | none => .next s

/-- YIELD_WINDOW_END (R49). -/
def execYieldWindowEnd (g l : Nat) (s : State) : Host.Outcome State Fault Refusal :=
  let y := s.lane g l
  if y.yieldEnd ≤ s.ag.cycle then
    .next (s.modLane g l (fun y =>
      if y.wait = .yield then { y with wait := .running }
      else if y.wait = .stopped ∧ y.remembered = .yield then { y with remembered := .running } else y))
  else .next s

/-- SLEEP_DEADLINE: the lane is ready again once `clock` has reached its deadline; under HOLD it becomes so after RELEASE, as
no lane of a held core is ready; a saved lane has dropped its remaining sleep (R151, R152). -/
def execSleepDeadline (g l : Nat) (s : State) : Host.Outcome State Fault Refusal :=
  let y := s.lane g l
  if !y.left && !y.frozen && decide (y.deadline ≤ s.ag.clock) && decide (y.waitId = 0) then
    .next (s.modLane g l (fun y =>
      if y.wait = .sleep then Lane.settle { y with wait := .running }
      else if y.wait = .stopped ∧ y.remembered = .sleep then { y with remembered := .running, met := true } else y))
  else .next s

/-- Registers that a landed result has wholly rewritten hold no poison (R376, R424). -/
def Group.cleanLanded (x : Group) (ws : List RegWrite) : Group :=
  let vs := ((ws.filter (fun w => w.cls == .v)).map (·.idx)).eraseDups
  let whole := vs.filter (fun r => (lanesOf x.present).all (fun l => ws.any (fun w => w.cls == .v && w.idx == r && w.lane == l)))
  let others := ws.filterMap (fun w => match w.cls with
    | .s => some (4096 + w.idx)
    | .b => some (16384 + w.idx)
    | _ => none)
  { x with poisonV := whole.foldl NatSet.del x.poisonV, poisonR := others.foldl NatSet.del x.poisonR }

/-- The writes of a pending result land and its flag's count falls; a wait of the same id ends (R133). -/
def State.landResult (s : State) (g id : Nat) : State :=
  match (s.group g).pending.find? (fun p => p.id == id) with
  | none => s
  | some p =>
    let s := (s.modGroup g (fun x =>
      (s.landWrites { x with pending := x.pending.filter (fun q => q.id != id) } p.writes).cleanLanded p.writes)).bump
    match (s.group g).waits.find? (fun w => w.id == id) with
    | some w => s.release g id w.lanes
    | none => s

/-- LINE_PARITY_REFETCH: a line wrong again is consumed as poison by the lanes that needed it; they enter a right one (R129). -/
def execLineParityRefetch (g : Nat) (m : LaneMask) (pc : Word) (s : State) : Host.Outcome State Fault Refusal :=
  let m := m &&& s.entering g &&& maskOf (fun l => (s.lane g l).pc == pc)
  let p := (s.group g).part
  let s := s.setPart p { s.part p with badL0 := NatSet.del (s.part p).badL0 (pcLine pc).toNat }
  if m = 0 then .next s
  else
    match s.fetchLine g pc with
    | .line bytes => if okParity bytes then .next (s.enterBytes g m pc bytes) else .next (s.consume g m 3 7 (fun _ => pcLine pc) 0).bump
    | .poisoned a => .next (s.consume g m 3 7 (fun _ => pcLine pc) a)
    | .fault _ => .next s

end Sys2Proof.Machine
end

