-- ==== Sys2Proof/Machine/Clock.lean ====
section
/-! DEFINITION. The passing of time (R1): one cycle of the arithmetic clock, the events that fall due with it, and what a step
has to do next; and the placing of a line where control core 0 fetches. -/

namespace Sys2Proof.Machine

/-- The fraction of a ns that is one unit of `frac` (log 5). -/
def nsUnits : Nat := 2095133040
/-- The length of a cycle in those units: 4/9 ns at 2.25 GHz, longer by the power steps taken (R1, R413). -/
def cycleUnits (steps : Nat) : Nat := 80 * 232792560 / (20 - min steps 19)

/-- The partitions that hold a group. -/
def State.activeParts (s : State) : List Nat :=
  ((s.work.groups.filter (fun q => !q.2.retired && decide (q.2.part < 2048))).map (fun q => q.2.part)).eraseDups

/-- The clock advances by one cycle; due events come first, then each partition's scheduler. -/
def State.tick (s : State) : State :=
  let f := s.ag.frac + cycleUnits s.rel.clkSteps
  let cycle := s.ag.cycle + 1
  let clock := s.ag.clock + f / nsUnits
  let dueC := s.ag.atCycle.filter (fun q => decide (q.1 ≤ cycle))
  let dueN := s.ag.atClock.filter (fun q => decide (q.1 ≤ clock))
  let due := (dueC ++ dueN).map (fun q => Todo.run q.2)
  let issue := s.activeParts.map (fun p => Todo.run (.partitionIssueCycle p))
  { s with ag := { s.ag with cycle := cycle, clock := clock, frac := f % nsUnits, snap := none, free := s.ag.free + 1,
                             atCycle := s.ag.atCycle.filter (fun q => decide (cycle < q.1)),
                             atClock := s.ag.atClock.filter (fun q => decide (clock < q.1)), todo := due ++ issue } }

/-- Events that the arbiter orders and the agenda holds (R12); host commands and the takeover are checked where they act. -/
def arbitrated : Instr → Bool
  | .unhandledTrapInstant .. | .poisonConsumedInstant .. | .earlySuccessorDisplace .. | .preemption .. | .scanDrainStart .. |
    .frozenRegisterWrite .. | .errorReport .. | .fatalError .. => true
  | _ => false
/-- What the arbiter does not take any more: after a fatal error, every event that it orders (R431). -/
def State.leaves (s : State) (i : Instr) : Bool := s.ctl.arbDead && arbitrated i

/-- What a step does: a piece of the present clock, an event from outside that is due, or a state reached without one: the next clock, or an
event that is left. -/
inductive Work1 where
  | issue (b : Bundle) (s : State)
  | run (i : Instr) (s : State)
  | tick (s : State)

/-- Take the next piece of work. -/
def State.take (s : State) : Work1 :=
  match s.ag.todo with
  | .issue b :: rest => .issue b { s with ag := { s.ag with todo := rest } }
  | .run i :: rest =>
    let s' := { s with ag := { s.ag with todo := rest } }
    if s.leaves i then .tick s' else .run i s'
  | [] =>
    match s.ag.inputs with
    | (t, i) :: rest =>
      if s.ag.cycle < t then .tick s.tick
      else
        let s' := { s with ag := { s.ag with inputs := rest } }
        if s.leaves i then .tick s' else .run i s'
    | [] => .tick s.tick

/-- A line whose slot 0 holds a word, whose other slots hold `nop`, whose slots may all be targets, and that names f0 and f1;
with right parity (R127 to R129). -/
def testLine (w : Nat) : List Byte :=
  let nop := bytesOf 12 (0x0AE00000 * 2 ^ 64)
  let body := bytesOf 12 w ++ nop ++ nop ++ nop ++ nop
  let lw := 31 * 2 ^ 22 + 1 * 2 ^ 2
  let n := numOf (body ++ bytesOf 4 lw)
  let lo := onesIn n 0 240 % 2
  let hi := onesIn n 240 270 % 2
  body ++ bytesOf 4 (lw + hi * 2 ^ 30 + lo * 2 ^ 31)

/-- The state with an instruction placed where control core 0 fetches next: the line of its PC holds the instruction in
slot 0, its PC is that slot, and its lane is the bundle that issues (log 10). -/
def State.place (s : State) (w : Nat) : State :=
  let pc := pcLine (s.lane 1 0).pc
  let sram := Mem.write s.mems.sramA (pc.toNat % sramSize) (testLine w)
  let s := { s with mems := { s.mems with sramA := sram } }
  let s := s.modGroup 1 (fun x => (x.modLane 0 (fun y => { y with pc := pc, entry := .inLine })).keepLine pc (testLine w))
  { s with ag := { s.ag with todo := [.issue { grp := 1, pc := pc, lanes := 1, second := false, flagA := 0, flagB := 1, ops := none }] } }

end Sys2Proof.Machine
end

