-- ==== Sys2Proof/Machine/Flags.lean ====
section
/-! DEFINITION. Flags: the five floating-point exceptions that a lane's `fp.status` records (R29, R110), and the results that
raise them. -/

namespace Sys2Proof.Machine

/-- Floating-point flags, in the bits of `fp.status`. -/
abbrev FpFlags := BitVec 5

/-- Inexact. -/
def flagIX : FpFlags := 16
/-- Underflow. -/
def flagUF : FpFlags := 8
/-- Overflow. -/
def flagOF : FpFlags := 4
/-- Division by zero. -/
def flagDZ : FpFlags := 2
/-- Invalid. -/
def flagNV : FpFlags := 1
/-- A flag, if a condition holds. -/
def flagIf (c : Bool) (f : FpFlags) : FpFlags := if c then f else 0

/-- The flags of a lane only ever gain bits (R110). -/
def Lane.raise (y : Lane) (f : FpFlags) : Lane := { y with fpStatus := y.fpStatus ||| f }

/-- The rounding mode of a lane (R111, R176). -/
def modeOf (r : Rnd) (y : Lane) : Nat := if r.dyn then y.fpMode.toNat else r.rm.toNat

/-- An instruction that gives each lane a value and the flags that it raises. -/
def State.fpCompute (s : State) (h : Hdr) (i : Instr) (d : BitVec 8) (f : State → Group → LaneMask → Nat → Word × FpFlags) :
    Host.Outcome State Fault Refusal :=
  s.perform h i (fun x g m s =>
    let s' := s.give g h m (latency i) { v := [(d.toNat, fun l => (f s x m l).1)] }
    (s'.modLanes g m (fun l y => y.raise (f s x m l).2)).advance g m)

end Sys2Proof.Machine
end

