-- ==== Sys2Proof/Machine/Integer.lean ====
section
/-! DEFINITION. Integer arithmetic, comparison, shifts, logic, bit fields, selection, moves and the bit stream (R144, R157 to
R168). -/

namespace Sys2Proof.Machine

/-! ### Elements (R105, R106, R144) -/

/-- Element k of a value, as an unsigned number. -/
def elemU (t : Ty) (x : Word) (k : Nat) : Nat := x.toNat / 2 ^ (t.width * k) % 2 ^ t.width
/-- A number of w bits read as signed. -/
def signedOf (w n : Nat) : Int := if n < 2 ^ (w - 1) then (n : Int) else (n : Int) - (2 ^ w : Nat)
/-- Element k of a value, signed for the `i` types. -/
def elemI (t : Ty) (x : Word) (k : Nat) : Int := if t.isSigned then signedOf t.width (elemU t x k) else (elemU t x k : Int)
/-- The limits of an element type. -/
def tyMin (t : Ty) : Int := if t.isSigned then -((2 ^ (t.width - 1) : Nat) : Int) else 0
/-- The upper limit. -/
def tyMax (t : Ty) : Int := if t.isSigned then ((2 ^ (t.width - 1) : Nat) : Int) - 1 else ((2 ^ t.width : Nat) : Int) - 1
/-- An integer modulo 2^w. -/
def wrapTo (w : Nat) (r : Int) : Nat := (r % ((2 ^ w : Nat) : Int)).toNat
/-- The value whose elements are given; the bits above the last element are zero. -/
def packElems (t : Ty) (f : Nat → Nat) : Word :=
  BitVec.ofNat 64 ((List.range t.count).foldl (fun n k => n + f k % 2 ^ t.width * 2 ^ (t.width * k)) 0)
/-- An exact result saturated to the type's range, or wrapped (R157). -/
def fitTo (t : Ty) (sat : Bool) (r : Int) : Nat :=
  wrapTo t.width (if sat then min (max r (tyMin t)) (tyMax t) else r)

/-- An instruction that computes each element from those of up to three sources (R144, R157). -/
def elemwise (t : Ty) (sat : Bool) (op : Int → Int → Int → Int) (a b c : Word) : Word :=
  packElems t (fun k => fitTo t sat (op (elemI t a k) (elemI t b k) (elemI t c k)))
/-- The same on unsigned elements (R159, R161). -/
def elemwiseU (t : Ty) (op : Nat → Nat → Nat) (a b : Word) : Word := packElems t (fun k => op (elemU t a k) (elemU t b k))

/-- A vector result from three sources. -/
def State.vec3 (s : State) (x : Group) (d : BitVec 8) (a b c : Src) (f : Word → Word → Word → Word) : Res :=
  { v := [(d.toNat, fun l => f (s.srcVal x a l) (s.srcVal x b l) (s.srcVal x c l))] }

/-! ### Arithmetic (R157) -/

/-- `iadd`. -/
def execIadd (h : Hdr) (t : Ty) (sat : Bool) (d : BitVec 8) (a b : Src) (s : State) : Host.Outcome State Fault Refusal :=
  s.compute h (.iadd h t sat d a b) (fun s x _ => s.vec3 x d a b .zero (elemwise t sat (fun x y _ => x + y)))
/-- `isub`. -/
def execIsub (h : Hdr) (t : Ty) (sat : Bool) (d : BitVec 8) (a b : Src) (s : State) : Host.Outcome State Fault Refusal :=
  s.compute h (.isub h t sat d a b) (fun s x _ => s.vec3 x d a b .zero (elemwise t sat (fun x y _ => x - y)))
/-- `imul`. -/
def execImul (h : Hdr) (t : Ty) (sat : Bool) (d : BitVec 8) (a b : Src) (s : State) : Host.Outcome State Fault Refusal :=
  s.compute h (.imul h t sat d a b) (fun s x _ => s.vec3 x d a b .zero (elemwise t sat (fun x y _ => x * y)))
/-- `imulh`: the product divided by 2^w toward minus infinity. -/
def execImulh (h : Hdr) (t : Ty) (d : BitVec 8) (a b : Src) (s : State) : Host.Outcome State Fault Refusal :=
  s.compute h (.imulh h t d a b) (fun s x _ =>
    s.vec3 x d a b .zero (elemwise t false (fun x y _ => (x * y) / ((2 ^ t.width : Nat) : Int))))
/-- `imad`. -/
def execImad (h : Hdr) (t : Ty) (sat : Bool) (d : BitVec 8) (a b c : Src) (s : State) : Host.Outcome State Fault Refusal :=
  s.compute h (.imad h t sat d a b c) (fun s x _ => s.vec3 x d a b c (elemwise t sat (fun x y z => x * y + z)))
/-- `imin`. -/
def execImin (h : Hdr) (t : Ty) (d : BitVec 8) (a b : Src) (s : State) : Host.Outcome State Fault Refusal :=
  s.compute h (.imin h t d a b) (fun s x _ => s.vec3 x d a b .zero (elemwise t false (fun x y _ => min x y)))
/-- `imax`. -/
def execImax (h : Hdr) (t : Ty) (d : BitVec 8) (a b : Src) (s : State) : Host.Outcome State Fault Refusal :=
  s.compute h (.imax h t d a b) (fun s x _ => s.vec3 x d a b .zero (elemwise t false (fun x y _ => max x y)))
/-- `iabs`. -/
def execIabs (h : Hdr) (t : Ty) (sat : Bool) (d : BitVec 8) (a : Src) (s : State) : Host.Outcome State Fault Refusal :=
  s.compute h (.iabs h t sat d a) (fun s x _ =>
    s.vec3 x d a .zero .zero (elemwise t sat (fun x _ _ => if x < 0 then -x else x)))

/-- A condition of R158 between two numbers. -/
def condHolds (c : BitVec 3) (x y : Int) : Bool :=
  match c.toNat with
  | 0 => decide (x = y) | 1 => decide (x ≠ y) | 2 => decide (x < y) | 3 => decide (x ≤ y) | 4 => decide (y < x)
  | _ => decide (y ≤ x)
/-- A condition over the elements: all of them, or any with `any`. -/
def overElems (t : Ty) (any : Bool) (f : Nat → Bool) : Bool :=
  if any then (List.range t.count).any f else (List.range t.count).all f
/-- `icmp` (R158). -/
def execIcmp (h : Hdr) (t : Ty) (cond : BitVec 3) (any : Bool) (d : BitVec 8) (a b : Src) (s : State) :
    Host.Outcome State Fault Refusal :=
  s.compute h (.icmp h t cond any d a b) (fun s x _ =>
    { p := [(d.toNat, fun l => overElems t any (fun k =>
        condHolds cond (elemI t (s.srcVal x a l) k) (elemI t (s.srcVal x b l) k)))] })

/-! ### Shifts, logic and bit fields (R159 to R162) -/

/-- `shl` of an element of w bits. -/
def shlE (w x n : Nat) : Nat := if w ≤ n then 0 else x * 2 ^ n % 2 ^ w
/-- `shr`. -/
def shrE (w x n : Nat) : Nat := if w ≤ n then 0 else x / 2 ^ n
/-- `sar`. -/
def sarE (w x n : Nat) : Nat := wrapTo w (signedOf w x / ((2 ^ min n w : Nat) : Int))
/-- Rotation to the left by n mod w. -/
def rotlE (w x n : Nat) : Nat := (x * 2 ^ (n % w) + x / 2 ^ (w - n % w)) % 2 ^ w
/-- Rotation to the right. -/
def rotrE (w x n : Nat) : Nat := rotlE w x (w - n % w)

/-- `shl`. -/
def execShl (h : Hdr) (t : Ty) (d : BitVec 8) (a b : Src) (s : State) : Host.Outcome State Fault Refusal :=
  s.compute h (.shl h t d a b) (fun s x _ => s.vec3 x d a b .zero (fun p q _ => elemwiseU t (shlE t.width) p q))
/-- `shr`. -/
def execShr (h : Hdr) (t : Ty) (d : BitVec 8) (a b : Src) (s : State) : Host.Outcome State Fault Refusal :=
  s.compute h (.shr h t d a b) (fun s x _ => s.vec3 x d a b .zero (fun p q _ => elemwiseU t (shrE t.width) p q))
/-- `sar`. -/
def execSar (h : Hdr) (t : Ty) (d : BitVec 8) (a b : Src) (s : State) : Host.Outcome State Fault Refusal :=
  s.compute h (.sar h t d a b) (fun s x _ => s.vec3 x d a b .zero (fun p q _ => elemwiseU t (sarE t.width) p q))
/-- `rot`. -/
def execRot (h : Hdr) (t : Ty) (right : Bool) (d : BitVec 8) (a b : Src) (s : State) : Host.Outcome State Fault Refusal :=
  s.compute h (.rot h t right d a b) (fun s x _ =>
    s.vec3 x d a b .zero (fun p q _ => elemwiseU t (if right then rotrE t.width else rotlE t.width) p q))

/-- A truth table of three bits over 64 positions (R160). -/
def tern64 (table : BitVec 8) (a b c : Word) : Word :=
  let term := fun (i : Nat) =>
    if table.getLsbD i then
      (if i.testBit 0 then a else ~~~a) &&& (if i.testBit 1 then b else ~~~b) &&& (if i.testBit 2 then c else ~~~c)
    else 0
  (List.range 8).foldl (fun r i => r ||| term i) 0
/-- `tern`. -/
def execTern (h : Hdr) (d : BitVec 8) (a b c : Src) (table : BitVec 8) (s : State) : Host.Outcome State Fault Refusal :=
  s.compute h (.tern h d a b c table) (fun s x _ => s.vec3 x d a b c (tern64 table))

/-- The number of one bits of a number of w bits. -/
def popE (w x : Nat) : Nat := ((List.range w).filter (fun i => x.testBit i)).length
/-- Leading zero bits; w for zero. -/
def clzE (w x : Nat) : Nat := w - (if x = 0 then 0 else Nat.log2 x + 1)
/-- Trailing zero bits; w for zero. -/
def ctzE (w x : Nat) : Nat := ((List.range w).find? (fun i => x.testBit i)).getD w
/-- The bits in reverse order. -/
def revE (w x : Nat) : Nat := (List.range w).foldl (fun n i => if x.testBit i then n + 2 ^ (w - 1 - i) else n) 0

/-- `popc` (R161). -/
def execPopc (h : Hdr) (t : Ty) (d : BitVec 8) (a : Src) (s : State) : Host.Outcome State Fault Refusal :=
  s.compute h (.popc h t d a) (fun s x _ => s.vec3 x d a .zero .zero (fun p q _ => elemwiseU t (fun e _ => popE t.width e) p q))
/-- `clz`. -/
def execClz (h : Hdr) (t : Ty) (d : BitVec 8) (a : Src) (s : State) : Host.Outcome State Fault Refusal :=
  s.compute h (.clz h t d a) (fun s x _ => s.vec3 x d a .zero .zero (fun p q _ => elemwiseU t (fun e _ => clzE t.width e) p q))
/-- `ctz`. -/
def execCtz (h : Hdr) (t : Ty) (d : BitVec 8) (a : Src) (s : State) : Host.Outcome State Fault Refusal :=
  s.compute h (.ctz h t d a) (fun s x _ => s.vec3 x d a .zero .zero (fun p q _ => elemwiseU t (fun e _ => ctzE t.width e) p q))
/-- `brev`. -/
def execBrev (h : Hdr) (t : Ty) (d : BitVec 8) (a : Src) (s : State) : Host.Outcome State Fault Refusal :=
  s.compute h (.brev h t d a) (fun s x _ => s.vec3 x d a .zero .zero (fun p q _ => elemwiseU t (fun e _ => revE t.width e) p q))

/-- The position and length of a field, from its control (R162). -/
def fieldOf (w : Nat) (ctl : Word) : Nat × Nat :=
  let pos := ctl.toNat % 256
  let len := ctl.toNat / 256 % 256
  if w ≤ pos then (0, 0) else (pos, min len (w - pos))
/-- A field of n bits sign-extended for a signed type. -/
def extendField (t : Ty) (n f : Nat) : Int := if t.isSigned && decide (0 < n) then signedOf n f else (f : Int)
/-- `bfx` (R162). -/
def execBfx (h : Hdr) (t : Ty) (d : BitVec 8) (a b : Src) (s : State) : Host.Outcome State Fault Refusal :=
  s.compute h (.bfx h t d a b) (fun s x _ => s.vec3 x d a b .zero (fun p q _ =>
    let (pos, len) := fieldOf t.width q
    BitVec.ofNat 64 (wrapTo t.width (extendField t len (elemU t p 0 / 2 ^ pos % 2 ^ len)))))
/-- `bfi` (R162). -/
def execBfi (h : Hdr) (t : Ty) (d : BitVec 8) (a b c : Src) (s : State) : Host.Outcome State Fault Refusal :=
  s.compute h (.bfi h t d a b c) (fun s x _ => s.vec3 x d a b c (fun p q r =>
    let (pos, len) := fieldOf t.width r
    let m := BitVec.ofNat 64 ((2 ^ len - 1) * 2 ^ pos)
    (BitVec.ofNat 64 (elemU t q 0) &&& ~~~m) ||| (BitVec.ofNat 64 (elemU t p 0 * 2 ^ pos) &&& m)))

/-! ### Selection and moves (R163) -/

/-- `sel`. -/
def execSel (h : Hdr) (d : BitVec 8) (a b : Src) (k : BitVec 3) (neg : Bool) (s : State) : Host.Outcome State Fault Refusal :=
  s.compute h (.sel h d a b k neg) (fun s x _ =>
    let p := s.getP x k.toNat
    { v := [(d.toNat, fun l => if p.getLsbD l != neg then s.srcVal x a l else s.srcVal x b l)] })
/-- `mov`. -/
def execMov (h : Hdr) (d : BitVec 8) (a : Src) (s : State) : Host.Outcome State Fault Refusal :=
  s.compute h (.mov h d a) (fun s x _ => { v := [(d.toNat, fun l => s.srcVal x a l)] })
/-- `movi`. -/
def execMovi (h : Hdr) (t : Ty) (d : BitVec 8) (imm : BitVec 32) (s : State) : Host.Outcome State Fault Refusal :=
  s.compute h (.movi h t d imm) (fun _ _ _ =>
    { v := [(d.toNat, fun _ => if t == .i64 then imm.signExtend 64 else imm.setWidth 64)] })
/-- `movi.u64.hi`: bits 31:0 are kept. -/
def execMoviHi (h : Hdr) (d : BitVec 8) (imm : BitVec 32) (s : State) : Host.Outcome State Fault Refusal :=
  s.compute h (.moviHi h d imm) (fun s x _ => { v := [(d.toNat, fun l => imm ++ (s.getV x d.toNat l).setWidth 32)] })
/-- `lea`. -/
def execLea (h : Hdr) (d : BitVec 8) (a b : Src) (sh : BitVec 3) (s : State) : Host.Outcome State Fault Refusal :=
  s.compute h (.lea h d a b sh) (fun s x _ => { v := [(d.toNat, fun l => s.srcVal x a l + (s.srcVal x b l <<< sh.toNat))] })
/-- `lea.pc`: A is the lane's own PC. -/
def execLeaPc (h : Hdr) (d : BitVec 8) (b : Src) (sh : BitVec 3) (s : State) : Host.Outcome State Fault Refusal :=
  s.compute h (.leaPc h d b sh) (fun s x _ => { v := [(d.toNat, fun l => s.ag.cur.pc + (s.srcVal x b l <<< sh.toNat))] })

/-! ### The bit stream (R164 to R168) -/

/-- The window of a register pair in a lane (R164). -/
def State.window (s : State) (x : Group) (n l : Nat) : Nat := (s.getV x n l).toNat + 2 ^ 64 * (s.getV x (n + 1) l).toNat

/-- `bs.read` (R165). -/
def execBsRead (h : Hdr) (t : Ty) (peek : Bool) (d a : BitVec 8) (b : Src) (s : State) : Host.Outcome State Fault Refusal :=
  s.perform h (.bsRead h t peek d a b) (fun x g m s =>
    let n := fun l => elemU t (s.srcVal x b l) 0 % 128
    let cur := fun l => (x.lane l).bsc.toNat
    let big := m &&& maskOf (fun l => decide (t.width < n l))
    let out := m &&& ~~~big &&& maskOf (fun l => decide (128 < cur l + n l))
    let ok := m &&& ~~~big &&& ~~~out
    let f := fun l => BitVec.ofNat 64 (wrapTo t.width (extendField t (n l) (s.window x a.toNat l / 2 ^ cur l % 2 ^ n l)))
    let s := if ok = 0 then s else s.give g h ok (latency (.bsRead h t peek d a b)) { v := [(d.toNat, f)] }
    let s := if peek then s else s.modLanes g ok (fun l y => { y with bsc := BitVec.ofNat 7 (cur l + n l) })
    ((s.advance g ok).trapAll g big .illegalEncoding (fun _ => 0)).trapAll g out .bounds (fun l => BitVec.ofNat 64 (cur l + n l)))

/-- `bs.fill` (R166). -/
def execBsFill (h : Hdr) (d : BitVec 8) (a : Src) (k : BitVec 3) (s : State) : Host.Outcome State Fault Refusal :=
  s.perform h (.bsFill h d a k) (fun x g m s =>
    let low := maskOf (fun l => decide (64 ≤ (x.lane l).bsc.toNat))
    let r : Res := { v := [(d.toNat, fun l => s.getV x (d.toNat + 1) l), (d.toNat + 1, fun l => s.srcVal x a l)],
                     p := [(k.toNat, fun l => low.getLsbD l)], vm := low }
    ((s.give g h m (latency (.bsFill h d a k)) r).modLanes g (m &&& low) (fun l y => { y with bsc := (x.lane l).bsc - 64 })).advance
      g m)

/-- The cursor that `bs.seek` would set (R167). -/
def seekTo (mode : BitVec 4) (bsc : BitVec 7) (a : Word) : Int :=
  match mode.toNat with
  | 0 => (a.toNat : Int)
  | 1 => (bsc.toNat : Int) + a.toInt
  | _ => (bsc.toNat : Int)
/-- `bs.seek` (R167). -/
def execBsSeek (h : Hdr) (mode : BitVec 4) (d : BitVec 8) (a : Src) (s : State) : Host.Outcome State Fault Refusal :=
  s.perform h (.bsSeek h mode d a) (fun x g m s =>
    let to_ := fun l => seekTo mode (x.lane l).bsc (s.srcVal x a l)
    let bad := m &&& maskOf (fun l => decide (to_ l < 0) || decide (127 < to_ l))
    let ok := m &&& ~~~bad
    let r : Res := { v := [(d.toNat, fun l => (x.lane l).bsc.setWidth 64)] }
    let s := if ok = 0 then s else s.give g h ok (latency (.bsSeek h mode d a)) r
    let s := s.modLanes g ok (fun l y => { y with bsc := BitVec.ofInt 7 (to_ l) })
    (s.advance g ok).trapAll g bad .bounds (fun l => BitVec.ofInt 64 (to_ l)))

end Sys2Proof.Machine
end

