-- ==== Sys2Proof/Machine/FloatFmt.lean ====
section
/-! DEFINITION. Floating-point formats and the one rounding (R107 to R113), exact sums (R124), and LOG6 (R115 to R119). -/

namespace Sys2Proof.Machine

/-- A binary format: exponent and fraction widths (R107). -/
structure Fmt where
  ebits : Nat
  fbits : Nat
  deriving DecidableEq, Repr

/-- The format of a type's elements. -/
def Fmt.of : Ty → Fmt
  | .f64 => { ebits := 11, fbits := 52 }
  | .f16x4 => { ebits := 5, fbits := 10 }
  | .bf16x4 => { ebits := 8, fbits := 7 }
  | _ => { ebits := 8, fbits := 23 }

/-- The bias. -/
def Fmt.bias (f : Fmt) : Int := ((2 ^ (f.ebits - 1) : Nat) : Int) - 1
/-- The weight of the sign bit. -/
def Fmt.signBit (f : Fmt) : Nat := 2 ^ (f.ebits + f.fbits)
/-- The bits of an infinity. -/
def Fmt.inf (f : Fmt) (neg : Bool) : Nat := (2 ^ f.ebits - 1) * 2 ^ f.fbits + (if neg then f.signBit else 0)
/-- The default NaN. -/
def Fmt.nan (f : Fmt) : Nat := f.inf false + 2 ^ (f.fbits - 1)
/-- The largest finite value. -/
def Fmt.most (f : Fmt) (neg : Bool) : Nat := f.inf neg - 1
/-- A zero. -/
def Fmt.zero (f : Fmt) (neg : Bool) : Nat := if neg then f.signBit else 0

/-- A floating-point value: a NaN, an infinity, or (−1)^neg × m × 2^e. -/
inductive Fp where
  | nan (signalling : Bool)
  | inf (neg : Bool)
  | num (neg : Bool) (m : Nat) (e : Int)
  deriving DecidableEq, Repr

/-- The value of bits. -/
def Fmt.read (f : Fmt) (n : Nat) : Fp :=
  let neg := decide (n / f.signBit % 2 = 1)
  let ex := n / 2 ^ f.fbits % 2 ^ f.ebits
  let fr := n % 2 ^ f.fbits
  if ex = 2 ^ f.ebits - 1 then
    if fr = 0 then .inf neg else .nan (decide (fr < 2 ^ (f.fbits - 1)))
  else if ex = 0 then .num neg fr (1 - f.bias - f.fbits)
  else .num neg (fr + 2 ^ f.fbits) ((ex : Int) - f.bias - f.fbits)

/-- A NaN. -/
def Fp.isNan : Fp → Bool
  | .nan _ => true | _ => false
/-- A signalling NaN. -/
def Fp.isSnan : Fp → Bool
  | .nan true => true | _ => false
/-- An infinity. -/
def Fp.isInf : Fp → Bool
  | .inf _ => true | _ => false
/-- A zero. -/
def Fp.isZero : Fp → Bool
  | .num _ m _ => decide (m = 0) | _ => false
/-- The sign. -/
def Fp.neg? : Fp → Bool
  | .nan _ => false | .inf s => s | .num s _ _ => s

/-! ### Rounding (R109 to R112) -/

/-- (m + ε) × 2^e, where ε lies in (0, 1) when `sticky` is set and is zero otherwise, as a multiple of 2^q: the integer that the
mode chooses, and whether it is inexact. -/
def roundAt (mode : Nat) (neg : Bool) (m : Nat) (e : Int) (sticky : Bool) (q : Int) : Nat × Bool :=
  if q ≤ e then (m * 2 ^ (e - q).toNat, sticky)
  else
    let d := (q - e).toNat
    let n := m / 2 ^ d
    let rest := m % 2 ^ d
    let half := 2 ^ (d - 1)
    let inexact := decide (rest ≠ 0) || sticky
    let up := match mode with
      | 0 => decide (half < rest) || (decide (rest = half) && (sticky || decide (n % 2 = 1)))
      | 1 => false
      | 2 => !neg && inexact
      | _ => neg && inexact
    (if up then n + 1 else n, inexact)

/-- The result of an overflow (R112). -/
def Fmt.overflow (f : Fmt) (mode : Nat) (neg : Bool) : Nat :=
  match mode with
  | 0 => f.inf neg
  | 1 => f.most neg
  | 2 => if neg then f.most true else f.inf false
  | _ => if neg then f.inf true else f.most false

/-- Round a magnitude to a format: the bits and the flags (R109, R110, R112). -/
def Fmt.round (f : Fmt) (mode : Nat) (neg : Bool) (m : Nat) (e : Int) (sticky : Bool) : Nat × FpFlags :=
  if m = 0 ∧ !sticky then (f.zero neg, 0)
  else
    let top := (Nat.log2 m : Int) + e
    let emin := 1 - f.bias
    let q0 := top - f.fbits
    let q := max q0 (emin - f.fbits)
    let free := roundAt mode neg m e sticky q0
    let past := if (2 : Nat) ^ (f.fbits + 1) ≤ free.1 then decide (f.bias < top + 1) else decide (f.bias < top)
    if past then (f.overflow mode neg, flagOF ||| flagIX)
    else
      let r := roundAt mode neg m e sticky q
      let tiny := decide (top + 1 < emin) || (decide (top < emin) && decide (free.1 < 2 ^ (f.fbits + 1)))
      let bits :=
        if r.1 < 2 ^ f.fbits then r.1
        else if r.1 = 2 ^ (f.fbits + 1) then (q + 1 + f.fbits + f.bias).toNat * 2 ^ f.fbits
        else (q + f.fbits + f.bias).toNat * 2 ^ f.fbits + (r.1 - 2 ^ f.fbits)
      (bits + f.zero neg, flagIf r.2 flagIX ||| flagIf (r.2 && tiny) flagUF)

/-! ### Exact sums (R113, R124) -/

/-- A signed term m × 2^e of a sum. -/
structure Term where
  neg : Bool
  m   : Nat
  e   : Int
  deriving DecidableEq, Repr

/-- The exact sum of terms, as an integer times 2^e for the lowest exponent. -/
def sumTerms (ts : List Term) : Int × Int :=
  let nz := ts.filter (fun t => decide (t.m ≠ 0))
  match nz with
  | [] => (0, 0)
  | t :: _ =>
    let e := nz.foldl (fun e t => min e t.e) t.e
    (nz.foldl (fun n t =>
      let v := ((t.m * 2 ^ (t.e - e).toNat : Nat) : Int)
      if t.neg then n - v else n + v) 0, e)

/-- An exact sum rounded once, with the sign of a zero result (R113). -/
def Fmt.roundSum (f : Fmt) (mode : Nat) (ts : List Term) : Nat × FpFlags :=
  let (n, e) := sumTerms ts
  if n = 0 then (f.zero ((!ts.isEmpty && ts.all (fun t => decide (t.m = 0) && t.neg)) || decide (mode = 3)), 0)
  else f.round mode (decide (n < 0)) n.natAbs e false

/-- The sum of values in the order of R124 steps 1 to 3, with the flags of R192. -/
def Fmt.sum (f : Fmt) (mode : Nat) (xs : List Fp) : Nat × FpFlags :=
  if xs.any Fp.isNan then (f.nan, flagIf (xs.any Fp.isSnan) flagNV)
  else if xs.contains (.inf false) && xs.contains (.inf true) then (f.nan, flagNV)
  else if xs.contains (.inf false) then (f.inf false, 0)
  else if xs.contains (.inf true) then (f.inf true, 0)
  else f.roundSum mode (xs.filterMap (fun x => match x with
    | .num s m e => some { neg := s, m := m, e := e }
    | _ => none))

/-! ### Add, multiply, fused multiply-add (R178) -/

/-- A + B. -/
def Fmt.add (f : Fmt) (mode : Nat) (x y : Fp) : Nat × FpFlags := f.sum mode [x, y]

/-- The product of two values that is not invalid and no NaN. -/
def Fp.times (x y : Fp) : Fp :=
  match x, y with
  | .num s m e, .num t n k => .num (s != t) (m * n) (e + k)
  | x, y => .inf (x.neg? != y.neg?)
/-- A zero times an infinity. -/
def zeroInf (x y : Fp) : Bool := (x.isZero && y.isInf) || (x.isInf && y.isZero)

/-- A × B. -/
def Fmt.mul (f : Fmt) (mode : Nat) (x y : Fp) : Nat × FpFlags :=
  let nv := flagIf (x.isSnan || y.isSnan) flagNV
  if zeroInf x y then (f.nan, flagNV)
  else if x.isNan || y.isNan then (f.nan, nv)
  else match x.times y with
    | .num s m e => f.round mode s m e false
    | p => (f.inf p.neg?, 0)

/-- A × B + C with one rounding. -/
def Fmt.fma (f : Fmt) (mode : Nat) (x y z : Fp) : Nat × FpFlags :=
  let nv := flagIf (x.isSnan || y.isSnan || z.isSnan) flagNV
  if zeroInf x y then (f.nan, flagNV)
  else if x.isNan || y.isNan || z.isNan then (f.nan, nv)
  else f.sum mode [x.times y, z]

/-! ### Order and class (R180 to R182) -/

/-- Exact comparison of two numbers or infinities; −0 equals +0. -/
def Fp.lt (x y : Fp) : Bool :=
  match x, y with
  | .inf s, .inf t => s && !t
  | .inf s, .num .. => s
  | .num .., .inf t => !t
  | .num s m e, .num t n k =>
    let lo := min e k
    let v := fun (s : Bool) (m : Nat) (e : Int) =>
      let w := ((m * 2 ^ (e - lo).toNat : Nat) : Int)
      if s then -w else w
    decide (v s m e < v t n k)
  | _, _ => false
/-- The order of `fmin` and `fmax`, with −0 below +0. -/
def Fp.below (x y : Fp) : Bool := x.lt y || (x.isZero && y.isZero && x.neg? && !y.neg?)

/-- `fmin` or `fmax` of two elements, given as bits (R180). -/
def Fmt.minmax (f : Fmt) (big nan : Bool) (a b : Nat) : Nat × FpFlags :=
  let x := f.read a
  let y := f.read b
  let nv := flagIf (x.isSnan || y.isSnan) flagNV
  if x.isNan && y.isNan then (f.nan, nv)
  else if x.isNan then (if nan then f.nan else b, nv)
  else if y.isNan then (if nan then f.nan else a, nv)
  else (if big then (if x.below y then b else a) else (if y.below x then b else a), 0)

/-- A condition of `fcmp`, and its flags (R181). -/
def fpCond (c : Nat) (x y : Fp) : Bool × FpFlags :=
  let un := x.isNan || y.isNan
  let snan := x.isSnan || y.isSnan
  let lt := x.lt y
  let gt := y.lt x
  let r := match c with
    | 0 => !un && !lt && !gt
    | 1 => un || lt || gt
    | 2 => !un && lt
    | 3 => !un && !gt
    | 4 => !un && gt
    | 5 => !un && !lt
    | 6 => un
    | _ => !un
  (r, flagIf (snan || (un && decide (2 ≤ c) && decide (c ≤ 5))) flagNV)

/-- The class of a value (R182). -/
def Fmt.class_ (f : Fmt) (n : Nat) : Nat :=
  match f.read n with
  | .nan s => if s then 2 ^ 8 else 2 ^ 9
  | .inf s => if s then 1 else 2 ^ 7
  | .num s m _ =>
    if m = 0 then (if s then 2 ^ 3 else 2 ^ 4)
    else if m < 2 ^ f.fbits then (if s then 2 ^ 2 else 2 ^ 5)
    else (if s then 2 else 2 ^ 6)

/-! ### LOG6 (R115 to R119) -/

/-- The summation table. -/
def log6T (f : Nat) : Nat :=
  match f % 4 with
  | 0 => 65536 | 1 => 77936 | 2 => 92682 | _ => 110219

/-- The value of an element (R116); `none` for NaR. -/
def log6Read (n : Nat) : Option Term :=
  let s := decide (n / 32 % 2 = 1)
  let e := n % 32
  if e = 0 then (if s then none else some { neg := false, m := 0, e := 0 })
  else some { neg := s, m := log6T e, e := ((e / 4 : Nat) : Int) - 20 }

/-- The product of two elements under scales that add to σ (R117); `none` for NaR. -/
def log6Mul (a b : Nat) (σ : Int) : Option Term :=
  let sa := decide (a / 32 % 2 = 1)
  let sb := decide (b / 32 % 2 = 1)
  let ea := a % 32
  let eb := b % 32
  if (ea = 0 ∧ sa) ∨ (eb = 0 ∧ sb) then none
  else if ea = 0 ∨ eb = 0 then some { neg := sa != sb, m := 0, e := 0 }
  else some { neg := sa != sb, m := log6T (ea + eb), e := (((ea + eb) / 4 : Nat) : Int) - 24 + σ }

/-- The element of a finite non-zero value m × 2^e (R118): round(4 log2 |x| + 16) is the greatest k with
2^(2k − 33) below |x|^8. -/
def log6Of (neg : Bool) (m : Nat) (e : Int) : Nat × FpFlags :=
  let k := ((Nat.log2 (m ^ 8) : Int) + 8 * e + 33) / 2
  if k ≤ 0 then (0, flagUF ||| flagIX)
  else if 32 ≤ k then (31 + (if neg then 32 else 0), flagOF ||| flagIX)
  else (k.toNat + (if neg then 32 else 0), flagIf (decide (m ≠ 2 ^ Nat.log2 m)) flagIX)

/-- Conversion of a floating-point value to LOG6. -/
def log6OfFp : Fp → Nat × FpFlags
  | .nan s => (32, flagIf s flagNV)
  | .inf s => (31 + (if s then 32 else 0), flagOF ||| flagIX)
  | .num s m e => if m = 0 then (0, 0) else log6Of s m e

/-! ### Conversions (R118 to R121, R184) -/

/-- A floating-point value as an integer of a type (R121). -/
def toInteger (t : Ty) (mode : Nat) : Fp → Nat × FpFlags
  | .nan _ => (0, flagNV)
  | .inf s => (wrapTo t.width (if s then tyMin t else tyMax t), flagNV)
  | .num s m e =>
    let r := roundAt mode s m e false 0
    let v := if s then -(r.1 : Int) else (r.1 : Int)
    if v < tyMin t then (wrapTo t.width (tyMin t), flagNV)
    else if tyMax t < v then (wrapTo t.width (tyMax t), flagNV)
    else (wrapTo t.width v, flagIf r.2 flagIX)

/-- The classes of element types in a conversion. -/
inductive TyClass where
  | int | fp | log
  deriving DecidableEq, Repr
/-- The class of a type. -/
def classOf (t : Ty) : TyClass := if t.isInt then .int else if t == .log6x10 then .log else .fp

/-- Convert the bits of one element from type t to type x (R184). -/
def convertElem (t x : Ty) (mode : Nat) (n : Nat) : Nat × FpFlags :=
  match classOf t, classOf x with
  | .int, .int =>
    let v := if t.isSigned then signedOf t.width n else (n : Int)
    (fitTo x true v, 0)
  | .int, .fp =>
    let v := if t.isSigned then signedOf t.width n else (n : Int)
    (Fmt.of x).round mode (decide (v < 0)) v.natAbs 0 false
  | .int, .log =>
    let v := if t.isSigned then signedOf t.width n else (n : Int)
    if v = 0 then (0, 0) else log6Of (decide (v < 0)) v.natAbs 0
  | .fp, .int => toInteger x mode ((Fmt.of t).read n)
  | .fp, .fp =>
    let f := Fmt.of x
    match (Fmt.of t).read n with
    | .nan s => (f.nan, flagIf s flagNV)
    | .inf s => (f.inf s, 0)
    | .num s m e => f.round mode s m e false
  | .fp, .log => log6OfFp ((Fmt.of t).read n)
  | .log, .int =>
    match log6Read n with
    | none => (0, flagNV)
    | some v => toInteger x mode (.num v.neg v.m v.e)
  | .log, .fp =>
    let f := Fmt.of x
    match log6Read n with
    | none => (f.nan, 0)
    | some v => f.round mode v.neg v.m v.e false
  | .log, .log => (n, 0)

end Sys2Proof.Machine
end

