-- ==== Sys2Proof/Machine/FloatMath.lean ====
section
/-! DEFINITION. Correctly rounded division, square roots, exponential, logarithm, sine and cosine (R126, R188). The results that
are not algebraic are enclosed between two fixed-point numbers; where an enclosure does not decide a rounding the result is a
free value (log 11). -/

namespace Sys2Proof.Machine

/-! ### Algebraic functions -/

/-- The integer square root, by bits from the highest. -/
def isqrtFrom : Nat → Nat → Nat → Nat
  | 0, n, r => if (r + 1) * (r + 1) ≤ n then r + 1 else r
  | i + 1, n, r => let c := r + 2 ^ (i + 1); isqrtFrom i n (if c * c ≤ n then c else r)
/-- The integer square root. -/
def isqrt (n : Nat) : Nat := isqrtFrom (Nat.log2 n / 2 + 1) n 0

/-- m / n × 2^e rounded. -/
def Fmt.quotient (f : Fmt) (mode : Nat) (neg : Bool) (m n : Nat) (e : Int) : Nat × FpFlags :=
  let k := f.fbits + 4 + Nat.log2 n
  let a := m * 2 ^ k
  f.round mode neg (a / n) (e - k) (decide (a % n ≠ 0))

/-- x / y (R126). -/
def Fmt.div (f : Fmt) (mode : Nat) (x y : Fp) : Nat × FpFlags :=
  if x.isNan || y.isNan then (f.nan, flagIf (x.isSnan || y.isSnan) flagNV)
  else
    let s := x.neg? != y.neg?
    match x, y with
    | .inf _, .inf _ => (f.nan, flagNV)
    | .inf _, _ => (f.inf s, 0)
    | _, .inf _ => (f.zero s, 0)
    | .num _ m e, .num _ n k =>
      if n = 0 then (if m = 0 then (f.nan, flagNV) else (f.inf s, flagDZ))
      else f.quotient mode s m n (e - k)
    | _, _ => (f.nan, 0)

/-- 1 / x. -/
def Fmt.rcp (f : Fmt) (mode : Nat) (x : Fp) : Nat × FpFlags := f.div mode (.num false 1 0) x

/-- A magnitude with an even exponent. -/
def evenExp (m : Nat) (e : Int) : Nat × Int := if e % 2 = 0 then (m, e) else (2 * m, e - 1)

/-- √x (R126). -/
def Fmt.sqrt (f : Fmt) (mode : Nat) (x : Fp) : Nat × FpFlags :=
  match x with
  | .nan s => (f.nan, flagIf s flagNV)
  | .inf s => if s then (f.nan, flagNV) else (f.inf false, 0)
  | .num s m e =>
    if m = 0 then (f.zero s, 0)
    else if s then (f.nan, flagNV)
    else
      let (m, e) := evenExp m e
      let k := f.fbits + 4
      let a := m * 2 ^ (2 * k)
      let r := isqrt a
      f.round mode false r (e / 2 - k) (decide (r * r ≠ a))

/-- 1 / √x (R126). -/
def Fmt.rsqrt (f : Fmt) (mode : Nat) (x : Fp) : Nat × FpFlags :=
  match x with
  | .nan s => (f.nan, flagIf s flagNV)
  | .inf s => if s then (f.nan, flagNV) else (f.zero false, 0)
  | .num s m e =>
    if m = 0 then (f.inf s, flagDZ)
    else if s then (f.nan, flagNV)
    else
      let (m, e) := evenExp m e
      let k := f.fbits + 4 + Nat.log2 m
      let a := 2 ^ (2 * k)
      let r := isqrt (a / m)
      f.round mode false r (-(e / 2) - k) (decide (r * r * m ≠ a))

/-! ### Enclosures: numbers n / 2^192 -/

/-- The scale. -/
def fx : Nat := 192
/-- One. -/
def fxOne : Nat := 2 ^ fx

/-- An interval of non-negative numbers at the scale. -/
structure Encl where
  lo : Nat
  hi : Nat
  deriving DecidableEq, Repr

/-- Σ 1 / ((2k + 1) n^(2k+1)) with alternating signs or not, times c × 2^p, truncated: `pow` is c × 2^p / n^(2k+1). -/
def atanTerms : Nat → Bool → Nat → Nat → Nat → Int
  | 0, _, _, _, _ => 0
  | i + 1, alt, n2, pow, k =>
    let t := ((pow / (2 * k + 1) : Nat) : Int)
    (if alt && decide (k % 2 = 1) then -t else t) + atanTerms i alt n2 (pow / n2) (k + 1)

/-- ln 2 = 2 atanh(1/3), enclosed at the scale. -/
def ln2Encl : Encl :=
  let n := (atanTerms 80 false 9 (2 * fxOne / 3) 0).toNat
  { lo := n, hi := n + 200 }

/-- The scale of π, 512 bits. -/
def piScale : Nat := 512
/-- π = 16 atan(1/5) − 4 atan(1/239), enclosed at its scale. -/
def piEncl : Encl :=
  let n := (atanTerms 120 true 25 (16 * 2 ^ piScale / 5) 0 - atanTerms 40 true (239 * 239) (4 * 2 ^ piScale / 239) 0).toNat
  { lo := n - 400, hi := n + 400 }

/-- e^y for y in [0, 1), by its series: the terms y^k / k! rounded down. -/
def expTerms : Nat → Nat → Nat → Nat → Nat
  | 0, _, _, _ => 0
  | i + 1, y, t, k => t + expTerms i y (t * y / fxOne / k) (k + 1)
/-- e^y enclosed. -/
def expEncl (y : Encl) : Encl := { lo := expTerms 60 y.lo fxOne 1, hi := expTerms 60 y.hi fxOne 1 + 300 }

/-- ln of a ratio m / n in [1, 2]: 2 atanh((m − n) / (m + n)). -/
def lnTerms : Nat → Nat → Nat → Nat → Nat
  | 0, _, _, _ => 0
  | i + 1, z2, p, k => p / (2 * k + 1) + lnTerms i z2 (p * z2 / fxOne) (k + 1)
/-- ln (m / n) enclosed. -/
def lnEncl (m n : Nat) : Encl :=
  let z := (m - n) * fxOne / (m + n)
  let v := 2 * lnTerms 70 (z * z / fxOne) z 0
  { lo := v, hi := v + 600 }

/-- sin or cos of y in [0, 1): the terms y^k / k! from an odd or even k, with alternating signs. -/
def trigTerms : Nat → Nat → Nat → Nat → Bool → Int
  | 0, _, _, _, _ => 0
  | i + 1, y2, t, k, minus =>
    (if minus then -(t : Int) else t) + trigTerms i y2 (t * y2 / fxOne / ((k + 1) * (k + 2))) (k + 2) (!minus)
/-- sin y enclosed. -/
def sinEncl (y : Encl) : Encl :=
  let at_ := fun (y : Nat) => (trigTerms 40 (y * y / fxOne) y 1 false).toNat
  { lo := at_ y.lo - 300, hi := at_ y.hi + 300 }
/-- cos y enclosed: it falls with y. -/
def cosEncl (y : Encl) : Encl :=
  let at_ := fun (y : Nat) => (trigTerms 40 (y * y / fxOne) fxOne 0 false).toNat
  { lo := at_ y.hi - 300, hi := at_ y.lo + 300 }

/-- Round an irrational magnitude that lies in an enclosure at a scale; `none` when the enclosure does not decide it. -/
def Fmt.roundEncl (f : Fmt) (mode : Nat) (neg : Bool) (c : Encl) (scale : Int) : Option (Nat × FpFlags) :=
  let drop := Nat.log2 c.lo - (f.fbits + 40)
  if c.lo ≠ 0 ∧ c.lo / 2 ^ drop = c.hi / 2 ^ drop then some (f.round mode neg (c.lo / 2 ^ drop) (drop - scale) true) else none

/-- A result that no enclosure decides is free. -/
def Fmt.orFree (f : Fmt) (free : Word) (r : Option (Nat × FpFlags)) : Nat × FpFlags :=
  r.getD (free.toNat % (2 * f.signBit), flagIX)

/-! ### Exponential and logarithm -/

/-- 2^x (R126). -/
def Fmt.exp2 (f : Fmt) (mode : Nat) (free : Word) (x : Fp) : Nat × FpFlags :=
  match x with
  | .nan s => (f.nan, flagIf s flagNV)
  | .inf s => if s then (f.zero false, 0) else (f.inf false, 0)
  | .num s m e =>
    if m = 0 then f.round mode false 1 0 false
    else if 10 ≤ (Nat.log2 m : Int) + e then f.round mode false 1 (if s then -2000 else 2000) s
    else if (Nat.log2 m : Int) + e < -60 then
      (if s then f.round mode false (2 ^ 60 - 1) (-60) true else f.round mode false (2 ^ 60) (-60) true)
    else
      let v : Int := (if s then -1 else 1) * ((m * 2 ^ (e + fx).toNat : Nat) : Int)
      let n := v / (fxOne : Int)
      let r := (v - n * fxOne).toNat
      if r = 0 then f.round mode false 1 n false
      else
        let y : Encl := { lo := r * ln2Encl.lo / fxOne, hi := r * ln2Encl.hi / fxOne + 1 }
        f.orFree free (f.roundEncl mode false (expEncl y) ((fx : Int) - n))

/-- log2 x (R126). -/
def Fmt.log2 (f : Fmt) (mode : Nat) (free : Word) (x : Fp) : Nat × FpFlags :=
  match x with
  | .nan s => (f.nan, flagIf s flagNV)
  | .inf s => if s then (f.nan, flagNV) else (f.inf false, 0)
  | .num s m e =>
    if m = 0 then (f.inf true, flagDZ)
    else if s then (f.nan, flagNV)
    else
      let k := Nat.log2 m
      let n : Int := (k : Int) + e
      if m = 2 ^ k then f.round mode (decide (n < 0)) n.natAbs 0 false
      else
        let c := lnEncl m (2 ^ k)
        let lo := c.lo * fxOne / ln2Encl.hi
        let hi := c.hi * fxOne / ln2Encl.lo + 1
        let base := n * (fxOne : Int)
        if 0 ≤ n then f.orFree free (f.roundEncl mode false { lo := (base + lo).toNat, hi := (base + hi).toNat } fx)
        else f.orFree free (f.roundEncl mode true { lo := (-(base + hi)).toNat, hi := (-(base + lo)).toNat } fx)

/-! ### Sine and cosine -/

/-- |x| = k × π/4 + r with 0 ≤ r < π/4, enclosed: k and r at the scale. -/
def reduceTrig (m : Nat) (e : Int) : Nat × Encl :=
  let a := m * 2 ^ (e + piScale).toNat
  let k := 4 * a / piEncl.hi
  let down := 2 ^ (piScale - fx)
  (k, { lo := (a - k * piEncl.hi / 4 - 1) / down, hi := (a - k * piEncl.lo / 4 + 1) / down + 1 })

/-- π/4 − r. -/
def fromQuarter (r : Encl) : Encl :=
  let down := 2 ^ (piScale - fx)
  { lo := piEncl.lo / 4 / down - r.hi, hi := piEncl.hi / 4 / down + 1 - r.lo }

/-- The sign and magnitude of sin x or cos x for x = ±(kπ/4 + r). -/
def trigOf (cosine neg : Bool) (k : Nat) (r : Encl) : Bool × Encl :=
  let k := if cosine then k + 2 else k
  let s := (decide (4 ≤ k % 8)) != (neg && !cosine)
  match k % 4 with
  | 0 => (s, sinEncl r)
  | 1 => (s, cosEncl (fromQuarter r))
  | 2 => (s, cosEncl r)
  | _ => (s, sinEncl (fromQuarter r))

/-- sin x (R126). -/
def Fmt.sin (f : Fmt) (mode : Nat) (free : Word) (x : Fp) : Nat × FpFlags :=
  match x with
  | .nan s => (f.nan, flagIf s flagNV)
  | .inf _ => (f.nan, flagNV)
  | .num s m e =>
    if m = 0 then (f.zero s, 0)
    else if (Nat.log2 m : Int) + e < -40 then f.round mode s (m * 2 ^ 60 - 1) (e - 60) true
    else
      let (k, r) := reduceTrig m e
      let (t, c) := trigOf false s k r
      f.orFree free (f.roundEncl mode t c fx)

/-- cos x (R126). -/
def Fmt.cos (f : Fmt) (mode : Nat) (free : Word) (x : Fp) : Nat × FpFlags :=
  match x with
  | .nan s => (f.nan, flagIf s flagNV)
  | .inf _ => (f.nan, flagNV)
  | .num s m e =>
    if m = 0 then f.round mode false 1 0 false
    else if (Nat.log2 m : Int) + e < -40 then f.round mode false (2 ^ 60 - 1) (-60) true
    else
      let (k, r) := reduceTrig m e
      let (t, c) := trigOf true s k r
      f.orFree free (f.roundEncl mode t c fx)

end Sys2Proof.Machine
end

