-- ==== Sys2Proof/Machine/Float.lean ====
section
/-! DEFINITION. The floating-point instructions (R175 to R188). -/

namespace Sys2Proof.Machine

/-! ### Elements with their modifiers (R177) -/

/-- A modifier on the bits of one element of a format. -/
def modElem (f : Fmt) (m : Mod) (n : Nat) : Nat :=
  let n := if m.abs then n % f.signBit else n
  if m.neg then (if n / f.signBit % 2 = 1 then n - f.signBit else n + f.signBit) else n
/-- The modified bits of element k. -/
def fElem (t : Ty) (m : Mod) (x : Word) (k : Nat) : Nat :=
  if t.isFloat then modElem (Fmt.of t) m (elemU t x k) else elemU t x k
/-- Its value. -/
def fVal (t : Ty) (m : Mod) (x : Word) (k : Nat) : Fp := (Fmt.of t).read (fElem t m x k)

/-- The value and flags of an operation made for every element (R114). -/
def eachElem (t : Ty) (f : Nat → Nat × FpFlags) : Word × FpFlags :=
  (packElems t (fun k => (f k).1), (List.range t.count).foldl (fun r k => r ||| (f k).2) 0)

/-- A free value for an element of a lane (log 11). -/
def State.freeElem (s : State) (l k : Nat) : Word := s.freeW (2 ^ 27 + 64 * l + k)

/-- A function of one modified source. -/
def State.fp1 (s : State) (h : Hdr) (i : Instr) (t : Ty) (r : Rnd) (d : BitVec 8) (a : Src) (ma : Mod)
    (f : Fmt → Nat → Word → Fp → Nat × FpFlags) : Host.Outcome State Fault Refusal :=
  s.fpCompute h i d (fun s x _ l =>
    let p := s.srcVal x a l
    let mode := modeOf r (x.lane l)
    eachElem t (fun k => f (Fmt.of t) mode (s.freeElem l k) (fVal t ma p k)))
/-- A function of two modified sources. -/
def State.fp2 (s : State) (h : Hdr) (i : Instr) (t : Ty) (r : Rnd) (d : BitVec 8) (a b : Src) (ma mb : Mod)
    (f : Fmt → Nat → Fp → Fp → Nat × FpFlags) : Host.Outcome State Fault Refusal :=
  s.fpCompute h i d (fun s x _ l =>
    let p := s.srcVal x a l
    let q := s.srcVal x b l
    let mode := modeOf r (x.lane l)
    eachElem t (fun k => f (Fmt.of t) mode (fVal t ma p k) (fVal t mb q k)))

/-! ### Arithmetic (R178) -/

/-- `fadd`. -/
def execFadd (h : Hdr) (t : Ty) (r : Rnd) (d : BitVec 8) (a b : Src) (ma mb : Mod) (s : State) : Host.Outcome State Fault Refusal :=
  s.fp2 h (.fadd h t r d a b ma mb) t r d a b ma mb Fmt.add
/-- `fmul`. -/
def execFmul (h : Hdr) (t : Ty) (r : Rnd) (d : BitVec 8) (a b : Src) (ma mb : Mod) (s : State) : Host.Outcome State Fault Refusal :=
  s.fp2 h (.fmul h t r d a b ma mb) t r d a b ma mb Fmt.mul
/-- `ffma`. -/
def execFfma (h : Hdr) (t : Ty) (r : Rnd) (d : BitVec 8) (a b c : Src) (ma mb mc : Mod) (s : State) :
    Host.Outcome State Fault Refusal :=
  s.fpCompute h (.ffma h t r d a b c ma mb mc) d (fun s x _ l =>
    let p := s.srcVal x a l
    let q := s.srcVal x b l
    let w := s.srcVal x c l
    let mode := modeOf r (x.lane l)
    eachElem t (fun k => (Fmt.of t).fma mode (fVal t ma p k) (fVal t mb q k) (fVal t mc w k)))

/-! ### Minimum, maximum, compare and class (R180 to R182) -/

/-- `fmin` and `fmax`. -/
def State.fminmax (s : State) (h : Hdr) (i : Instr) (t : Ty) (big nan : Bool) (d : BitVec 8) (a b : Src) (ma mb : Mod) :
    Host.Outcome State Fault Refusal :=
  s.fpCompute h i d (fun s x _ l =>
    let p := s.srcVal x a l
    let q := s.srcVal x b l
    eachElem t (fun k => (Fmt.of t).minmax big nan (fElem t ma p k) (fElem t mb q k)))
/-- `fmin`. -/
def execFmin (h : Hdr) (t : Ty) (nan : Bool) (d : BitVec 8) (a b : Src) (ma mb : Mod) (s : State) :
    Host.Outcome State Fault Refusal :=
  s.fminmax h (.fmin h t nan d a b ma mb) t false nan d a b ma mb
/-- `fmax`. -/
def execFmax (h : Hdr) (t : Ty) (nan : Bool) (d : BitVec 8) (a b : Src) (ma mb : Mod) (s : State) :
    Host.Outcome State Fault Refusal :=
  s.fminmax h (.fmax h t nan d a b ma mb) t true nan d a b ma mb

/-- The truth and the flags of an `fcmp` in a lane. -/
def fcmpLane (t : Ty) (cond : BitVec 3) (any : Bool) (ma mb : Mod) (p q : Word) : Bool × FpFlags :=
  let one := fun k => fpCond cond.toNat (fVal t ma p k) (fVal t mb q k)
  (overElems t any (fun k => (one k).1), (List.range t.count).foldl (fun r k => r ||| (one k).2) 0)
/-- `fcmp` (R181). -/
def execFcmp (h : Hdr) (t : Ty) (cond : BitVec 3) (any : Bool) (d : BitVec 8) (a b : Src) (ma mb : Mod) (s : State) :
    Host.Outcome State Fault Refusal :=
  s.perform h (.fcmp h t cond any d a b ma mb) (fun x g m s =>
    let f := fun l => fcmpLane t cond any ma mb (s.srcVal x a l) (s.srcVal x b l)
    let s' := s.give g h m (latency (.fcmp h t cond any d a b ma mb)) { p := [(d.toNat, fun l => (f l).1)] }
    (s'.modLanes g m (fun l y => y.raise (f l).2)).advance g m)
/-- `fclass` (R182). -/
def execFclass (h : Hdr) (t : Ty) (d : BitVec 8) (a : Src) (ma : Mod) (s : State) : Host.Outcome State Fault Refusal :=
  s.fpCompute h (.fclass h t d a ma) d (fun s x _ l =>
    let p := s.srcVal x a l
    eachElem t (fun k => ((Fmt.of t).class_ (fElem t ma p k), 0)))

/-! ### Conversions (R183 to R185) -/

/-- A whole destination from part of the source (R183). -/
def convertPart (t x : Ty) (part mode : Nat) (ma : Mod) (p : Word) : Word × FpFlags :=
  eachElem x (fun k => convertElem t x mode (fElem t ma p (part * x.count + k)))
/-- `fcvt`. -/
def execFcvt (h : Hdr) (t x : Ty) (part : BitVec 4) (r : Rnd) (d : BitVec 8) (a : Src) (ma : Mod) (s : State) :
    Host.Outcome State Fault Refusal :=
  s.fpCompute h (.fcvt h t x part r d a ma) d (fun s y _ l =>
    convertPart t x part.toNat (modeOf r (y.lane l)) ma (s.srcVal y a l))
/-- `icvt`. -/
def execIcvt (h : Hdr) (t x : Ty) (part : BitVec 4) (r : Rnd) (d : BitVec 8) (a : Src) (s : State) :
    Host.Outcome State Fault Refusal :=
  s.fpCompute h (.icvt h t x part r d a) d (fun s y _ l =>
    convertPart t x part.toNat (modeOf r (y.lane l)) { abs := false, neg := false } (s.srcVal y a l))
/-- `fcvti`. -/
def execFcvti (h : Hdr) (t x : Ty) (part : BitVec 4) (r : Rnd) (d : BitVec 8) (a : Src) (ma : Mod) (s : State) :
    Host.Outcome State Fault Refusal :=
  s.fpCompute h (.fcvti h t x part r d a ma) d (fun s y _ l =>
    convertPart t x part.toNat (modeOf r (y.lane l)) ma (s.srcVal y a l))
/-- The packed result of a lane: the converted elements at their places, the others from `b` (R185). -/
def packLane (t x : Ty) (part mode : Nat) (ma mb : Mod) (p q : Word) : Word × FpFlags :=
  eachElem x (fun k =>
    if part ≤ k ∧ k < part + t.count then convertElem t x mode (fElem t ma p (k - part)) else (fElem x mb q k, 0))
/-- `pack`. -/
def execPack (h : Hdr) (t x : Ty) (part : BitVec 4) (r : Rnd) (d : BitVec 8) (a b : Src) (ma mb : Mod) (s : State) :
    Host.Outcome State Fault Refusal :=
  s.fpCompute h (.pack h t x part r d a b ma mb) d (fun s y _ l =>
    packLane t x part.toNat (modeOf r (y.lane l)) ma mb (s.srcVal y a l) (s.srcVal y b l))

/-! ### Scaling and rounding to integral (R186, R187) -/

/-- x × 2^n; beyond 8,192 in magnitude every n gives the same result. -/
def Fmt.scale (f : Fmt) (mode : Nat) (n : Int) : Fp → Nat × FpFlags
  | .nan s => (f.nan, flagIf s flagNV)
  | .inf s => (f.inf s, 0)
  | .num s m e => if m = 0 then (f.zero s, 0) else f.round mode s m (e + max (-8192) (min n 8192)) false
/-- `fscale`. -/
def execFscale (h : Hdr) (t : Ty) (r : Rnd) (d : BitVec 8) (a b : Src) (ma : Mod) (s : State) : Host.Outcome State Fault Refusal :=
  s.fpCompute h (.fscale h t r d a b ma) d (fun s x _ l =>
    let p := s.srcVal x a l
    let q := s.srcVal x b l
    eachElem t (fun k => (Fmt.of t).scale (modeOf r (x.lane l)) (signedOf t.width (elemU t q k)) (fVal t ma p k)))

/-- An integral value of the format. -/
def Fmt.integral (f : Fmt) (mode : Nat) (ix : Bool) : Fp → Nat × FpFlags
  | .nan s => (f.nan, flagIf s flagNV)
  | .inf s => (f.inf s, 0)
  | .num s m e =>
    if m = 0 then (f.zero s, 0)
    else
      let r := roundAt mode s m (min e 0) false 0
      let r := if 0 ≤ e then (m * 2 ^ e.toNat, false) else r
      ((f.round mode s r.1 0 false).1, flagIf (ix && r.2) flagIX)
/-- `frnd`. -/
def execFrnd (h : Hdr) (t : Ty) (ix : Bool) (r : Rnd) (d : BitVec 8) (a : Src) (ma : Mod) (s : State) :
    Host.Outcome State Fault Refusal :=
  s.fp1 h (.frnd h t ix r d a ma) t r d a ma (fun f mode _ v => f.integral mode ix v)

/-! ### Special functions (R188) -/

/-- `frcp`. -/
def execFrcp (h : Hdr) (t : Ty) (r : Rnd) (d : BitVec 8) (a : Src) (ma : Mod) (s : State) : Host.Outcome State Fault Refusal :=
  s.fp1 h (.frcp h t r d a ma) t r d a ma (fun f mode _ v => f.rcp mode v)
/-- `frsq`. -/
def execFrsq (h : Hdr) (t : Ty) (r : Rnd) (d : BitVec 8) (a : Src) (ma : Mod) (s : State) : Host.Outcome State Fault Refusal :=
  s.fp1 h (.frsq h t r d a ma) t r d a ma (fun f mode _ v => f.rsqrt mode v)
/-- `fsqrt`. -/
def execFsqrt (h : Hdr) (t : Ty) (r : Rnd) (d : BitVec 8) (a : Src) (ma : Mod) (s : State) : Host.Outcome State Fault Refusal :=
  s.fp1 h (.fsqrt h t r d a ma) t r d a ma (fun f mode _ v => f.sqrt mode v)
/-- `fdiv`. -/
def execFdiv (h : Hdr) (t : Ty) (r : Rnd) (d : BitVec 8) (a b : Src) (ma mb : Mod) (s : State) : Host.Outcome State Fault Refusal :=
  s.fp2 h (.fdiv h t r d a b ma mb) t r d a b ma mb Fmt.div
/-- `fex2`. -/
def execFex2 (h : Hdr) (t : Ty) (r : Rnd) (d : BitVec 8) (a : Src) (ma : Mod) (s : State) : Host.Outcome State Fault Refusal :=
  s.fp1 h (.fex2 h t r d a ma) t r d a ma (fun f mode w v => f.exp2 mode w v)
/-- `flg2`. -/
def execFlg2 (h : Hdr) (t : Ty) (r : Rnd) (d : BitVec 8) (a : Src) (ma : Mod) (s : State) : Host.Outcome State Fault Refusal :=
  s.fp1 h (.flg2 h t r d a ma) t r d a ma (fun f mode w v => f.log2 mode w v)
/-- `fsin`. -/
def execFsin (h : Hdr) (t : Ty) (r : Rnd) (d : BitVec 8) (a : Src) (ma : Mod) (s : State) : Host.Outcome State Fault Refusal :=
  s.fp1 h (.fsin h t r d a ma) t r d a ma (fun f mode w v => f.sin mode w v)
/-- `fcos`. -/
def execFcos (h : Hdr) (t : Ty) (r : Rnd) (d : BitVec 8) (a : Src) (ma : Mod) (s : State) : Host.Outcome State Fault Refusal :=
  s.fp1 h (.fcos h t r d a ma) t r d a ma (fun f mode w v => f.cos mode w v)

end Sys2Proof.Machine
end

