-- ==== Sys2Proof/Machine/Control.lean ====
section
/-! DEFINITION. Control instructions (R146 to R156): transfers, leaving, rejoining, `yield`, `sleep`, traps, predicates and votes. -/

namespace Sys2Proof.Machine

/-- The target of a relative transfer (R147). -/
def relTarget (pc : Word) (loff : BitVec 32) (slot : BitVec 3) : Word :=
  pcLine pc + (loff.signExtend 64 <<< 6) + slot.setWidth 64

/-- Lanes transfer to their targets; a target that R38 refuses traps at the transfer (R147). -/
def State.transfer (s : State) (g : Nat) (m : LaneMask) (t : Nat → Word) : State :=
  let bad := maskOf (fun l => m.getLsbD l && !okPc (t l))
  (s.modLanes g (m &&& ~~~bad) (fun l y => y.goto (t l))).trapAll g bad .illegalTarget t

/-- `bra` (R146, R147). -/
def execBra (h : Hdr) (loff : BitVec 32) (slot : BitVec 3) (s : State) : Host.Outcome State Fault Refusal :=
  s.perform h (.bra h loff slot) (fun _ g m s => s.transfer g m (fun _ => relTarget s.ag.cur.pc loff slot))

/-- `brx` through a vector register. -/
def execBrx (h : Hdr) (lr : BitVec 8) (s : State) : Host.Outcome State Fault Refusal :=
  s.perform h (.brx h lr) (fun x g m s => s.transfer g m (fun l => s.getV x lr.toNat l))

/-- `brx.u` through a uniform register. -/
def execBrxU (h : Hdr) (lr : BitVec 8) (s : State) : Host.Outcome State Fault Refusal :=
  s.perform h (.brxU h lr) (fun x g m s => s.transfer g m (fun l => s.getS x lr.toNat l))

/-- A call: the return PC is written by the lanes that do not trap, and they transfer (R147). -/
def State.call (s : State) (g : Nat) (m : LaneMask) (h : Hdr) (i : Instr) (lr : BitVec 8) (t : Nat → Word) : State :=
  let ok := m &&& maskOf (fun l => okPc (t l))
  let pc := s.ag.cur.pc
  let s := if ok = 0 then s else s.give g h ok (latency i) { v := [(lr.toNat, fun _ => nextPc pc)] }
  s.transfer g m t

/-- `call` (R146, R147). -/
def execCall (h : Hdr) (lr : BitVec 8) (loff : BitVec 32) (slot : BitVec 3) (s : State) : Host.Outcome State Fault Refusal :=
  s.perform h (.call h lr loff slot) (fun _ g m s =>
    s.call g m h (.call h lr loff slot) lr (fun _ => relTarget s.ag.cur.pc loff slot))

/-- `call.r`: the target register is read before the return register is written. -/
def execCallR (h : Hdr) (lr tr : BitVec 8) (s : State) : Host.Outcome State Fault Refusal :=
  s.perform h (.callR h lr tr) (fun x g m s => s.call g m h (.callR h lr tr) lr (fun l => s.getV x tr.toNat l))

/-- `ret` (R147). -/
def execRet (h : Hdr) (lr : BitVec 8) (s : State) : Host.Outcome State Fault Refusal :=
  s.perform h (.ret h lr) (fun x g m s => s.transfer g m (fun l => s.getV x lr.toNat l))

/-- `exit`: the lanes leave their group; a helper lane stops issuing, with its rejoin bits cleared, and leaves with its quad (R17,
R150). -/
def execExit (h : Hdr) (s : State) : Host.Outcome State Fault Refusal :=
  s.perform h (.exit h) (fun x g m s =>
    ((s.modLanes g (m &&& x.helpers) (fun _ y => { y with done := true })).modGroup g (fun x => x.dropJ m)).leave [(g, m &&& ~~~x.helpers)])

/-- `join.enrol` (R51, R52). -/
def execJoinEnrol (h : Hdr) (jn : BitVec 4) (s : State) : Host.Outcome State Fault Refusal :=
  s.perform h (.joinEnrol h jn) (fun _ g m s =>
    ((s.modGroup g (fun x => x.putJ jn.toNat (x.getJ jn.toNat ||| m))).advance g m).rejoin g jn.toNat)

/-- `join.wait`: lanes whose bit is set wait in REJOIN until the mask is complete; the others pass (R51, R52). -/
def execJoinWait (h : Hdr) (jn : BitVec 4) (s : State) : Host.Outcome State Fault Refusal :=
  s.perform h (.joinWait h jn) (fun x g m s =>
    let w := m &&& x.getJ jn.toNat
    let s := s.advance g (m &&& ~~~w)
    if w = 0 then s else ((s.hold g w .rejoin (.joinWait h jn) []).2).rejoin g jn.toNat)

/-- `join.leave` (R51, R52). -/
def execJoinLeave (h : Hdr) (jn : BitVec 4) (s : State) : Host.Outcome State Fault Refusal :=
  s.perform h (.joinLeave h jn) (fun _ g m s =>
    ((s.modGroup g (fun x => x.putJ jn.toNat (x.getJ jn.toNat &&& ~~~m))).advance g m).rejoin g jn.toNat)

/-- `yield`: the PC advances, then the window of 64 cycles opens (R49). -/
def execYield (h : Hdr) (s : State) : Host.Outcome State Fault Refusal :=
  s.perform h (.yield h) (fun _ g m s =>
    let till := s.ag.cycle + 64
    let s := (s.advance g m).modLanes g m (fun _ y => if y.wait = .running then { y with wait := .yield, yieldEnd := till } else y)
    ((lanesOf m).foldl (fun s l => s.after 64 (.yieldWindowEnd g l)) s).count (s.group g).part 0x0008 1)

/-- `nop` (R149). -/
def execNop (h : Hdr) (s : State) : Host.Outcome State Fault Refusal :=
  s.act h (.nop h) (fun _ _ _ s => s)

/-- `trap`: SOFTWARE with the code as address (R153). -/
def execTrap (h : Hdr) (code : BitVec 16) (s : State) : Host.Outcome State Fault Refusal :=
  s.perform h (.trap h code) (fun _ g m s => s.trapAll g m .software (fun _ => code.setWidth 64))

/-- `brk`: BREAKPOINT, or STOPPED at the `brk` while a debugger is attached to the launch (R153, R154). -/
def execBrk (h : Hdr) (id : BitVec 16) (s : State) : Host.Outcome State Fault Refusal :=
  s.perform h (.brk h id) (fun _ g m s =>
    if (s.launch (s.launchOf g)).attach then
      s.modLanes g m (fun _ y => { y with wait := .stopped, remembered := .running, brkDone := true, stepping := false, met := false, passed := 0 })
    else s.trapAll g m .breakpoint (fun _ => id.setWidth 64))

/-- Bit n of an 8-entry truth table. -/
def tableBit (t : BitVec 8) (a b c : Bool) : Bool := t.getLsbD (a.toNat + 2 * b.toNat + 4 * c.toNat)

/-- `plop` (R155). -/
def execPlop (h : Hdr) (d : BitVec 8) (a b c : Src) (table : BitVec 8) (s : State) : Host.Outcome State Fault Refusal :=
  s.compute h (.plop h d a b c table) (fun s x _ =>
    let bit := fun (a : Src) (l : Nat) => (s.maskVal x a l).getLsbD l
    { p := [(d.toNat, fun l => tableBit table (bit a l) (bit b l) (bit c l))] })

/-- `lmask.every` (R156). -/
def execLmaskEvery (h : Hdr) (d : BitVec 8) (a : Src) (s : State) : Host.Outcome State Fault Refusal :=
  s.compute h (.lmaskEvery h d a) (fun s x m =>
    { p := [(d.toNat, fun l => decide (m &&& s.maskVal x a l = m))] })

/-- `lmask.some` (R156). -/
def execLmaskSome (h : Hdr) (d : BitVec 8) (a : Src) (s : State) : Host.Outcome State Fault Refusal :=
  s.compute h (.lmaskSome h d a) (fun s x m =>
    { p := [(d.toNat, fun l => decide (m &&& s.maskVal x a l ≠ 0))] })

/-- `lmask.alike` (R156). -/
def execLmaskAlike (h : Hdr) (d : BitVec 8) (a : Src) (s : State) : Host.Outcome State Fault Refusal :=
  s.compute h (.lmaskAlike h d a) (fun s x m =>
    let p := fun l => m &&& s.maskVal x a l
    { p := [(d.toNat, fun l => decide (p l = m) || decide (p l = 0))] })

/-- `lmask.bits` (R156). -/
def execLmaskBits (h : Hdr) (d : BitVec 8) (a : Src) (s : State) : Host.Outcome State Fault Refusal :=
  s.compute h (.lmaskBits h d a) (fun s x m => { v := [(d.toNat, fun l => m ++ (m &&& s.maskVal x a l))] })

/-- `lmask.count` (R156). -/
def execLmaskCount (h : Hdr) (d : BitVec 8) (a : Src) (s : State) : Host.Outcome State Fault Refusal :=
  s.compute h (.lmaskCount h d a) (fun s x m =>
    { v := [(d.toNat, fun l => BitVec.ofNat 64 (countMask (m &&& s.maskVal x a l) + 2 ^ 32 * countMask m))] })

/-- `lmask.rank` (R156). -/
def execLmaskRank (h : Hdr) (d : BitVec 8) (a : Src) (s : State) : Host.Outcome State Fault Refusal :=
  s.compute h (.lmaskRank h d a) (fun s x m =>
    { v := [(d.toNat, fun l => BitVec.ofNat 64 ((lanesOf (m &&& s.maskVal x a l)).filter (fun k => decide (k < l))).length)] })

/-- `sleep`: the PC advances, and a lane with a duration sleeps until its deadline (R151). -/
def execSleep (h : Hdr) (a : Src) (imm : BitVec 32) (s : State) : Host.Outcome State Fault Refusal :=
  s.perform h (.sleep h a imm) (fun x g m s =>
    (lanesOf m).foldl (fun s l =>
      let d := imm.toNat + ((s.srcVal x a l).setWidth 32).toNat
      if d = 0 then s.advance g (bit1 l)
      else
        let due := s.ag.clock + d
        let s := s.modLane g l (fun y =>
          { y with pc := nextPc y.pc, entry := if pcSlot y.pc < 4 then y.entry else .fall, wait := .sleep, waitId := 0,
                   deadline := due, passed := 0 })
        s.atNs due (.sleepDeadline g l)) s)

end Sys2Proof.Machine
end

