-- ==== Sys2Proof/Machine/Residency.lean ====
section
/-! DEFINITION. Residence of DWS frames (R351, R358 to R360): which frames of a CD are free, making a frame resident, evicting
one to its backing page, and moving bytes with their poison. -/

namespace Sys2Proof.Machine

/-- The cells of n bytes at a, moved to b. -/
def Mem.cut (m : Mem) (a n b : Nat) : Mem :=
  (m.filter (fun c => decide (a ≤ c.1) && decide (c.1 < a + n))).map (fun c => (c.1 - a + b, c.2))
/-- Write the cells of a cut over n bytes. -/
def Mem.paste (m : Mem) (b n : Nat) (cells : Mem) : Mem :=
  cells.foldl (fun m c => Map.put m 0 c.1 c.2) (Mem.clear m b n)

/-- Copy n bytes between places, poison with them (R424). -/
def State.movePlace (s : State) (src dst : Place) (n : Nat) : State :=
  let cells := match src.kind with
    | 0 => Mem.cut s.mems.dram src.addr n dst.addr
    | 1 => Mem.cut s.mems.host src.addr n dst.addr
    | _ => Mem.cut s.mems.dws src.addr n dst.addr
  let sick := (unitsOf src.addr n 8).filter (fun u => s.poisonAt { src with addr := 8 * u } 8)
  let s := match dst.kind with
    | 0 => { s with mems := { s.mems with dram := Mem.paste s.mems.dram dst.addr n cells } }
    | 1 => { s with mems := { s.mems with host := Mem.paste s.mems.host dst.addr n cells } }
    | _ => { s with mems := { s.mems with dws := Mem.paste s.mems.dws dst.addr n cells } }
  let s := s.cleanAt dst n
  sick.foldl (fun s u => s.poisonPut { dst with addr := 8 * u - src.addr + dst.addr } 8) s

/-- The intermediate frames of a polder that are resident on a CD, with their physical frames. -/
def Xlat.residents (x : Xlat) (cd : Nat) : List (Nat × Nat) :=
  (x.s2dws.filter (fun q => okDws2 q.2 && decide (bitsOf q.2 56 1 = 1) && decide (bitsOf q.2 57 3 = cd))).map
    (fun q => (q.1, bitsOf q.2 2 14))

/-- The frame that a DWS page names, if the page is mapped: as the tables stand, which unit 8 alone never holds of the DWS. -/
def State.frameOfPage (s : State) (p page : Nat) : Option Nat :=
  let look := match s.dws1 8 p page .r with
    | .ok f => some f
    | .error _ => match s.dws1 8 p page .w with
      | .ok f => some f
      | .error _ => none
  look.bind (fun f => if okDws2 (Map.get (s.xlat p).s2dws 0 f) then some f else none)

/-- The pinned frames of a polder on a CD. -/
def State.pinnedFrames (s : State) (p cd : Nat) : List Nat :=
  (((s.xlat p).pins.filterMap (fun q => s.frameOfPage p q.1)).eraseDups).filter (fun f => (s.xlat p).frameCd f == cd)

/-- The usable frames of a CD's DWS. -/
def State.usableFrames (s : State) (cd : Nat) : Nat :=
  16384 - (s.mems.badFrm.filter (fun q => decide (q.1 / 16384 = cd))).length

/-- Change the residence fields of a stage-2 entry. -/
def withFrame (e : Word) (resident : Bool) (frame : Nat) : Word :=
  BitVec.ofNat 64 (e.toNat - bitsOf e 56 1 * 2 ^ 56 - bitsOf e 2 14 * 4 + (if resident then 2 ^ 56 else 0) + frame * 4)

/-- Write a resident frame back to its backing page. -/
def State.evictFrame (s : State) (p f : Nat) : State :=
  let e := Map.get (s.xlat p).s2dws 0 f
  if bitsOf e 56 1 = 0 then s
  else
    let s := s.movePlace { kind := 3, addr := dwsPa e, ipa := 0 } { kind := 0, addr := dwsBack e, ipa := 0 } 65536
    s.setDws2 p f (withFrame e false 0) false

/-- A free frame of a CD. -/
def State.freeFrame (s : State) (p cd : Nat) : Option Nat :=
  let used := ((s.xlat p).residents cd).map (·.2)
  (List.range 16384).find? (fun k => !used.contains k && !NatSet.mem s.mems.badFrm (16384 * cd + k))

/-- The DWS frames that a request names. -/
def FaultReq.frames (f : FaultReq) : List Nat := if f.dws then f.pages.filter (fun g => decide (g < 2 ^ 24)) else []
/-- The global intermediate pages that it names: those of a DWS request hold stage-1 tables. -/
def FaultReq.globals (f : FaultReq) : List Nat :=
  if f.dws then (f.pages.filter (fun g => decide (2 ^ 24 ≤ g))).map (fun g => g - 2 ^ 24) else f.pages
/-- Frames that may be evicted: resident, neither pinned nor held for the request in service (R358, R359). -/
def State.evictable (s : State) (p cd : Nat) : List Nat :=
  let pinned := s.pinnedFrames p cd
  let held := match Map.find? s.tr.held cd with
    | some f => if f.polder = p then f.frames else []
    | none => []
  (((s.xlat p).residents cd).map (·.1)).filter (fun f => !pinned.contains f && !held.contains f)

/-- Bring a frame into the DWS; when none is free, one that may be evicted, of the unit's choice, makes room. A frame changes its
residence in one act of the trust root (log 144). -/
def State.residentFrame (s : State) (p f : Nat) : State :=
  let e := Map.get (s.xlat p).s2dws 0 f
  if !okDws2 e ∨ bitsOf e 56 1 = 1 then s
  else
    let cd := bitsOf e 57 3
    let out := s.evictable p cd
    let s := match out[(s.freeW (2 ^ 29)).toNat % out.length]? with
      | some f => if (s.freeFrame p cd).isNone then (s.evictFrame p f).bump else s
      | none => s
    match s.freeFrame p cd with
    | some k =>
      let e' := withFrame e true k
      let s := s.movePlace { kind := 0, addr := dwsBack e, ipa := 0 } { kind := 3, addr := dwsPa e', ipa := 0 } 65536
      s.setDws2 p f e' false
    | none => s

end Sys2Proof.Machine
end

