-- ==== Sys2Proof/Machine/Rings.lean ====
section
/-! DEFINITION. Copy rings as a core's watcher keeps them (R213 to R216): publishing, halting and the words it writes. -/

namespace Sys2Proof.Machine

/-- Write bytes of a block's shared memory; whole 64-bit words lose their poison (R424). -/
def State.putShared (s : State) (blk a : Nat) (bs : List Byte) : State :=
  s.modBlock blk (fun b => { b with shared := Mem.write b.shared a bs, poison := (wholeUnits a bs.length 8).foldl NatSet.del b.poison })

/-- Replace a ring of a core's watcher. -/
def State.setRing (s : State) (core slot : Nat) (r : Ring) : State :=
  { s with cores := { s.cores with rings := Map.insert s.cores.rings (16 * core + slot) r } }

/-- The consumer index as a ring's first word shows it (R213). -/
def Ring.word (r : Ring) : Word := BitVec.ofNat 64 (r.cons % 2 ^ 63 + (if r.halted then 2 ^ 63 else 0))

/-- The watcher writes the consumer index (R213, R78). -/
def State.writeCons (s : State) (r : Ring) : State := s.putShared r.blk r.base (bytesOf 8 r.word.toNat)

/-- A new producer index reaches the watcher (R215). -/
def State.publishTo (s : State) (core slot : Nat) (r : Ring) (p : Nat) : State :=
  if r.halted ∨ r.unbind then s
  else if p < r.prod ∨ r.n < p - r.cons then
    let r := { r with halted := true }
    (s.setRing core slot r).writeCons r
  else (s.setRing core slot { r with prod := p }).soon (.watcherFetchEntry core slot)

/-- A release write of 8 bytes to shared memory publishes to the rings whose notify word it is (R78, R215). -/
def State.publish (s : State) (g a : Nat) (p : Word) : State :=
  let x := s.group g
  (List.range 16).foldl (fun s k =>
    match Map.find? s.cores.rings (16 * x.core + k) with
    | some r => if r.blk = x.blk ∧ r.notify = a then s.publishTo x.core k r p.toNat else s
    | none => s) s

end Sys2Proof.Machine
end

