-- ==== Sys2Proof/Machine/Sync.lean ====
section
/-! DEFINITION. Barriers, tags, chunk maps, copy rings and the DWS instructions (R204 to R216, R225). -/

namespace Sys2Proof.Machine

/-! ### Answers that come later -/

/-- Hold lanes until an answer of another unit is written (R225, R251, R256, R268): the results land after the latency. -/
def State.answerIn (s : State) (g : Nat) (m : LaneMask) (w : WaitState) (h : Hdr) (i : Instr) (r : Res) (lat : Nat) : State :=
  let (id, s) := s.hold g m w i []
  let flag := if h.lf then s.flagOf h else 15
  (s.modGroup g (fun x =>
    { x with pending := x.pending.filter (fun p => p.id != id) ++ [{ id := id, flag := flag, lanes := m, writes := r.writes m }] })).after lat
      (.resultWriteback g id)
/-- The same after the instruction's own latency. -/
def State.answer (s : State) (g : Nat) (m : LaneMask) (w : WaitState) (h : Hdr) (i : Instr) (r : Res) : State :=
  s.answerIn g m w h i r (latency i)

/-- A uniform result of 64 bits. -/
def sOut (d : BitVec 8) (v : Word) : Res := { s := [(d.toNat, v)] }
/-- A negative answer code. -/
def code (n : Nat) : Word := BitVec.ofInt 64 (-(n : Int))

/-- Wait at a forced boundary; a condition that already holds completes at once, and its result comes after the latency (R56, R209,
R210). -/
def State.waitFor (s : State) (g : Nat) (m : LaneMask) (w : WaitState) (i : Instr) (ops : List Word) : State :=
  let (id, s) := s.hold g m w i ops
  match (s.group g).waits.find? (fun q => q.id == id) with
  | some q => s.wake1 g q (latency i)
  | none => s

/-! ### Barriers (R204 to R209) -/

/-- `bar.init` (R206). -/
def execBarInit (h : Hdr) (acct : BitVec 2) (d : BitVec 8) (n : BitVec 5) (e : USrc) (s : State) : Host.Outcome State Fault Refusal :=
  s.perform h (.barInit h acct d n e) (fun x g m s =>
    let v := (s.uVal x e).toNat
    if v = 0 ∨ 2 ^ 24 ≤ v then s.trapAll g m .illegalEncoding (fun _ => 0)
    else
      let b := s.bar x.blk n.toNat
      let s := s.setBar x.blk n.toNat
        { phase := b.phase, count := 0, expected := v, mode := acct.toNat, init := true, lanesArr := [], groupArr := [] }
      ((s.sync g m).give g h m (latency (.barInit h acct d n e)) (sOut d (b.phase.setWidth 64))).advance g m)

/-- The lanes that an arrival counts: those with a clear bit that are no helpers (R207). -/
def newArrivals (b : Barrier) (x : Group) (g : Nat) (m : LaneMask) : List Nat :=
  (lanesOf (m &&& ~~~x.helpers)).filter (fun l => !NatSet.mem b.lanesArr (32 * g + l))
/-- A barrier after an arrival (R207). -/
def arrive (b : Barrier) (x : Group) (g : Nat) (m : LaneMask) (group : Bool) : Barrier :=
  if group then
    if NatSet.mem b.groupArr g then b else { b with count := b.count + 1, groupArr := NatSet.add b.groupArr g }
  else
    let ls := newArrivals b x g m
    { b with count := b.count + ls.length, lanesArr := ls.foldl (fun a l => NatSet.add a (32 * g + l)) b.lanesArr }

/-- `bar.arrive` (R207). -/
def execBarArrive (h : Hdr) (group : Bool) (d : BitVec 8) (n : BitVec 5) (s : State) : Host.Outcome State Fault Refusal :=
  s.perform h (.barArrive h group d n) (fun x g m s =>
    let b := s.bar x.blk n.toNat
    if !b.init then s.trapAll g m .illegalEncoding (fun _ => 0)
    else
      let s := (s.setBar x.blk n.toNat (arrive b x g m group)).sync g m
      let s := (s.give g h m (latency (.barArrive h group d n)) (sOut d (b.phase.setWidth 64))).advance g m
      s.checkBar x.blk n.toNat)

/-- `bar.wait` (R209). -/
def execBarWait (h : Hdr) (n : BitVec 5) (p : USrc) (s : State) : Host.Outcome State Fault Refusal :=
  s.perform h (.barWait h n p) (fun x g m s =>
    if !(s.bar x.blk n.toNat).init then s.trapAll g m .illegalEncoding (fun _ => 0)
    else s.waitFor g m .barrier (.barWait h n p) [s.uVal x p])

/-- `bar.test` (R209). -/
def execBarTest (h : Hdr) (par : Bool) (d : BitVec 8) (n : BitVec 5) (p : USrc) (s : State) : Host.Outcome State Fault Refusal :=
  s.perform h (.barTest h par d n p) (fun x g m s =>
    let b := s.bar x.blk n.toNat
    if !b.init then s.trapAll g m .illegalEncoding (fun _ => 0)
    else
      let v := s.uVal x p
      let r := if par then b.phase.getLsbD 0 != v.getLsbD 0 else b.passed v
      ((s.sync g m).give g h m (latency (.barTest h par d n p)) (sOut d (if r then 1 else 0))).advance g m)

/-! ### Tags and chunk maps (R210 to R212) -/

/-- `tag.waitany`. -/
def execTagWaitany (h : Hdr) (clr : Bool) (d a : BitVec 8) (s : State) : Host.Outcome State Fault Refusal :=
  s.perform h (.tagWaitany h clr d a) (fun x g m s => s.waitFor g m .tag (.tagWaitany h clr d a) [s.getS x a.toNat])
/-- `tag.waitall`. -/
def execTagWaitall (h : Hdr) (clr : Bool) (d a : BitVec 8) (s : State) : Host.Outcome State Fault Refusal :=
  s.perform h (.tagWaitall h clr d a) (fun x g m s => s.waitFor g m .tag (.tagWaitall h clr d a) [s.getS x a.toNat])

/-- The lowest set bit of a tag map under a mask. -/
def firstTag (w : Word) : Option Nat := (List.range 64).find? (fun i => w.getLsbD i)
/-- `tag.first`. -/
def execTagFirst (h : Hdr) (clr : Bool) (d a : BitVec 8) (s : State) : Host.Outcome State Fault Refusal :=
  s.perform h (.tagFirst h clr d a) (fun x g m s =>
    let hit := (s.block x.blk).tags &&& s.getS x a.toNat
    let v := match firstTag hit with
      | some i => BitVec.ofNat 64 i
      | none => BitVec.allOnes 64
    let s := match firstTag hit with
      | some i => if clr then s.modBlock x.blk (fun b => { b with tags := b.tags &&& ~~~(1#64 <<< i) }) else s
      | none => s
    (s.give g h m (latency (.tagFirst h clr d a)) (sOut d v)).advance g m)
/-- `tag.read`. -/
def execTagRead (h : Hdr) (d a : BitVec 8) (s : State) : Host.Outcome State Fault Refusal :=
  s.compute h (.tagRead h d a) (fun s x _ => sOut d ((s.block x.blk).tags &&& s.getS x a.toNat))
/-- `tag.read.st`. -/
def execTagReadSt (h : Hdr) (d a : BitVec 8) (s : State) : Host.Outcome State Fault Refusal :=
  s.compute h (.tagReadSt h d a) (fun s x _ =>
    sOut d ((Map.get (s.block x.blk).tagStatus 0 ((s.getS x a.toNat).toNat % 64)).setWidth 64))
/-- `tag.clear`. -/
def execTagClear (h : Hdr) (a : BitVec 8) (s : State) : Host.Outcome State Fault Refusal :=
  s.act h (.tagClear h a) (fun x _ _ s =>
    let w := s.getS x a.toNat
    s.modBlock x.blk (fun b => { b with tags := b.tags &&& ~~~w,
                                        tagStatus := b.tagStatus.filter (fun q => !w.getLsbD q.1) }))

/-- A chunk-map word lies in the block's allocation (R212). -/
def State.okMap (s : State) (x : Group) (a : Word) : Bool :=
  decide (a.toNat % 8 = 0) && decide (a.toNat + 8 ≤ (s.block x.blk).sharedSz)
/-- `cmap.wait`. -/
def execCmapWait (h : Hdr) (d a b : BitVec 8) (s : State) : Host.Outcome State Fault Refusal :=
  s.perform h (.cmapWait h d a b) (fun x g m s =>
    let o := s.getS x a.toNat
    if !s.okMap x o then s.trapAll g m .bounds (fun _ => o)
    else s.waitFor g m .tag (.cmapWait h d a b) [o, s.getS x b.toNat])
/-- `cmap.test`. -/
def execCmapTest (h : Hdr) (d a b : BitVec 8) (s : State) : Host.Outcome State Fault Refusal :=
  s.perform h (.cmapTest h d a b) (fun x g m s =>
    let o := s.getS x a.toNat
    if !s.okMap x o then s.trapAll g m .bounds (fun _ => o)
    else (s.give g h m (latency (.cmapTest h d a b)) (sOut d (s.sharedWord x.blk o.toNat &&& s.getS x b.toNat))).advance g m)

/-! ### Copy rings (R213 to R216) -/

/-- Whether a ring may be bound (R214). -/
def okRing (size base notify n : Nat) : Bool :=
  (decide (n = 16) || decide (n = 32) || decide (n = 64) || decide (n = 128) || decide (n = 256)) &&
  decide (base % 64 = 0) && decide (notify % 8 = 0) && decide (base + 64 + 32 * n ≤ size) && decide (notify + 8 ≤ size) &&
  (decide (notify + 8 ≤ base) || decide (base + 64 + 32 * n ≤ notify))

/-- The watcher has read a ring's notify word, which from then on is the ring's: what the lanes that bind it have stored to it is no
open access of the detector any more (log 150). -/
def State.takeNotify (s : State) (blk g : Nat) (m : LaneMask) (a : Nat) : State :=
  { s with mems := { s.mems with det := s.mems.det.filter (fun d =>
      !(d.space == 0 && d.blk == blk && decide (a ≤ d.addr) && decide (d.addr < a + 8) && (lanesOf m).any (fun l => d.who == .lane g l))) } }

/-- `ring.bind`: the lowest free slot of the core's watcher; the notify word gives the first producer index. A bad ring answers so also
when no slot is free (log 149). -/
def execRingBind (h : Hdr) (d a b : BitVec 8) (n : BitVec 32) (s : State) : Host.Outcome State Fault Refusal :=
  s.perform h (.ringBind h d a b n) (fun x g m s =>
    let base := (s.getS x a.toNat).toNat
    let notify := (s.getS x b.toNat).toNat
    let lat := latency (.ringBind h d a b n)
    if !okRing (s.block x.blk).sharedSz base notify n.toNat then (s.give g h m lat (sOut d (code 2))).advance g m
    else match (List.range 16).find? (fun k => (Map.find? s.cores.rings (16 * x.core + k)).isNone) with
      | none => (s.give g h m lat (sOut d (code 1))).advance g m
      | some k =>
        let p0 := (s.sharedWord x.blk notify).toNat
        let r : Ring := { blk := x.blk, grp := g, base := base, notify := notify, n := n.toNat, prod := p0, next := p0, cons := p0,
                          halted := false, unbind := false }
        let s := ((s.setRing x.core k r).putShared x.blk base (bytesOf 8 p0 ++ bytesOf 8 0)).takeNotify x.blk g m notify
        (s.give g h m lat (sOut d (BitVec.ofNat 64 k))).advance g m)

/-- `ring.unbind`. -/
def execRingUnbind (h : Hdr) (d a : BitVec 8) (s : State) : Host.Outcome State Fault Refusal :=
  s.perform h (.ringUnbind h d a) (fun x g m s =>
    let k := (s.getS x a.toNat).toNat
    match if k < 16 then Map.find? s.cores.rings (16 * x.core + k) else none with
    | some r =>
      if r.blk = x.blk then
        (s.setRing x.core k { r with unbind := true }).waitFor g m .tag (.ringUnbind h d a) [BitVec.ofNat 64 k]
      else (s.give g h m (latency (.ringUnbind h d a)) (sOut d (code 3))).advance g m
    | none => (s.give g h m (latency (.ringUnbind h d a)) (sOut d (code 3))).advance g m)

/-! ### The DWS instructions (R225) -/

/-- The pages of a request. -/
def pagesFrom (a : Word) (n : Nat) : List Nat := (List.range n).map (a.toNat / 65536 + ·)
/-- Pin every page once. -/
def Xlat.pinAll (x : Xlat) (l : Nat) (ps : List Nat) : Xlat :=
  { x with pins := ps.foldl (fun m p => Map.put m 0 p (Map.get m 0 p + 1)) x.pins, pinsBy := x.pinsBy ++ ps.map (fun p => (l, p)) }
/-- Take one pin off every page. -/
def Xlat.unpinAll (x : Xlat) (l : Nat) (ps : List Nat) : Xlat :=
  { x with pins := ps.foldl (fun m p => Map.put m 0 p (Map.get m 0 p - 1)) x.pins,
           pinsBy := ps.foldl (fun b p =>
             if b.contains (l, p) then b.erase (l, p)
             else match b.find? (fun q => q.2 == p) with
               | some q => b.erase q
               | none => b) x.pinsBy }

/-- The answer of `dws.pin`, and the state after it. -/
def State.dwsPin (s : State) (p l : Nat) (a : Word) (n : Nat) : Word × State :=
  if n = 0 ∨ 64 < n then (code 3, s)
  else
    let ps := pagesFrom a n
    if a.toNat % 65536 ≠ 0 ∨ ps.any (fun q => (s.frameOfPage p q).isNone) then (code 7, s)
    else if ps.any (fun q => decide (255 ≤ Map.get (s.xlat p).pins 0 q)) then (code 8, s)
    else
      let fs := ps.filterMap (s.frameOfPage p)
      let cds := (fs.map (s.xlat p).frameCd).eraseDups
      let few := cds.any (fun cd =>
        let pinned := (s.pinnedFrames p cd ++ fs.filter (fun f => (s.xlat p).frameCd f == cd)).eraseDups
        let all := ((s.xlat p).window.filter (fun q => (s.xlat p).frameCd q.1 == cd)).length
        decide (min all (s.usableFrames cd) < pinned.length + 40))
      if few then (code 5, s)
      else
        let s := s.modXlat p (fun x => x.pinAll l ps)
        (0, fs.foldl (fun s f => s.residentFrame p f) s)

/-- The answer of `dws.unpin`. -/
def State.dwsUnpin (s : State) (p l : Nat) (a : Word) (n : Nat) : Word × State :=
  if n = 0 ∨ 64 < n then (code 3, s)
  else
    let ps := pagesFrom a n
    if a.toNat % 65536 ≠ 0 ∨ ps.any (fun q => (s.frameOfPage p q).isNone) then (code 7, s)
    else if ps.any (fun q => decide (Map.get (s.xlat p).pins 0 q = 0)) then (code 6, s)
    else (0, s.modXlat p (fun x => x.unpinAll l ps))

/-- The parts of live launches' reservations that their allocations have not used (R351). -/
def State.reserved (s : State) (p : Nat) : Nat :=
  ((s.work.launches.filter (fun q => q.2.polder == p && !q.2.done)).map (fun q => q.2.resLeft)).sum
/-- The free part of a polder's window. -/
def State.freePart (s : State) (p : Nat) : Nat := (s.xlat p).freeFrames.length - s.reserved p
/-- Pages of the device-allocation window from a page on, wholly unallocated. -/
def Xlat.windowFree (x : Xlat) (page n : Nat) : Bool :=
  decide (windowPage ≤ page) && decide (page + n ≤ 2 ^ 24) &&
  x.allocs.all (fun a => decide (page + n ≤ a.base) || decide (a.base + a.frames.length ≤ page))
/-- The base page of a new allocation: any page from which n are free, of the unit's choice. -/
def State.windowBase (s : State) (p n : Nat) : Option Nat :=
  let x := s.xlat p
  let k := windowPage + (s.freeW (2 ^ 29 + 1)).toNat % 65536
  if x.windowFree k n then some k
  else ((windowPage :: x.allocs.map (fun a => a.base + a.frames.length)).find? (fun k => x.windowFree k n))

/-- The answer of `dws.alloc`: without frames it answers so also when there is no space, and it takes frames in the window's order
(log 50). -/
def State.dwsAlloc (s : State) (p cd l n : Nat) : Word × State :=
  if n = 0 ∨ 64 < n then (code 3, s)
  else
    let x := s.xlat p
    let fs := s.takeable p cd
    let drawn := min n (s.launch l).resLeft
    if fs.length < n ∨ s.freePart p < n - drawn then (code 1, s)
    else match s.windowBase p n with
      | none => (code 2, s)
      | some base =>
        let take := fs.take n
        let s := take.foldl (fun s f => s.zeroFrame p f) s
        let s := s.modXlat p (fun x => { x with allocs := x.allocs ++ [{ base := base, frames := take, launch := l, drawn := drawn }] })
        (BitVec.ofNat 64 (base * 65536), s.modLaunch l (fun y => { y with resLeft := y.resLeft - drawn }))

/-- The answer of `dws.free`. -/
def State.dwsFree (s : State) (p : Nat) (a : Word) : Word × State :=
  match (s.xlat p).allocs.find? (fun q => decide (q.base * 65536 = a.toNat)) with
  | some q => (0, s.freeAlloc p q)
  | none => (code 4, s)

/-- `dws.pin`. -/
def execDwsPin (h : Hdr) (d a : BitVec 8) (n : USrc) (s : State) : Host.Outcome State Fault Refusal :=
  s.perform h (.dwsPin h d a n) (fun x g m s =>
    let (v, s) := s.dwsPin (s.polderOf g) (s.launchOf g) (s.getS x a.toNat) (s.uVal x n).toNat
    s.answer g m .fault h (.dwsPin h d a n) (sOut d v))
/-- `dws.unpin`. -/
def execDwsUnpin (h : Hdr) (d a : BitVec 8) (n : USrc) (s : State) : Host.Outcome State Fault Refusal :=
  s.perform h (.dwsUnpin h d a n) (fun x g m s =>
    let (v, s) := s.dwsUnpin (s.polderOf g) (s.launchOf g) (s.getS x a.toNat) (s.uVal x n).toNat
    s.answer g m .fault h (.dwsUnpin h d a n) (sOut d v))
/-- `dws.alloc`. -/
def execDwsAlloc (h : Hdr) (d : BitVec 8) (n : USrc) (s : State) : Host.Outcome State Fault Refusal :=
  s.perform h (.dwsAlloc h d n) (fun x g m s =>
    let k := (s.uVal x n).toNat
    let (v, s) := s.dwsAlloc (s.polderOf g) x.cd (s.launchOf g) k
    s.answerIn g m .fault h (.dwsAlloc h d n) (sOut d v) (near 6 (2095 * (10 + min k 64) / 10)))
/-- `dws.free`. -/
def execDwsFree (h : Hdr) (d a : BitVec 8) (s : State) : Host.Outcome State Fault Refusal :=
  s.perform h (.dwsFree h d a) (fun x g m s =>
    let (v, s) := s.dwsFree (s.polderOf g) (s.getS x a.toNat)
    s.answer g m .fault h (.dwsFree h d a) (sOut d v))

end Sys2Proof.Machine
end

