-- ==== Sys2Proof/Machine/Matrix.lean ====
section
/-! DEFINITION. The matrix instructions and the completion of a matrix operation (R122 to R125, R227 to R245). -/

namespace Sys2Proof.Machine

/-! ### Convergence registers (R229 to R231) -/

/-- The member that an id names: a group of the block in the partition that has not retired. -/
def State.member (s : State) (x : Group) (gid : Nat) : Option Nat :=
  (s.block x.blk).groups.find? (fun k => let y := s.group k
    decide (y.gid = gid) && decide (y.part = x.part) && !y.retired)

/-- The set that a declaration names (R230): member ids and lane masks; `none` for BAD_SET. -/
def State.declared (s : State) (x : Group) (g n : Nat) (ids m01 m23 : Word) : Option (List Nat × List LaneMask) :=
  let ks := (List.range n).filterMap (fun i => s.member x (bitsOf ids (5 * i) 5))
  let ms := (List.range n).map (fun i => BitVec.ofNat 32 (bitsOf (if i < 2 then m01 else m23) (32 * (i % 2)) 32))
  if ks.length = n ∧ ks.eraseDups.length = n ∧ ks.contains g ∧ !ms.contains 0 then some (ks, ms) else none

/-- A register is busy for a group: a declaration without it, or a pending round (R230). -/
def Conv.busy (c : Conv) (g : Nat) : Bool := !c.members.contains g || c.round.isSome

/-- `conv.decl`. -/
def execConvDecl (h : Hdr) (gc : BitVec 2) (d : BitVec 8) (c : BitVec 3) (k : BitVec 7) (s : State) :
    Host.Outcome State Fault Refusal :=
  s.perform h (.convDecl h gc d c k) (fun x g m s =>
    let key := 8 * x.part + c.toNat
    let lat := latency (.convDecl h gc d c k)
    if (Map.find? s.cores.convs key).any (fun c => c.busy g) then (s.give g h m lat (sOut d (code 1))).advance g m
    else match s.declared x g (2 ^ gc.toNat) (s.getS x k.toNat) (s.getS x (k.toNat + 1)) (s.getS x (k.toNat + 2)) with
      | none => (s.give g h m lat (sOut d (code 2))).advance g m
      | some (ks, ms) =>
        ((s.setConv key { blk := x.blk, members := ks, masks := ms, round := none }).give g h m lat (sOut d 0)).advance g m)

/-- `conv.decl.free`. -/
def execConvDeclFree (h : Hdr) (d : BitVec 8) (c : BitVec 3) (s : State) : Host.Outcome State Fault Refusal :=
  s.perform h (.convDeclFree h d c) (fun x g m s =>
    let key := 8 * x.part + c.toNat
    let lat := latency (.convDeclFree h d c)
    if (Map.find? s.cores.convs key).any (fun c => c.busy g) then (s.give g h m lat (sOut d (code 1))).advance g m
    else
      let s := { s with cores := { s.cores with convs := Map.erase s.cores.convs key } }
      (s.give g h m lat (sOut d 0)).advance g m)

/-- The code of the number of groups. -/
def groupCode (n : Nat) : Nat := match n with
  | 1 => 0 | 2 => 1 | _ => 2
/-- What `conv.read` shows (R231). -/
def convWord (c : Conv) (g : Nat) : Nat :=
  let signed := match c.round with
    | some r => maskOf (fun l => r.sigs.any (fun e => e.grp == g && e.lane == l))
    | none => 0
  let idx := c.members.idxOf g
  let member := c.members.contains g
  signed.toNat + groupCode c.members.length * 2 ^ 32 + (if member then 2 ^ 34 else 0) + (if c.round.isSome then 2 ^ 35 else 0) +
    2 ^ 36 + (if member then idx * 2 ^ 37 else 0)
/-- `conv.read`. -/
def execConvRead (h : Hdr) (d : BitVec 8) (c : BitVec 3) (s : State) : Host.Outcome State Fault Refusal :=
  s.perform h (.convRead h d c) (fun x g m s =>
    let v := match Map.find? s.cores.convs (8 * x.part + c.toNat) with
      | some c => BitVec.ofNat 64 (convWord c g)
      | none => 0
    (s.give g h m (latency (.convRead h d c)) (sOut d v)).advance g m)

/-! ### Signing (R232, R233) -/

/-- The registers that a signature names (R228). -/
def sigRegs (batch : Bool) (f : MmaF) : List Nat :=
  let n := if batch then 8 else 2
  (List.range n).map (f.areg.toNat + ·) ++ (List.range n).map (f.breg.toNat + ·) ++ [f.fw.toNat]

/-- Registers of a lane that an issued instruction has still to write at a cycle, with their old values (R240). -/
def Group.lateRegs (x : Group) (t : Nat) (regs : List Nat) (l : Nat) : List (Nat × Word) :=
  regs.filterMap (fun r =>
    match x.score.find? (fun q => q.cls == .v && q.idx == r && decide (t < q.at_) && q.old.any (fun o => o.1 == l)) with
    | some q => (q.old.find? (fun o => o.1 == l)).map (fun o => (r, o.2))
    | none => if (pendingFor x .v r l).isEmpty then none else some (r, Map.get x.v 0 (32 * r + l)))

/-- Check 2 of R233 for a format word. -/
def okWord (f : MmaF) (w : Word) : Bool := okFormat w && decide (bitsOf w 0 4 = f.ty.code)
/-- Check 3: the word and the fields of the round's first signature. -/
def Round.agrees (r : Round) (batch : Bool) (f : MmaF) (w : Word) : Bool :=
  r.batch == batch && r.ty == f.ty && r.sat == f.sat && r.zacc == f.zacc && r.word == w
/-- Check 4: the registers and the tile of the group's first signature. -/
def Round.sameRegs (r : Round) (g : Nat) (f : MmaF) : Bool :=
  match r.sigs.find? (fun e => e.grp == g) with
  | some e => e.areg == f.areg.toNat && e.breg == f.breg.toNat && e.fw == f.fw.toNat && e.tile == f.tile.toNat
  | none => true

/-- A bundle's lanes that may sign sign. When the round would issue now and a tile's format fails it, they are the signing bundle of
R234, still at their `mma`; otherwise they move on. -/
def State.sign (s : State) (h : Hdr) (k g : Nat) (c : Conv) (r : Round) (f : MmaF) (m : LaneMask) : State :=
  let pc := s.ag.cur.pc
  let sigs := (lanesOf m).map (fun l =>
    ({ grp := g, lane := l, areg := f.areg.toNat, breg := f.breg.toNat, fw := f.fw.toNat, tile := f.tile.toNat, pc := pc,
       enc := (encode (if r.batch then .mmaBatch h f else .mma h f)).getD 0 } : Sig))
  let regs := sigRegs r.batch f
  let r := { r with sigs := r.sigs ++ sigs }
  let c := { c with round := some r }
  let s := s.setConv k c
  let s := s.modGroup g (fun x =>
    { x with windows := x.windows ++ (lanesOf m).map (fun l =>
               { lane := l, conv := k % 8, round := r.id, tile := f.tile.toNat, regs := regs, pc := pc, dirty := [],
                 late := x.lateRegs s.ag.cycle regs l }),
             pending := if h.lf then x.pending ++ [{ id := r.id, flag := s.flagOf h, lanes := m, writes := [] }] else x.pending })
  if s.allSigned c r && !s.formatsFit r then s.failRound k g m .tileFormat else (s.advance g m).issueRound k

/-- `mma` and `mma.batch` for their executing set (R232, R233). -/
def State.signing (s : State) (h : Hdr) (i : Instr) (batch : Bool) (f : MmaF) (x : Group) (g : Nat) (m : LaneMask) : State :=
  let k := 8 * x.part + f.conv.toNat
  match Map.find? s.cores.convs k with
  | none => s.trapAll g m .illegalEncoding (fun _ => 0)
  | some c =>
    if !c.members.contains g then s.trapAll g m .illegalEncoding (fun _ => 0)
    else
      let mine := m &&& c.masks.getD (c.members.idxOf g) 0
      let s := s.advance g (m &&& ~~~mine)
      let again := mine &&& maskOf (fun l => match c.round with
        | some r => r.sigs.any (fun e => e.grp == g && e.lane == l)
        | none => false)
      let s := if again = 0 then s else (s.hold g again .matrix i []).2
      let new := mine &&& ~~~again
      let word := fun l => s.getV x f.fw.toNat l
      let bad := new &&& maskOf (fun l => !okWord f (word l))
      let go := new &&& ~~~bad
      let s' := s.trapAll g bad .illegalEncoding (fun _ => 0)
      if go = 0 then s'
      else
        let r : Round := c.round.getD
          { id := s'.ag.nextId, batch := batch, ty := f.ty, sat := f.sat, zacc := f.zacc, word := word ((lanesOf go).headD 0), sigs := [] }
        let s' := { s' with ag := { s'.ag with nextId := s'.ag.nextId + 1 } }
        let fmt := Map.get (s'.group g).tileFmt 0 f.tile.toNat
        let pass := r.sameRegs g f && (lanesOf go).all (fun l => r.agrees batch f (word l))
        let some34 := r.sameRegs g f && (lanesOf go).any (fun l => r.agrees batch f (word l))
        let fit := f.zacc || decide (fmt = 0) || decide (fmt = accFormat r.word)
        if pass && fit then s'.sign h k g c r f go
        else s'.failRound k g go (if some34 && !fit then .tileFormat else .formatDivergence)

/-- `mma`. -/
def execMma (h : Hdr) (f : MmaF) (s : State) : Host.Outcome State Fault Refusal :=
  s.perform h (.mma h f) (fun x g m s => s.signing h (.mma h f) false f x g m)
/-- `mma.batch`. -/
def execMmaBatch (h : Hdr) (f : MmaF) (s : State) : Host.Outcome State Fault Refusal :=
  s.perform h (.mmaBatch h f) (fun x g m s => s.signing h (.mmaBatch h f) true f x g m)

/-! ### The sums (R124, R125, R237 to R239) -/

/-- Elements of an operand register in a matrix shape (R237). -/
def perReg : Ty → Nat
  | .f64 => 1 | .f32 => 2 | .i8x8 | .u8x8 => 8 | .log6x10 => 10 | _ => 4
/-- The type whose elements an operand register holds. -/
def operandTy : Ty → Ty
  | .f32 => .f32x2 | t => t

/-- The value that the engine reads of an operand register (R240). -/
def State.operand (s : State) (g id reg l : Nat) : Word :=
  let x := s.group g
  match x.windows.find? (fun w => w.lane == l && w.round == id) with
  | some w =>
    let free := 2 ^ 30 + 32 * (256 * (g % 2 ^ 17) + reg) + l
    if w.dirty.contains reg then s.freeW free
    else match w.late.find? (fun q => q.1 == reg) with
      | some q => if s.choose free then q.2 else s.getV x reg l
      | none => s.getV x reg l
  | none => s.getV x reg l

/-- Element k of the fragment row or column n of a member, given its first register: signed lanes supply their registers, the
others zero (R235, R237). -/
def State.fragment (s : State) (r : Round) (g base n k : Nat) : Nat :=
  let t := operandTy r.ty
  let e := perReg r.ty
  let l := n + 16 * (k / (2 * e))
  if r.sigs.any (fun q => q.grp == g && q.lane == l) then elemU t (s.operand g r.id (base + k % (2 * e) / e) l) (k % e) else 0

/-- The signed scale in a format word. -/
def scaleOf (w : Word) (lo : Nat) : Int := signedOf 8 (bitsOf w lo 8)
/-- Sum of both scales. -/
def scales (w : Word) : Int := scaleOf w 12 + scaleOf w 20

/-- A product of two floating-point elements under the scales. -/
def fpProduct (t : Ty) (σ : Int) (a b : Nat) : Fp :=
  let f := Fmt.of t
  if t == .log6x10 then
    match log6Mul a b σ with
    | some q => .num q.neg q.m q.e
    | none => .nan false
  else
    let x := f.read a
    let y := f.read b
    if zeroInf x y || x.isNan || y.isNan then .nan false
    else match x.times y with
      | .num s m e => .num s m (e + σ)
      | p => p

/-- A saturating INT32 accumulation step (R125). -/
def satStep (acc p : Int) : Int := max (-(2 ^ 31)) (min (2 ^ 31 - 1) (acc + p))

/-- One output element: the incoming entry and the products in k order. -/
def matElem (r : Round) (c : Word) (ab : List (Nat × Nat)) : Word :=
  match r.ty with
  | .i8x8 | .u8x8 =>
    let num := fun n => if r.ty.isSigned then signedOf 8 n else (n : Int)
    let c0 := signedOf 32 (c.toNat % 2 ^ 32)
    BitVec.ofNat 64 (wrapTo 32 (ab.foldl (fun acc q =>
      if r.sat then satStep acc (num q.1 * num q.2) else acc + num q.1 * num q.2) c0))
  | t =>
    let f := if t == .f64 then Fmt.of .f64 else Fmt.of .f32
    let terms := f.read (c.toNat % (2 * f.signBit)) :: ab.map (fun q => fpProduct (operandTy t) (scales r.word) q.1 q.2)
    BitVec.ofNat 64 (f.sum (bitsOf r.word 28 2) terms).1

/-- The entry (row, column) of a member's tile after the operation (R238, R239). -/
def State.matEntry (s : State) (r : Round) (g g0 : Nat) (e e0 : Sig) (row col : Nat) : Word :=
  let c := if r.zacc then 0 else Map.get (s.group g).tile 0 (256 * e.tile + 16 * row + col)
  let ks := List.range (4 * perReg r.ty)
  if r.batch then
    let p := row / 4 * 4 + col / 4
    matElem r c (ks.map (fun k =>
      (s.fragment r g (e.areg + 2 * (row % 4)) p k, s.fragment r g (e.breg + 2 * (col % 4)) p k)))
  else matElem r c (ks.map (fun k => (s.fragment r g e.areg row k, s.fragment r g0 e0.breg col k)))

/-- The operand registers of a signer that the engine reads hold poison (R238, R376). -/
def State.sigPoison (s : State) (r : Round) (g0 : Nat) (e : Sig) : Bool :=
  let n := if r.batch then 8 else 2
  let b := if r.batch || e.grp == g0 then (List.range n).map (e.breg + ·) else []
  ((List.range n).map (e.areg + ·) ++ b).any (NatSet.mem (s.group e.grp).poisonV)

/-- The windows of a completed operation: none is awaited any longer (R242). -/
def Group.opDone (x : Group) (id : Nat) : Group :=
  { x with windows := x.windows.map (fun w => if w.round == id then { w with round := 0 } else w),
           pending := x.pending.filter (fun p => p.id != id) }

/-- The new tiles of an operation: each member that has a signer (R235, R238). -/
def State.matTiles (s : State) (o : MatOp) : State :=
  let r := o.round
  let g0 := o.members.headD 0
  let none_ : Sig := { grp := g0, lane := 0, areg := 0, breg := 0, fw := 0, tile := 0, pc := 0, enc := 0 }
  let e0 := (r.sigs.find? (fun e => e.grp == g0)).getD none_
  o.members.foldl (fun s' g =>
    match r.sigs.find? (fun e => e.grp == g) with
    | some e =>
      if (s.group g).retired then s'
      else
        let ents := (List.range 256).map (fun q => (256 * e.tile + q, s.matEntry r g g0 e e0 (q / 16) (q % 16)))
        s'.modGroup g (fun x =>
          { x with tile := ents.foldl (fun t (q : Nat × Word) => Map.put t 0 q.1 q.2) x.tile,
                   poisonT := if r.zacc then ents.foldl (fun ps (q : Nat × Word) => NatSet.del ps q.1) x.poisonT else x.poisonT })
    | none => s') s

/-- MATRIX_OP_COMPLETE (R236, R242): the tiles change in one act, or every signer consumes poison and none does; waiting lanes
and finished groups see it. -/
def execMatrixOpComplete (id : Nat) (s : State) : Host.Outcome State Fault Refusal :=
  match Map.find? s.cores.matOps id with
  | none => .next s
  | some o =>
    let s := { s with cores := { s.cores with matOps := Map.erase s.cores.matOps id } }
    let sick := o.round.sigs.any (s.sigPoison o.round (o.members.headD 0))
    let s := if sick then s else s.matTiles o
    let s := o.members.foldl (fun s g => s.modGroup g (fun x => x.opDone id)) s
    let s := if sick then o.members.foldl (fun s g =>
        let m := maskOf (fun l => o.round.sigs.any (fun e => e.grp == g && e.lane == l) && !(s.lane g l).left)
        if m = 0 then s else s.consume g m 2 1 (fun _ => 0) 0) s else s
    let s := s.wakeAll o.members
    .next ((o.members.foldl State.retireGroup s).bump)

/-! ### Waiting (R241, R242) -/

/-- `mfence`: each lane waits for the register writes of the instructions that it issued itself (R241). -/
def execMfence (h : Hdr) (s : State) : Host.Outcome State Fault Refusal :=
  s.perform h (.mfence h) (fun x g m s =>
    let ids := (x.pending.filter (fun p => decide (p.lanes &&& m ≠ 0) && !p.writes.isEmpty)).map (fun p => BitVec.ofNat 64 p.id)
    let last := (x.score.filter (fun q => decide (q.by_ &&& m ≠ 0))).foldl (fun n q => max n q.at_) s.ag.cycle
    let s := if last ≤ s.ag.cycle then s else s.after (last - s.ag.cycle) (.resultWriteback g 0)
    s.waitFor g m .running (.mfence h) ids)
/-- `mwait`. -/
def execMwait (h : Hdr) (tile : BitVec 5) (s : State) : Host.Outcome State Fault Refusal :=
  s.perform h (.mwait h tile) (fun _ g m s => s.waitFor g m .matrix (.mwait h tile) [])
/-- `mwait.all`. -/
def execMwaitAll (h : Hdr) (s : State) : Host.Outcome State Fault Refusal :=
  s.perform h (.mwaitAll h) (fun _ g m s => s.waitFor g m .matrix (.mwaitAll h) [])

/-! ### Accumulator tiles (R243) -/

/-- The rounds signed and not complete on a tile. -/
def Group.roundsOn (x : Group) (tile : Nat) : List Word :=
  ((x.windows.filter (fun w => w.tile == tile && decide (w.round ≠ 0))).map (fun w => BitVec.ofNat 64 w.round)).eraseDups

/-- An instruction on a tile waits for the operations on it that are earlier, with the operand values that it has read; then it
performs with them (R243, R244). -/
def State.onTile (s : State) (g : Nat) (m : LaneMask) (i : Instr) (tile : BitVec 5) (vals : List Word) (f : List Word → State → State) : State :=
  match s.ag.cur.ops with
  | some ops => f (ops.drop ((ops.headD 0).toNat + 1)) s
  | none =>
    let rs := (s.group g).roundsOn tile.toNat
    if rs.isEmpty then f vals s else (s.hold g m .matrix i (BitVec.ofNat 64 rs.length :: rs ++ vals)).2

/-- The tile's registers of every lane as `acc.put` reads them (R244). -/
def State.tileRegs (s : State) (x : Group) (r : Nat) : List Word :=
  (List.range 32).flatMap (fun l => (List.range 8).map (fun j => s.getV x (r + j) l))

/-- `acc.put`. -/
def execAccPut (h : Hdr) (t : Ty) (tile : BitVec 5) (src : BitVec 8) (s : State) : Host.Outcome State Fault Refusal :=
  s.perform h (.accPut h t tile src) (fun x g m s => s.onTile g m (.accPut h t tile src) tile (s.tileRegs x src.toNat) (fun vals s =>
    let f := Map.get (s.group g).tileFmt 0 tile.toNat
    if f ≠ 0 ∧ f ≠ tyFmt t then s.trapAll g m .tileFormat (fun _ => 0)
    else
      let s := s.modGroup g (fun y => y.accPut t tile.toNat m (fun j l => vals.getD (8 * l + j) 0))
      (s.give g h m (latency (.accPut h t tile src)) {}).advance g m))
/-- The registers that `acc.get` writes: a lane whose window on the tile is open, between its `mma` and the matching `mwait`, gets
unspecified values (R6, R80). -/
def State.tileRead (s : State) (x : Group) (t : Ty) (r tile : Nat) : Res :=
  { v := (List.range 8).map (fun j => (r + j, fun l =>
      if x.windows.any (fun w => w.lane == l && w.tile == tile) then tyClip t (s.freeW (2 ^ 30 + 256 * l + j))
      else tyClip t (Map.get x.tile 0 (tileKey tile l j)))) }
/-- `acc.get`. -/
def execAccGet (h : Hdr) (t : Ty) (d : BitVec 8) (tile : BitVec 5) (s : State) : Host.Outcome State Fault Refusal :=
  s.perform h (.accGet h t d tile) (fun _ g m s => s.onTile g m (.accGet h t d tile) tile [] (fun _ s =>
    let x := s.group g
    let f := Map.get x.tileFmt 0 tile.toNat
    if f ≠ 0 ∧ f ≠ tyFmt t then s.trapAll g m .tileFormat (fun _ => 0)
    else
      let sick := m &&& maskOf (fun l => (List.range 8).any (fun j => NatSet.mem x.poisonT (tileKey tile.toNat l j)))
      let ok := m &&& ~~~sick
      let s := if ok = 0 then s else (s.give g h ok (latency (.accGet h t d tile)) (s.tileRead x t d.toNat tile.toNat)).advance g ok
      if sick = 0 then s else s.consume g sick 2 3 (fun _ => 0) 0))
/-- `acc.zero`. -/
def execAccZero (h : Hdr) (t : Ty) (tile : BitVec 5) (s : State) : Host.Outcome State Fault Refusal :=
  s.perform h (.accZero h t tile) (fun _ g m s => s.onTile g m (.accZero h t tile) tile [] (fun _ s =>
    ((s.modGroup g (fun y => y.accZero t tile.toNat)).give g h m (latency (.accZero h t tile)) {}).advance g m))

/-! ### `fmtw` (R245) -/

/-- A format word with its scales replaced. -/
def fmtwWord (mode : BitVec 4) (imm : BitVec 32) (a : Word) : Word :=
  let w := bitsOf (imm.setWidth 64) 0 30
  let sa := bitsOf a 0 8
  let put := fun (w lo v : Nat) => w - w / 2 ^ lo % 256 * 2 ^ lo + v * 2 ^ lo
  BitVec.ofNat 64 (match mode.toNat with
    | 0 => w
    | 1 => put w 12 sa
    | 2 => put w 20 sa
    | _ => put (put w 12 sa) 20 (bitsOf a 8 8))
/-- `fmtw`. -/
def execFmtw (h : Hdr) (mode : BitVec 4) (d : BitVec 8) (a : Src) (imm : BitVec 32) (s : State) : Host.Outcome State Fault Refusal :=
  s.compute h (.fmtw h mode d a imm) (fun s x _ => { v := [(d.toNat, fun l => fmtwWord mode imm (s.srcVal x a l))] })

end Sys2Proof.Machine
end

