-- ==== Sys2Proof/Machine/End.lean ====
section
/-! DEFINITION. The early end of a launch (R262, R342, R365, R378): its lanes are killed, its unstarted blocks removed, and its
copies that have not started cancelled. -/

namespace Sys2Proof.Machine

/-- Remove unstarted blocks; a cluster of which nothing is left retires (R260). -/
def State.removeUnstarted (s : State) (bs : List Nat) : State :=
  let bs := bs.filter (fun b => (s.block b).place == .pending && (s.block b).groups.isEmpty)
  let s := bs.foldl (fun s b => s.modBlock b (fun x => { x with place := .retired })) s
  ((bs.map (fun b => (s.block b).cluster)).eraseDups).foldl (fun s c =>
    if (s.cluster c).placed || (s.cluster c).blocks.any (fun b => (s.block b).place != .retired) then s
    else
      let s := { s with fe := { s.fe with pend := s.fe.pend.filter (fun k => k != c), cdFor := Map.erase s.fe.cdFor c } }
      s.retireCluster c) s

/-- The blocks of a launch. -/
def State.blocksOf (s : State) (l : Nat) : List Nat :=
  (s.work.blocks.filter (fun q => q.2.launch == l && q.2.place != .retired)).map (·.1)

/-- The lanes of some blocks that have not left. -/
def State.lanesIn (s : State) (bs : List Nat) : List (Nat × LaneMask) :=
  bs.flatMap (fun b => (s.block b).groups.map (fun g => (g, (s.group g).present)))

/-- Published entries that no copy engine has started are cancelled, and copies that a stop has suspended run to completion
(R223, R262). -/
def State.cancelCopies (s : State) (bs : List Nat) : State :=
  let cut := fun (m : Map Ring) => m.map (fun (q : Nat × Ring) => if bs.contains q.2.blk then (q.1, { q.2 with next := max q.2.next q.2.prod }) else q)
  let s := { s with cores := { s.cores with rings := cut s.cores.rings } }
  let s := bs.foldl (fun s b => s.modBlock b (fun x => { x with rings := cut x.rings })) s
  let mine := s.cp.copy.filter (fun q => bs.contains q.2.blk && !q.2.complete)
  mine.foldl (fun s q =>
    let c := q.2
    let c := if !c.started then { c with complete := true } else { c with susp := if c.susp = 1 then 0 else c.susp }
    let s := { s with cp := { s.cp with copy := Map.insert s.cp.copy q.1 c } }
    if q.2.started && decide (q.2.susp = 1) then s.soon (.copyChunkLanded q.1) else s) s

/-- A launch ends early: the first such event decides its status (R342). -/
def State.endLaunch (s : State) (l status detail : Nat) : State :=
  let x := s.launch l
  if x.done || x.ended.isSome then s
  else
    let s := s.modLaunch l (fun x => { x with ended := some { status := status, detail := detail } })
    let bs := s.blocksOf l
    let s := s.cancelCopies bs
    let s := s.kill (s.lanesIn bs)
    let s := s.removeUnstarted bs
    bs.foldl (fun s b => s.retireBlock b) s

/-- UNHANDLED_TRAP_INSTANT: the launch ends with `TRAP` and the cause (R365). -/
def execUnhandledTrapInstant (l cause : Nat) (s : State) : Host.Outcome State Fault Refusal := .next (s.endLaunch l 4 cause)

/-- POISON_CONSUMED_INSTANT: the launch ends with `POISON_CONSUMED` (R378). -/
def execPoisonConsumedInstant (l : Nat) (s : State) : Host.Outcome State Fault Refusal := .next (s.endLaunch l 5 0)

end Sys2Proof.Machine
end

