-- ==== Sys2Proof/Machine/Placement.lean ====
section
/-! DEFINITION. The resources of R54 and the placing of blocks and clusters (R15, R16, R339, R340), and the compactor (R55). -/

namespace Sys2Proof.Machine

/-! ### Resources (R54) -/

/-- The smallest unit × 2^k that holds n. -/
def roundUp2 (unit n : Nat) : Nat := (((List.range 20).map (fun k => unit * 2 ^ k)).find? (fun r => decide (n ≤ r))).getD (unit * 2 ^ 20)
/-- Registers reserved for a group. -/
def roundRegs (n : Nat) : Nat := roundUp2 8 n
/-- Shared memory reserved for a block. -/
def roundShared (n : Nat) : Nat := if n = 0 then 0 else roundUp2 4096 n

/-- A free block of a buddy allocator: an aligned range of a pool that overlaps none in use. -/
def buddyFree (pool size : Nat) (used : List (Nat × Nat)) : Option Nat :=
  if size = 0 then some 0
  else ((List.range (pool / size)).map (· * size)).find? (fun a => !used.any (fun u => overlaps a size u.1 u.2))

/-- The groups that hold resources of a partition. -/
def State.heldGroups (s : State) (p : Nat) : List (Nat × Group) := s.work.groups.filter (fun q => q.2.part == p)
/-- The register ranges in use in a partition. -/
def State.regsUsed (s : State) (p : Nat) : List (Nat × Nat) := (s.heldGroups p).map (fun q => (q.2.regBase, roundRegs q.2.nregs))
/-- The tiles in use in a partition. -/
def State.tilesUsed (s : State) (p : Nat) : Nat := ((s.heldGroups p).map (fun q => q.2.ntiles)).sum
/-- The blocks that hold resources of a core. -/
def State.heldBlocks (s : State) (core : Nat) : List (Nat × Block) :=
  s.work.blocks.filter (fun q => q.2.core == core && (q.2.place == .live || q.2.place == .saving))
/-- The shared ranges in use on a core. -/
def State.sharedUsed (s : State) (core : Nat) : List (Nat × Nat) :=
  ((s.heldBlocks core).map (fun q => (q.2.sharedAt, roundShared q.2.sharedSz))).filter (fun r => decide (r.2 ≠ 0))

/-- A free group slot of a partition. -/
def State.freeSlot (s : State) (p : Nat) : Option Nat :=
  (List.range 16).find? (fun k => !(s.heldGroups p).any (fun q => q.2.slot == k))

/-- A core that takes blocks: exposed (R416), and neither drained, scanned nor gated. -/
def State.coreOpen (s : State) (core : Nat) : Bool :=
  let cd := core / 32
  let c := s.core core
  s.rel.remap.any (fun q => decide (64 * cd ≤ q.1) && decide (q.1 < 64 * cd + 64) && q.2.st == 0 && q.2.exp == core % 32) &&
  !c.draining && !c.scanning

/-- Place a group that has its resources: its slot and register range. -/
def State.seat (s : State) (p : Nat) (x : Group) : Option Group :=
  match s.freeSlot p, buddyFree 1024 (roundRegs x.nregs) (s.regsUsed p) with
  | some k, some a => if s.tilesUsed p + x.ntiles ≤ 32 then some { x with part := p, slot := k, regBase := a } else none
  | _, _ => none

/-- A frame of the polder's window on a CD for a spill stack. -/
def State.spillFrame (s : State) (p cd : Nat) : Option Nat := (s.takeable p cd).head?
/-- Reserve a spill page for a group that declares a spill stack. -/
def State.takeSpill (s : State) (p cd g : Nat) : Option State :=
  if (s.group g).spillSz = 0 then some s
  else (s.spillFrame p cd).map (fun f =>
    ((s.zeroFrame p f).modXlat p (fun x => { x with spillFrm := NatSet.add x.spillFrm f })).modGroup g (fun y => { y with spillAt := some f }))

/-! ### A new block (R15, R16, R24) -/

/-- Lane i of group g of a block of n lanes, at start (R16). -/
def startLane (entry : Word) (n i : Nat) : Lane :=
  if i < n then Lane.start entry false
  else if i / 4 * 4 < n then Lane.start entry true
  else { Lane.start entry false with left := true, wait := .unstarted }

/-- A group at start (R24). -/
def newGroup (blk gid : Nat) (k : Kernel) (params : List Word) (n : Nat) : Group :=
  let s := (params.take 8).zipIdx.foldl (fun (m : Map Word) (q : Word × Nat) => Map.put m 0 q.2 q.1) []
  { Group.none_ with
    blk := blk, gid := gid, nregs := k.regs, ntiles := k.tiles, spillSz := k.spill, s := s,
    lanes := (List.range 32).map (fun l => startLane k.entry n (32 * gid + l)) }

/-- Groups gid and up of a new block take their places, round robin over the partitions (R15). -/
def State.seatNew (s : State) (b core start : Nat) (k : Kernel) (params : List Word) (n p : Nat) : List Nat → Option State
  | [] => some s
  | gid :: rest =>
    match s.seat (4 * core + (start + gid) % 4) (newGroup b gid k params n) with
    | none => none
    | some x =>
      let (key, s) := s.key
      let s := (s.setGroup key x).modBlock b (fun y => { y with groups := y.groups ++ [key] })
      match s.takeSpill p (core / 32) key with
      | none => none
      | some s => State.seatNew s b core start k params n p rest

/-- A block's core and start partition are noted, with the clock at which it leaves still to come (R427). -/
def State.enterCore (s : State) (b core start at_ : Nat) : State :=
  let s := s.modBlock b (fun y => { y with place := .live, core := core, start := start, sharedAt := at_ })
  let s := s.modLaunch (s.block b).launch (fun l =>
    { l with ranOn := (core, 0) :: l.ranOn.filter (fun q => q.1 != core) })
  s.modCore core (fun c => { c with gated := false })

/-- Place an unstarted block on a core (R54, R340). -/
def State.placeNew (s : State) (b core start : Nat) : Option State :=
  let x := s.block b
  let c := s.cluster x.cluster
  if !s.coreOpen core then none
  else
    match buddyFree (512 * 1024) (roundShared x.sharedSz) (s.sharedUsed core) with
    | none => none
    | some a =>
      (s.seatNew b core start c.kernel c.params x.lanesN (s.launch x.launch).polder (List.range ((x.lanesN + 31) / 32))).map
        (fun s => s.enterCore b core start a)

/-! ### A saved block (R370) -/

/-- The groups of a saved block take their places again. -/
def State.seatOld (s : State) (core start : Nat) : List Nat → Option State
  | [] => some s
  | g :: rest =>
    let x := s.group g
    match s.seat (4 * core + (start + x.gid) % 4) x with
    | none => none
    | some x => State.seatOld (s.setGroup g x) core start rest

/-- Its spill pages follow it to another CD. -/
def State.moveSpill (s : State) (b cd : Nat) : Option State :=
  let x := s.block b
  let p := (s.launch x.launch).polder
  if x.core / 32 = cd then some s
  else x.groups.foldl (fun (o : Option State) g => o.bind (fun s => s.takeSpill p cd g)) (some (s.freeSpill b))

/-- Whether the convergence registers and watcher slots that a block's image holds are free at a place (R370). -/
def State.imageFits (s : State) (b core start : Nat) : Bool :=
  let x := s.block b
  x.convs.all (fun q => (Map.find? s.cores.convs (8 * (4 * core + (start + q.1 / 8) % 4) + q.1 % 8)).isNone) &&
  x.rings.all (fun q => (Map.find? s.cores.rings (16 * core + q.1)).isNone)

/-- Place a saved block: its registers, rings and copies return with it (R370, R371). -/
def State.placeOld (s : State) (b core start : Nat) : Option State :=
  let x := s.block b
  if !s.coreOpen core || !s.imageFits b core start then none
  else
    match buddyFree (512 * 1024) (roundShared x.sharedSz) (s.sharedUsed core) with
    | none => none
    | some a =>
      match s.moveSpill b (core / 32) with
      | none => none
      | some s =>
        (s.seatOld core start x.groups).map (fun s =>
          let cs := x.convs.foldl (fun (m : Map Conv) q => Map.insert m (8 * (4 * core + (start + q.1 / 8) % 4) + q.1 % 8) q.2) s.cores.convs
          let rs := x.rings.foldl (fun (m : Map Ring) q => Map.insert m (16 * core + q.1) q.2) s.cores.rings
          let s := { s with cores := { s.cores with convs := cs, rings := rs } }
          let s := s.modBlock b (fun y => { y with convs := [], rings := [], image := [] })
          let s := { s with cp := { s.cp with copy := s.cp.copy.map (fun (q : Nat × Copy) =>
            if q.2.blk = b then (q.1, { q.2 with core := core }) else q) } }
          s.enterCore b core start a)

/-! ### Finding a place -/

/-- The numbers 0 to n − 1 from one of the front end's choice on. -/
def State.turnFrom (s : State) (n k : Nat) : List Nat :=
  let r := (s.freeW (2 ^ 27 + k)).toNat % n
  (List.range n).map (fun i => (r + i) % n)

/-- The first core and start partition of a CD on which a block can be placed. -/
def State.spot (s : State) (old : Bool) (b cd : Nat) : Option (Nat × Nat) :=
  ((s.turnFrom 32 cd).flatMap (fun u => (s.turnFrom 4 (u + 64)).map (fun q => (32 * cd + u, q)))).find? (fun q =>
    (if old then s.placeOld b q.1 q.2 else s.placeNew b q.1 q.2).isSome)

/-- Places for all of some blocks on a CD at once, each after the ones before it (R340). -/
def State.spots (s : State) (old : Bool) (cd : Nat) : List Nat → Option (List (Nat × Nat))
  | [] => some []
  | b :: bs =>
    match s.spot old b cd with
    | none => none
    | some q =>
      match if old then s.placeOld b q.1 q.2 else s.placeNew b q.1 q.2 with
      | none => none
      | some s => (State.spots s old cd bs).map (q :: ·)

/-- Place several blocks in one act. -/
def State.placeAll (s : State) (old : Bool) : List (Nat × Nat × Nat) → Option State
  | [] => some s
  | q :: qs =>
    match if old then s.placeOld q.1 q.2.1 q.2.2 else s.placeNew q.1 q.2.1 q.2.2 with
    | none => none
    | some s => State.placeAll s old qs

/-! ### The compactor (R55) -/

/-- A group whose registers may move (R246). -/
def State.mayMove (s : State) (g : Nat) : Bool :=
  let x := s.group g
  x.windows.isEmpty && !s.inFlight g &&
  !s.cores.convs.any (fun q => q.2.members.contains g && q.2.round.isSome) &&
  !s.cores.moves.any (fun m => !m.shared && m.key == g)
/-- A block whose shared range may move: no copy or watcher fetch that uses it is in flight. -/
def State.sharedStill (s : State) (b : Nat) : Bool :=
  !s.cp.copy.any (fun q => q.2.blk == b && q.2.started && !q.2.complete) &&
  !s.cores.rings.any (fun q => q.2.blk == b && s.owes q.2) &&
  !s.cores.moves.any (fun m => m.shared && m.key == b)

/-- A register move that a partition's compactor may make for a size: a group and its new base. -/
def State.regMove (s : State) (p size : Nat) : Option (Nat × Nat) :=
  let used := s.regsUsed p
  let free := 1024 - (used.map (·.2)).sum
  if free < size ∨ (buddyFree 1024 size used).isSome then none
  else (s.heldGroups p).findSome? (fun q =>
    let n := roundRegs q.2.nregs
    if !s.mayMove q.1 then none
    else (((List.range (1024 / n)).map (· * n)).find? (fun a =>
      decide (a / size ≠ q.2.regBase / size) && !used.any (fun u => overlaps a n u.1 u.2))).map (fun a => (q.1, a)))
/-- A move of a shared range on a core. -/
def State.sharedMove (s : State) (core size : Nat) : Option (Nat × Nat) :=
  let used := s.sharedUsed core
  let free := 512 * 1024 - (used.map (·.2)).sum
  if size = 0 ∨ free < size ∨ (buddyFree (512 * 1024) size used).isSome then none
  else (s.heldBlocks core).findSome? (fun q =>
    let n := roundShared q.2.sharedSz
    if n = 0 || !s.sharedStill q.1 then none
    else (((List.range (512 * 1024 / n)).map (· * n)).find? (fun a =>
      decide (a / size ≠ q.2.sharedAt / size) && !used.any (fun u => overlaps a n u.1 u.2))).map (fun a => (q.1, a)))

/-- The compactor makes room on a CD for a block that does not fit. -/
def State.compactFor (s : State) (regs shared cd : Nat) : State :=
  let parts := (List.range 128).filter (fun i => s.coreOpen ((128 * cd + i) / 4))
  match parts.findSome? (fun i => s.regMove (128 * cd + i) regs) with
  | some q => s.soon (.compactorMoveStart false q.1 q.2)
  | none =>
    match ((List.range 32).filter (fun u => s.coreOpen (32 * cd + u))).findSome? (fun u => s.sharedMove (32 * cd + u) shared) with
    | some q => s.soon (.compactorMoveStart true q.1 q.2)
    | none => s

/-- The pause of a group that moves, about 300 cycles. -/
def movePause : Nat := near 16 300

/-- COMPACTOR_MOVE_START: a register range or a shared range starts to move, and its groups pause (R55). -/
def execCompactorMoveStart (shared : Bool) (key base : Nat) (s : State) : Host.Outcome State Fault Refusal :=
  let till := s.ag.cycle + movePause
  let pause := fun (s : State) (g : Nat) => (s.modGroup g (fun x => { x with pausedTo := till })).count (s.group g).part 0x0009 1
  let go := fun (s : State) =>
    let mv : Move := { shared := shared, key := key, till := till }
    ({ s with cores := { s.cores with moves := s.cores.moves ++ [mv] } } : State).after movePause
      (.compactorMoveEnd shared key)
  if shared then
    let x := s.block key
    let n := roundShared x.sharedSz
    let others := (s.heldBlocks x.core).filter (fun q => q.1 != key)
    if x.place != .live || n == 0 || base % n != 0 || decide (512 * 1024 < base + n) || !s.sharedStill key || (s.core x.core).hold ||
        others.any (fun q => overlaps base n q.2.sharedAt (roundShared q.2.sharedSz)) then .next s
    else .next (go (x.groups.foldl pause (s.modBlock key (fun y => { y with sharedAt := base }))))
  else
    let x := s.group key
    let n := roundRegs x.nregs
    let others := (s.heldGroups x.part).filter (fun q => q.1 != key)
    if decide (1024 ≤ x.part) || x.retired || base % n != 0 || decide (1024 < base + n) || !s.mayMove key || (s.core x.core).hold ||
        others.any (fun q => overlaps base n q.2.regBase (roundRegs q.2.nregs)) then .next s
    else .next (go (pause (s.modGroup key (fun y => { y with regBase := base })) key))

end Sys2Proof.Machine
end

