-- ==== Sys2Proof/Machine/Query.lean ====
section
/-! DEFINITION. Run-control (R254 to R262): the query record, the lanes that a query matches, the actions, and the order in
which the event arbiter takes queries. -/

namespace Sys2Proof.Machine

/-! ### The record (R254, R256) -/

/-- The action of a `qrun` and the register of its count: 0 COUNT to 6 WRITE. -/
def qrunOf : Instr → Option (BitVec 8 × Nat)
  | .qrunCount _ d _ => some (d, 0)
  | .qrunStop _ d _ => some (d, 1)
  | .qrunStep _ d _ => some (d, 2)
  | .qrunResume _ d _ => some (d, 3)
  | .qrunKill _ d _ => some (d, 4)
  | .qrunRead _ d _ _ => some (d, 5)
  | .qrunWrite _ d _ _ => some (d, 6)
  | _ => none

/-- A record, with the value of `s[sv]` as its ninth word, that breaks R254. -/
def malformed (system : Bool) (act : Nat) (ops : List Word) : Bool :=
  let w := fun i => ops.getD i 0
  let scope := bitsOf (w 0) 0 3
  let named := system && (decide (scope = 1) || decide (scope = 2))
  decide (3 < scope) || decide (bitsOf (w 0) 3 5 ≠ 0) || decide (bitsOf (w 0) 18 6 ≠ 0) || decide (bitsOf (w 0) 27 5 ≠ 0) ||
  (decide (act < 5) && decide (bitsOf (w 0) 8 8 ≠ 0)) || (!named && decide (bitsOf (w 0) 24 3 ≠ 0)) ||
  (!(system && decide (scope = 1)) && decide (bitsOf (w 0) 32 32 ≠ 0)) || decide (bitsOf (w 3) 13 51 ≠ 0) ||
  decide (bitsOf (w 4) 43 21 ≠ 0) || decide (bitsOf (w 5) 43 21 ≠ 0) || decide (bitsOf (w 6) 5 59 ≠ 0) ||
  decide (4 < bitsOf (w 6) 2 3) || decide (bitsOf (w 6) 0 2 = 3) || (decide (act = 5) && decide ((w 8).toNat % 8 ≠ 0))

/-- A polder whose policy grants run-control (R256, R386). -/
def State.grantsRun (s : State) (p : Nat) : Bool := (s.polder? p).any (fun q => q.policy.dbgBits.getLsbD 1)

/-- A query that is refused (R256). -/
def State.refused (s : State) (x : Group) (ops : List Word) : Bool :=
  let scope := bitsOf (ops.getD 0 0) 0 3
  if x.system then (decide (scope = 1) || decide (scope = 2)) && !s.grantsRun (bitsOf (ops.getD 0 0) 24 3)
  else decide (2 ≤ scope) || (decide (scope = 1) && !(s.cluster (s.block x.blk).cluster).kernel.launchCtl)

/-! ### The lanes in scope (R23, R255, R256) -/

/-- Block b is a descendant of a block with a lineage (R23). -/
def descends (b x : Word) : Bool :=
  let d := x.toNat / 2 ^ 60
  decide (d < b.toNat / 2 ^ 60) && decide (b.toNat % 2 ^ (6 * d) = x.toNat % 2 ^ (6 * d))

/-- Whether a query from a block reaches the blocks of a launch with a lineage. -/
def State.inScope (s : State) (q : Query) (b : Block) : Bool :=
  let w := q.ops.getD 0 0
  let me := s.block q.blk
  let l := s.launch b.launch
  let system := (s.group q.grp).system
  match bitsOf w 0 3 with
  | 0 => !system && b.launch == me.launch && descends (s.cluster b.cluster).lineage (s.cluster me.cluster).lineage
  | 1 => if system then l.polder == bitsOf w 24 3 && l.id.toNat == bitsOf w 32 32 else b.launch == me.launch
  | 2 => l.polder == bitsOf w 24 3
  | _ => s.grantsRun l.polder

/-- The blocks in scope: sealed blocks are in none, unstarted ones only when the query names them. -/
def State.scopeBlocks (s : State) (q : Query) : List Nat :=
  let un := (q.ops.getD 0 0).getLsbD 16
  (s.work.blocks.filter (fun e =>
    e.2.place != .retired && e.2.place != .sealed && (un || !(e.2.place == .pending)) && s.inScope q e.2)).map (·.1)

/-- The code of a wait state (R255). -/
def WaitState.code : WaitState → Nat
  | .unstarted => 0 | .running => 1 | .barrier => 2 | .rejoin => 3 | .tag => 4 | .fault => 5 | .stopped => 6 | .yield => 7
  | .matrix => 8 | .prewait => 9 | .spawnwait => 10 | .sleep => 11 | .trapped => 12

/-- A lane that a query sees: of a placed or saved block, or of an unstarted one. -/
structure Hit where
  rank  : List Nat              -- the order of READ (R258)
  blk   : Nat
  grp   : Nat
  lane  : Nat
  un    : Bool                  -- of an unstarted block
  core  : Nat
  deriving DecidableEq, Repr

/-- Signed comparison of the watched value (R254). -/
def watchHolds (op : Nat) (v o : Word) : Bool :=
  match op with
  | 0 => v == o
  | 1 => v != o
  | 2 => v.slt o
  | 3 => !v.slt o
  | _ => decide (v &&& o ≠ 0)

/-- The identity, PC, state and watch tests of a query (R254, R256). -/
def passes (ops : List Word) (helper : Bool) (gid lane blk : Nat) (pc : Word) (st : Nat) (watched : Nat → Option Word) : Bool :=
  let w := fun i => ops.getD i 0
  let ident := BitVec.ofNat 64 (helper.toNat * 2 ^ 42 + gid * 2 ^ 37 + lane * 2 ^ 32 + blk)
  decide ((pc ^^^ w 1) &&& w 2 = 0) && (w 3).getLsbD st && decide ((ident ^^^ w 4) &&& w 5 = 0) &&
  (match bitsOf (w 6) 0 2 with
   | 0 => true
   | n => (watched n).any (fun v => watchHolds (bitsOf (w 6) 2 3) v (w 7)))

/-- The lanes of a block that a query matches. -/
def State.hitsIn (s : State) (q : Query) (bk : Nat) : List Hit :=
  let b := s.block bk
  let l := s.launch b.launch
  let k := (s.cluster b.cluster).kernel
  let key := [l.polder, l.id.toNat, b.id.toNat]
  if b.groups.isEmpty && b.place == .pending then
    (List.range b.lanesN).filterMap (fun i =>
      if passes q.ops false (i / 32) (i % 32) b.id.toNat k.entry 0 (fun _ => none) then
        some { rank := key ++ [i / 32, i % 32], blk := bk, grp := 0, lane := i, un := true, core := b.core }
      else none)
  else
    b.groups.flatMap (fun g =>
      let x := s.group g
      (lanesOf x.present).filterMap (fun i =>
        let y := x.lane i
        let watched := fun n => (if n = 1 then k.w0 else k.w1).map (fun r => Map.get x.v 0 (32 * r + i))
        if !(g == q.grp && q.lanes.getLsbD i) && (!y.helper || (q.ops.getD 0 0).getLsbD 17) &&
            passes q.ops y.helper x.gid i b.id.toNat y.pc y.wait.code watched then
          some { rank := key ++ [x.gid, i], blk := bk, grp := g, lane := i, un := false, core := x.core }
        else none))

/-- Insert a lane in the order of READ. -/
def insertHit (h : Hit) : List Hit → List Hit
  | [] => [h]
  | k :: ks => if lexLt h.rank k.rank then h :: k :: ks else k :: insertHit h ks
/-- The lanes that a query matches, in the order of READ (R258). -/
def State.hits (s : State) (q : Query) : List Hit := ((s.scopeBlocks q).flatMap (s.hitsIn q)).foldr insertHit []

/-! ### The actions (R258 to R260) -/

/-- STOP. -/
def Lane.stop (y : Lane) : Lane :=
  match y.wait with
  | .running | .yield => { y with wait := .stopped, remembered := .running, stepping := false, met := false }
  | .stopped | .trapped | .unstarted => y
  | w => { y with wait := .stopped, remembered := w, stepping := false, met := false }
/-- A lane past the `brk` at which it stopped (R154). -/
def Lane.pastBrk (y : Lane) : Lane := { y.advance with brkDone := false }
/-- STEP; the completion of the wait in which the lane was stopped counts as its one instruction (R259). -/
def Lane.step (y : Lane) : Lane :=
  if y.wait != .stopped || y.frozen then y
  else if y.brkDone then y.pastBrk
  else if y.met then { y with met := false }
  else { y with wait := y.remembered, stepping := true }
/-- RESUME of a stopped lane. -/
def Lane.resume (y : Lane) : Lane :=
  if y.wait != .stopped then y
  else if y.brkDone then { y.pastBrk with wait := .running }
  else { y with wait := y.remembered, stepping := false }

/-- RESUME: a stopped lane goes on, and a held trap is delivered; held poison ends the launch (R258, R365, R378). -/
def State.resumeLane (s : State) (g l : Nat) : State :=
  let y := s.lane g l
  if y.wait = .trapped then
    if !y.heldTrap then s
    else if y.trapCause.toNat = Cause.poison.code then
      (s.modLane g l (fun y => { y with heldTrap := false })).soon (.poisonConsumedInstant (s.launchOf g))
    else s.deliver g l y.trapCause.toNat
  else s.modLane g l Lane.resume

/-- The matched lanes of each group. -/
def hitGroups (hs : List Hit) : List (Nat × LaneMask) :=
  ((hs.map (·.grp)).eraseDups).map (fun g => (g, maskOf (fun l => hs.any (fun h => h.grp == g && h.lane == l))))

/-- One entry of READ. -/
def State.readHit (s : State) (blk reg : Nat) (off : Nat) (h : Hit) : State :=
  let x := s.group h.grp
  let v : Word := if h.un || decide (x.nregs ≤ reg) then 0 else s.getV x reg h.lane
  s.putShared blk off (bytesOf 8 v.toNat)

/-- READ: the entries that lie in the issuing block's allocation are stores of the issuing lanes, which the detector checks and records; a
lane of them that conflicts traps (R72, R74, R258). -/
def State.readHits (s : State) (q : Query) (reg sv : Nat) (hs : List Hit) : State :=
  let es := (hs.zipIdx.map (fun (h : Hit × Nat) => (h.1, sv + 8 * h.2))).filter (fun e => decide (e.2 + 8 ≤ (s.block q.blk).sharedSz))
  let x := s.group q.grp
  let ls := lanesOf (x.inWait q.wait q.lanes)
  let clash := fun (l : Nat) => if (x.lane l).helper then none
    else es.findSome? (fun e => s.conflict (.lane q.grp l) 0 q.blk e.2 8 true false)
  let good := ls.filter (fun l => (clash l).isNone)
  let s := if good.isEmpty then s else es.foldl (fun s e => s.readHit q.blk reg e.2 e.1) s
  let s := (good.filter (fun l => !(x.lane l).helper)).foldl (fun s l =>
    es.foldl (fun s e => s.record (.lane q.grp l) 0 q.blk e.2 8 true false) s) s
  let bad := ls.filterMap (fun l => (clash l).map (fun a => (l, a)))
  bad.foldl (fun s (e : Nat × Nat) => s.trap q.grp e.1 .mmConflict (BitVec.ofNat 64 e.2))
    (if bad.isEmpty then s else s.count x.part 0x0104 1)

/-- WRITE to one lane; inside a matrix window the engine may see it (R240, R258). -/
def State.writeHit (s : State) (reg : Nat) (v : Word) (h : Hit) : State :=
  if h.un then s
  else s.modGroup h.grp (fun x => if x.nregs ≤ reg then x else (x.putV reg (bit1 h.lane) (fun _ => v)).dirtyV reg (bit1 h.lane))

/-- What an action changes of a saved block is in its image too (R260): an image that came from outside gives way to the block's state. -/
def State.imageFresh (s : State) (b : Nat) : State := s.modBlock b (fun y => { y with image := [] })

/-- The effect of an action on the matched lanes. -/
def State.act_ (s : State) (q : Query) (act : Nat) (hs : List Hit) : State :=
  let placed := hs.filter (fun h => !h.un)
  let reg := bitsOf (q.ops.getD 0 0) 8 8
  let sv := q.ops.getD 8 0
  match act with
  | 1 => placed.foldl (fun s h => s.modLane h.grp h.lane Lane.stop) s
  | 2 => placed.foldl (fun s h => s.modLane h.grp h.lane Lane.step) s
  | 3 => placed.foldl (fun s h => s.resumeLane h.grp h.lane) s
  | 4 =>
    let s := s.kill (hitGroups placed)
    s.removeUnstarted ((hs.filter (·.un)).map (·.blk)).eraseDups
  | 5 => s.readHits q reg sv.toNat hs
  | 6 => hs.foldl (fun s h => s.writeHit reg sv h) s
  | _ => s

/-! ### The arbiter (R256, R257, R261) -/

/-- The answer of another unit reaches the lanes that wait for it, and is written after a latency. -/
def State.finish (s : State) (g id : Nat) (r : Res) (lat : Nat) : State :=
  match (s.group g).waits.find? (fun w => w.id == id) with
  | none => s
  | some w =>
    let ws := r.writes ((s.group g).inWait id w.lanes)
    (s.modGroup g (fun x =>
      { x with pending := if x.pending.any (fun p => p.id == id) then
                            x.pending.map (fun p => if p.id == id then { p with writes := ws } else p)
                          else x.pending ++ [{ id := id, flag := 15, lanes := w.lanes, writes := ws }] })).after lat (.resultWriteback g id)

/-- The cores that HOLD reaches. -/
def State.scopeCores (s : State) (q : Query) : List Nat :=
  match q.instr with
  | .qterm .. => ((s.work.groups.filter (fun e => s.launchOf e.1 == (s.block q.blk).launch && !e.2.system)).map (fun e => e.2.core)).eraseDups
  | _ =>
    let ls := ((s.scopeBlocks q).map (fun b => (s.block b).launch)).eraseDups
    ((s.work.groups.filter (fun e => ls.contains (s.launchOf e.1) && !e.2.system)).map (fun e => e.2.core)).eraseDups

/-- The core of a compactor move. -/
def State.moveCore (s : State) (m : Move) : Nat := if m.shared then (s.block m.key).core else (s.group m.key).core

/-- The function whose counters a query's group counts in. -/
def State.fnOf (s : State) (g : Nat) : Nat := if (s.group g).system then 0 else s.polderOf g + 1

/-- Perform a query at its instant (R256, R262). -/
def State.queryNow (s : State) (q : Query) : State :=
  let lat := if (s.scopeCores q).length ≤ 1 then near 8 251 else near 13 3143
  match qrunOf q.instr with
  | some (d, act) =>
    let hs := s.hits q
    let cores := ((hs.map (·.core)).eraseDups).map (fun c => ((hs.filter (fun h => h.core == c)).length + 2047) / 2048)
    let s := (s.count (instFn (s.fnOf q.grp)) 0x0402 1).count (instFn (s.fnOf q.grp)) 0x0403 cores.sum
    let s := ((hs.map (·.blk)).eraseDups).foldl State.imageFresh (s.act_ q act hs)
    s.finish q.grp q.wait (sOut d (BitVec.ofNat 64 hs.length)) lat
  | none =>
    let s := if (s.group q.grp).system then s else s.endLaunch (s.block q.blk).launch 6 ((q.ops.getD 0 0).toNat % 65536)
    s.finish q.grp q.wait {} lat

/-- Set or clear HOLD on some cores. -/
def State.holdCores (s : State) (cs : List Nat) (b : Bool) : State := cs.foldl (fun s c => s.modCore c (fun x => { x with hold := b })) s

/-- The arbiter takes its next query when 200 ns have passed since the last; a held core that has a compactor move in progress
acknowledges when the move ends (R55, R261). -/
def State.arbitrate (s : State) : State :=
  match s.ctl.queries with
  | [] => s
  | q :: qs =>
    if s.ctl.arbDead then s
    else if s.ag.clock < s.ctl.arbAt then s
    else
      let cs := (q.held ++ s.scopeCores q).eraseDups
      if s.cores.moves.any (fun m => cs.contains (s.moveCore m)) then
        ({ s with ctl := { s.ctl with queries := { q with held := cs } :: qs } } : State).holdCores cs true
      else
        let s := { s with ctl := { s.ctl with queries := qs, arbAt := s.ag.clock + 200 } }
        let s := (s.queryNow q).holdCores cs false
        match qs with
        | [] => s
        | _ => s.atNs (s.ag.clock + 200) (.resultWriteback 0 0)

/-- A query reaches the arbiter. -/
def State.ask (s : State) (g : Nat) (m : LaneMask) (i : Instr) (ops : List Word) : State :=
  let (id, s) := s.hold g m .spawnwait i []
  let q : Query := { grp := g, blk := (s.group g).blk, wait := id, lanes := m, instr := i, ops := ops, held := [] }
  let s := { s with ctl := { s.ctl with queries := s.ctl.queries ++ [q] } }
  (s.atNs (max (s.ag.clock + 1) s.ctl.arbAt) (.resultWriteback 0 0)).arbitrate

/-- A `dws.free` whose frames a majority cell holds as its destination is answered when that has been written (R100). -/
def State.freeWaits (s : State) (g id : Nat) : Bool :=
  let p := s.polderOf g
  (s.group g).waits.any (fun w => w.id == id && (match w.instr with
    | .dwsFree .. => (s.xlat p).freeFrames.any (s.heldFrame p)
    | _ => false))

/-- RESULT_WRITEBACK (R133, R134, R241): the result lands, or a wait whose condition has held completes; lanes that wait for writes
see it, and a query whose time has come is taken. Id 0 names only the moment at which results of `lf` = 0 instructions are readable. -/
def execResultWriteback (g id : Nat) (s : State) : Host.Outcome State Fault Refusal :=
  if s.freeWaits g id then .next (s.soon (.resultWriteback g id)) else
  let s := match (s.group g).waits.find? (fun w => w.id == id && w.due) with
    | some w => s.wakeDue g w
    | none => s.landResult g id
  let s := s.modGroup g (fun x => { x with score := x.score.filter (fun q => decide (s.ag.cycle < q.at_)) })
  .next (s.wake g).arbitrate

/-! ### `qrun` and `qterm` -/

/-- A `qrun`. -/
def State.qrun (s : State) (h : Hdr) (i : Instr) (d : BitVec 8) (act : Nat) (n : BitVec 7) (sv : Option (BitVec 8)) :
    Host.Outcome State Fault Refusal :=
  s.perform h i (fun x g m s =>
    let ops := (List.range 8).map (fun j => s.getS x (n.toNat + j)) ++ (sv.map (fun r => s.getS x r.toNat)).toList
    if malformed x.system act ops then s.answer g m .spawnwait h i (sOut d (code 2))
    else if s.refused x ops then s.answer g m .spawnwait h i (sOut d (code 1))
    else s.ask g m i ops)

/-- `qrun.count`. -/
def execQrunCount (h : Hdr) (d : BitVec 8) (n : BitVec 7) (s : State) : Host.Outcome State Fault Refusal :=
  s.qrun h (.qrunCount h d n) d 0 n none
/-- `qrun.stop`. -/
def execQrunStop (h : Hdr) (d : BitVec 8) (n : BitVec 7) (s : State) : Host.Outcome State Fault Refusal :=
  s.qrun h (.qrunStop h d n) d 1 n none
/-- `qrun.step`. -/
def execQrunStep (h : Hdr) (d : BitVec 8) (n : BitVec 7) (s : State) : Host.Outcome State Fault Refusal :=
  s.qrun h (.qrunStep h d n) d 2 n none
/-- `qrun.resume`. -/
def execQrunResume (h : Hdr) (d : BitVec 8) (n : BitVec 7) (s : State) : Host.Outcome State Fault Refusal :=
  s.qrun h (.qrunResume h d n) d 3 n none
/-- `qrun.kill`. -/
def execQrunKill (h : Hdr) (d : BitVec 8) (n : BitVec 7) (s : State) : Host.Outcome State Fault Refusal :=
  s.qrun h (.qrunKill h d n) d 4 n none
/-- `qrun.read`. -/
def execQrunRead (h : Hdr) (d : BitVec 8) (n : BitVec 7) (sv : BitVec 8) (s : State) : Host.Outcome State Fault Refusal :=
  s.qrun h (.qrunRead h d n sv) d 5 n (some sv)
/-- `qrun.write`. -/
def execQrunWrite (h : Hdr) (d : BitVec 8) (n : BitVec 7) (sv : BitVec 8) (s : State) : Host.Outcome State Fault Refusal :=
  s.qrun h (.qrunWrite h d n sv) d 6 n (some sv)

/-- `qterm` (R262). -/
def execQterm (h : Hdr) (code : USrc) (s : State) : Host.Outcome State Fault Refusal :=
  s.perform h (.qterm h code) (fun x g m s => s.ask g m (.qterm h code) [s.uVal x code])

end Sys2Proof.Machine
end

