-- ==== Sys2Proof/Machine/Image.lean ====
section
/-! DEFINITION. The saved image of a block (R366 to R369, R371), byte by byte. -/

namespace Sys2Proof.Machine

/-- Bytes filled up with zeros, or cut, to a length. -/
def fit (n : Nat) (bs : List Byte) : List Byte := bs.take n ++ List.replicate (n - bs.length) 0
/-- n zero bytes. -/
def zeros (n : Nat) : List Byte := List.replicate n 0

/-! ### The block's part (R366) -/

/-- A barrier's 16 bytes. -/
def barImage (b : Barrier) : List Byte :=
  bytesOf 16 (b.phase.toNat + b.count % 2 ^ 24 * 2 ^ 16 + b.expected % 2 ^ 24 * 2 ^ 40 + b.mode % 4 * 2 ^ 64 + b.init.toNat * 2 ^ 66)
/-- Sixteen barriers from a number on. -/
def barsImage (m : Map Barrier) (lo : Nat) : List Byte :=
  (List.range 16).flatMap (fun i => barImage (Map.get m Barrier.fresh (lo + i)))

/-- A ring binding's 64 bytes. -/
def State.ringImage (s : State) (r : Ring) : List Byte :=
  bytesOf 8 r.base ++ bytesOf 8 r.notify ++ bytesOf 8 r.n ++ bytesOf 8 r.word.toNat ++ bytesOf 8 r.prod ++
  bytesOf 8 (1 + r.unbind.toNat * 2 + (s.group r.grp).gid * 2 ^ 8) ++ zeros 16
/-- The sixteen ring bindings. -/
def State.ringsImage (s : State) (m : Map Ring) : List Byte :=
  (List.range 16).flatMap (fun k => match Map.find? m k with
    | some r => s.ringImage r
    | none => zeros 64)

/-- The lanes of a member that have signed a round. -/
def Round.signed (r : Round) (g : Nat) : LaneMask := maskOf (fun l => r.sigs.any (fun e => e.grp == g && e.lane == l))
/-- A convergence entry's 128 bytes. -/
def State.convImage (s : State) (c : Conv) : List Byte :=
  let masks := fit 16 (c.masks.flatMap (fun m => bytesOf 4 m.toNat))
  let signed := fit 16 (c.members.flatMap (fun g => bytesOf 4 ((c.round.map (fun (r : Round) => r.signed g)).getD 0).toNat))
  let ids := fit 4 (c.members.flatMap (fun g => bytesOf 1 (s.group g).gid))
  let b36 := 1 + c.round.isSome.toNat * 2 + groupCode c.members.length * 4
  let sigs := fit 48 (c.members.flatMap (fun g =>
    bytesOf 12 (((c.round.bind (fun (r : Round) => r.sigs.find? (fun e => e.grp == g))).map (·.enc)).getD 0)))
  let word := bytesOf 8 ((c.round.map (fun (r : Round) => r.word)).getD 0).toNat
  masks ++ signed ++ ids ++ bytesOf 1 b36 ++ zeros 3 ++ sigs ++ word ++ zeros 32
/-- The 32 convergence entries. -/
def State.convsImage (s : State) (m : Map Conv) : List Byte :=
  (List.range 32).flatMap (fun k => match Map.find? m k with
    | some c => s.convImage c
    | none => zeros 128)

/-- A copy context's 96 bytes (R371). -/
def Copy.image (c : Copy) : List Byte :=
  let words := fun (ws : List Word) => ws.flatMap (fun w => bytesOf 8 w.toNat)
  words [c.w0, c.w1, c.w2, c.w3] ++ fit 32 (words c.second) ++ zeros 6 ++ bytesOf 1 c.ring ++
  bytesOf 1 (if c.started then c.susp else 0) ++ bytesOf 8 c.idx ++ bytesOf 8 c.done ++ zeros 8

/-! ### Groups and lanes (R367, R368) -/

/-- A dike entry's 16 bytes. -/
def DikeEntry.image (e : DikeEntry) : List Byte := bytesOf 8 e.handler.toNat ++ bytesOf 7 e.openPc.toNat ++ bytesOf 1 e.sreg.toNat

/-- A lane's 128 bytes; its PC is its resume PC, and its arrived bits lie in the barriers. -/
def laneImage (y : Lane) (arrived : Nat) : List Byte :=
  bytesOf 8 y.pc.toNat ++ bytesOf 1 (y.wait.code + (if y.wait = .stopped then y.remembered.code * 16 else 0)) ++
  bytesOf 1 (y.left.toNat + y.helper.toNat * 2 + y.inHandler.toNat * 4 + y.brkDone.toNat * 8) ++ bytesOf 1 y.bsc.toNat ++
  bytesOf 1 (y.fpStatus.toNat + y.fpMode.toNat * 32) ++ bytesOf 1 y.dike.length ++ zeros 3 ++ bytesOf 4 arrived ++
  bytesOf 4 y.trapCause.toNat ++ bytesOf 8 y.trapPc.toNat ++ bytesOf 8 y.trapAddr.toNat ++ zeros 24 ++
  fit 64 (y.dike.reverse.flatMap DikeEntry.image)

/-- The barriers, as a mask, at which a test holds. -/
def State.arrivedBits (s : State) (blk : Nat) (t : Barrier → Bool) : Nat :=
  (List.range 32).foldl (fun n i => if t (s.bar blk i) then n + 2 ^ i else n) 0

/-- A group's image. -/
def State.groupImage (s : State) (g : Nat) : List Byte :=
  let x := s.group g
  let b := s.block x.blk
  let kind := (x.lanes.foldl (fun n y => max n y.stopKind) 0)
  let fmts := (List.range 32).foldl (fun n t => n + Map.get x.tileFmt 0 t * 4 ^ t) 0
  let head := bytesOf 2 0x4749 ++ bytesOf 1 1 ++ bytesOf 1 (x.nregs / 8) ++ bytesOf 1 x.ntiles ++ bytesOf 1 x.gid ++ bytesOf 1 kind ++
    zeros 1 ++ bytesOf 8 fmts ++ bytesOf 4 b.id.toNat ++ bytesOf 4 (s.launch b.launch).id.toNat ++
    bytesOf 4 (s.arrivedBits x.blk (fun k => NatSet.mem k.groupArr g)) ++ zeros 36
  head ++
  (List.range 32).flatMap (fun l => laneImage (x.lane l) (s.arrivedBits x.blk (fun k => NatSet.mem k.lanesArr (32 * g + l)))) ++
  (List.range 96).flatMap (fun r => bytesOf 8 (Map.get x.s 0 r).toNat) ++
  (List.range 8).flatMap (fun r => bytesOf 4 (if r = 7 then 2 ^ 32 - 1 else (Map.get x.p 0 r).toNat)) ++
  (List.range 16).flatMap (fun r => bytesOf 4 (Map.get x.j 0 r).toNat) ++
  (List.range 16).flatMap (fun r => bytesOf 32 (Map.get x.b 0 r).toNat) ++ zeros 96 ++
  (List.range x.nregs).flatMap (fun r => (List.range 32).flatMap (fun l => bytesOf 8 (Map.get x.v 0 (32 * r + l)).toNat)) ++
  (List.range (256 * x.ntiles)).flatMap (fun k => bytesOf 8 (Map.get x.tile 0 k).toNat)

/-- The copies of a block that have not completed. -/
def State.copiesOf (s : State) (b : Nat) : List (Nat × Copy) := s.cp.copy.filter (fun q => q.2.blk == b && !q.2.complete)

/-- Every other block of a block's cluster is saved (R340). -/
def State.allSaved (s : State) (c : Nat) : Bool :=
  (s.cluster c).blocks.all (fun b => match (s.block b).place with
    | .saved | .sealed | .retired => true
    | _ => false)

/-- The image of a saved block as its save and all that has reached it since make it: the barriers of its cluster lie in it from when the
last block of the cluster is saved (R260, R340, R366). -/
def State.blockImage (s : State) (b : Nat) : List Byte :=
  let x := s.block b
  let c := s.cluster x.cluster
  let cs := s.copiesOf b
  let head := bytesOf 2 0x4B42 ++ bytesOf 1 1 ++ bytesOf 1 x.groups.length ++ bytesOf 2 x.lanesN ++ bytesOf 2 ((x.sharedSz + 4095) / 4096) ++
    bytesOf 4 x.id.toNat ++ bytesOf 4 c.id.toNat ++ bytesOf 1 x.rank ++ zeros 7 ++ bytesOf 8 c.lineage.toNat ++ bytesOf 2 cs.length ++ zeros 30
  let hub := if x.rank = 0 ∧ s.allSaved x.cluster then barsImage c.bars 16 else zeros 256
  let front := head ++ bytesOf 8 x.tags.toNat ++ (List.range 64).map (fun t => Map.get x.tagStatus 0 t) ++ zeros 120 ++
    barsImage x.bars 0 ++ hub ++ s.ringsImage x.rings ++ s.convsImage x.convs ++ cs.flatMap (fun q => q.2.image)
  let front := fit ((front.length + 4095) / 4096 * 4096) front
  front ++ fit ((x.sharedSz + 4095) / 4096 * 4096) (Mem.read x.shared 0 x.sharedSz) ++ x.groups.flatMap s.groupImage

/-- Bytes of an image. -/
def imageAt (img : List Byte) (o n : Nat) : List Byte := (img.drop o).take n
/-- The bytes of a range are zero. -/
def zeroAt (img : List Byte) (o n : Nat) : Bool := (imageAt img o n).all (fun b => b == 0)
/-- A group image at an offset: its magic, major and reserved fields are right, and so are those of the n − 1 after it. -/
def okGroups (img : List Byte) : Nat → Nat → Bool
  | 0, _ => true
  | n + 1, o =>
    numOf (imageAt img o 2) == 0x4749 && numOf (imageAt img (o + 2) 1) == 1 && zeroAt img (o + 7) 1 && zeroAt img (o + 28) 36 &&
    zeroAt img (o + 0x15A0) 96 &&
    (List.range 32).all (fun l => zeroAt img (o + 64 + 128 * l + 13) 3 && zeroAt img (o + 64 + 128 * l + 40) 24) &&
    okGroups img n (o + 0x1600 + 2048 * numOf (imageAt img (o + 3) 1) + 2048 * numOf (imageAt img (o + 4) 1))
/-- The reserved fields of the n barriers from an offset on are zero. -/
def okBars (img : List Byte) (n o : Nat) : Bool :=
  (List.range n).all (fun k => decide (numOf (imageAt img (o + 16 * k + 8) 1) < 8) && zeroAt img (o + 16 * k + 9) 7)
/-- The same of copy contexts. -/
def okCopies (img : List Byte) (n o : Nat) : Bool :=
  (List.range n).all (fun k => zeroAt img (o + 96 * k + 64) 6 && zeroAt img (o + 96 * k + 88) 8)
/-- A block image's magics, majors and reserved fields are right (R369). -/
def okImage (img : List Byte) : Bool :=
  let copies := numOf (imageAt img 32 2)
  let front := (0x1700 + 96 * copies + 4095) / 4096 * 4096
  numOf (imageAt img 0 2) == 0x4B42 && numOf (imageAt img 2 1) == 1 && zeroAt img 17 7 && zeroAt img 34 30 && zeroAt img 0x88 120 &&
  okBars img 32 0x100 && okCopies img copies 0x1700 &&
  okGroups img (numOf (imageAt img 3 1)) (front + 4096 * numOf (imageAt img 6 2))

end Sys2Proof.Machine
end

