-- ==== Sys2Proof/Machine/Preempt.lean ====
section
/-! DEFINITION. Pre-emption: stopping the lanes of a block, saving it and bringing it back (R59 to R61, R135, R366 to R372),
the displacement of an early successor (R341), and the end of a compactor move (R55). -/

namespace Sys2Proof.Machine

/-! ### Stopping (R59, R60) -/

/-- The instructions whose answer another unit owes; they perform when it comes (R59). -/
def isAnswered : Instr → Bool
  | .spawn .. | .qrunCount .. | .qrunStop .. | .qrunStep .. | .qrunResume .. | .qrunKill .. | .qrunRead .. | .qrunWrite ..
  | .qterm .. | .dwsPin .. | .dwsUnpin .. | .dwsAlloc .. | .dwsFree .. | .icinv .. => true
  | _ => false

/-- A lane is stopped, with its stop kind (R367). -/
def Lane.stopNow (y : Lane) (kind : Nat) : Lane := { y with frozen := true, stopAsked := false, stopKind := kind }

/-- A lane of a kernel without `region_safe` that is at a forced boundary when it is asked to stop: it waits at one, has trapped,
or has done all it will do (R60, R365). -/
def State.atBoundary (s : State) (g l : Nat) : Bool :=
  let y := s.lane g l
  y.wait == .trapped || y.done || (s.group g).waits.any (fun w => w.lanes.getLsbD l && w.id == y.waitId && isBoundary w.instr) ||
  (y.wait == .fault && decide (y.waitId = 0) && (match s.seenLine g y.pc with
    | .line bytes => (match decode (lineSlot bytes (pcSlot y.pc)) with
      | .ok i => isBoundary i
      | .error _ => false)
    | _ => false))

/-- Ask one lane to stop; whether it is stopped already. -/
def State.askLane (s : State) (g l : Nat) (safe : Bool) : State :=
  if safe then s.modLane g l (fun y => y.stopNow 0)
  else if s.atBoundary g l then s.modLane g l (fun y => y.stopNow 1)
  else s.modLane g l (fun y => { y with stopAsked := true })

/-- Every lane of a block has stopped or left. -/
def State.allStopped (s : State) (b : Nat) : Bool :=
  (s.block b).groups.all (fun g => (lanesOf (s.group g).present).all (fun l => (s.lane g l).frozen))

/-- A block is asked to stop, alone or with its launch: from here its save waits for its lanes (R59, R60). -/
def State.stopBlock (s : State) (alone : Bool) (b : Nat) : State :=
  let x := s.block b
  if x.place != .live then s
  else
    let safe := (s.cluster x.cluster).kernel.regionSafe
    let s := s.modBlock b (fun y => { y with place := .saving, alone := alone })
    let s := x.groups.foldl (fun s g => (lanesOf (s.group g).present).foldl (fun s l => s.askLane g l safe) s) s
    s.next (.preemptLaneStop (x.groups.headD 0) 32)

/-! ### Saving (R59, R246, R366, R371) -/

/-- An answer that lanes of a group await has not come. -/
def State.awaits (s : State) (g : Nat) : Bool :=
  (s.group g).waits.any (fun w => decide (w.lanes ≠ 0) &&
    ((Map.find? s.work.spawns w.id).isSome || s.ctl.queries.any (fun q => q.grp == g && q.wait == w.id)))

/-- What must end before a block is saved: owed answers, matrix operations, compactor moves, and cells that a majority copy is in
the middle of. -/
def State.mayClose (s : State) (b : Nat) : Bool :=
  let gs := (s.block b).groups
  gs.all (fun g => !s.awaits g && !s.inFlight g) &&
  !s.cores.moves.any (fun m => if m.shared then m.key == b else gs.contains m.key) &&
  (s.copiesOf b).all (fun q => q.2.cell.all (fun c => c.st == .idle))

/-- Issued results land, and answers that have come complete their waits. -/
def State.landAll (s : State) (g : Nat) : State :=
  let x := s.group g
  (x.pending.filter (fun p => match x.waits.find? (fun w => w.id == p.id) with
    | some w => isAnswered w.instr
    | none => true)).foldl (fun s p => s.landResult g p.id) s

/-- A lane as its image holds it: at its resume PC (R59, R154). -/
def Lane.save (y : Lane) : Lane :=
  if y.left then y
  else { y with pc := y.restart, bsc := y.restartBsc, entry := .resume, waitId := 0, passed := 0, stepping := false, stopAsked := false,
                met := false, frozen := true, brkDone := y.brkDone && decide (y.stopKind ≠ 0) }

/-- A group as its image holds it: flags clear, buffered stores dropped, nowhere placed. -/
def Group.save (x : Group) : Group :=
  { x with part := 2048, slot := 0, regBase := 0, pausedTo := 0, pending := [], score := [], waits := [], ages := [], forcedB := none,
           lines := [], buf := [], lanes := x.lanes.map Lane.save }

/-- A copy as its context holds it (R371): a REDUCE that has read its sources is in flight and runs on; any other begins again at its
progress. -/
def Copy.save (c : Copy) (flying : Bool) : Copy :=
  if c.complete || c.susp == 9 then c
  else if flying then { c with susp := if c.susp = 0 then 3 else c.susp }
  else { c with susp := if c.susp = 2 then 2 else 1, landed := [], got := [], base := 0, upto := 0 }
/-- A copy is a REDUCE whose round is in flight. -/
def State.flying (s : State) (ck : Nat) : Bool := s.cp.colls.any (fun q => q.2.local_ == some ck)

/-- Save a block: its resources are free, and it waits in the pending store. -/
def State.saveBlock (s : State) (b : Nat) : State :=
  let x := s.block b
  let s := x.groups.foldl State.landAll s
  let s := x.groups.foldl (fun s g => (lanesOf (s.group g).present).foldl (fun s l => s.closeRegion (.lane g l)) s) s
  let s := x.groups.foldl (fun s g => s.modGroup g Group.save) s
  let mine := fun (p : Nat) => decide (4 * x.core ≤ p) && decide (p < 4 * x.core + 4)
  let convs := (s.cores.convs.filter (fun q => mine (q.1 / 8) && q.2.blk == b)).map (fun q => (8 * ((q.1 / 8 + 4 - x.start % 4) % 4) + q.1 % 8, q.2))
  let rings := (s.cores.rings.filter (fun q => q.1 / 16 == x.core && q.2.blk == b)).map (fun q => (q.1 % 16, q.2))
  let s := { s with cores := { s.cores with convs := s.cores.convs.filter (fun q => q.2.blk != b),
                                            rings := s.cores.rings.filter (fun q => q.2.blk != b) } }
  let s := { s with cp := { s.cp with copy := s.cp.copy.map (fun (q : Nat × Copy) => if q.2.blk = b then (q.1, q.2.save (s.flying q.1)) else q) } }
  let s := s.modBlock b (fun y =>
    { y with place := .saved, stopBy := 0, image := [], convs := convs.foldl (fun (m : Map Conv) q => Map.insert m q.1 q.2) [], rings := rings })
  let s := s.leftCore x.launch x.core
  (({ s with fe := { s.fe with pendBlk := s.fe.pendBlk.filter (fun k => k != b) ++ [b] } } : State).seek).drainSeen x.core

/-- Save a block once everything has stopped; otherwise look again. -/
def State.trySave (s : State) (b : Nat) : State :=
  if (s.block b).place != .saving || !s.allStopped b then s
  else if s.mayClose b then s.saveBlock b
  else s.soon (.preemptLaneStop ((s.block b).groups.headD 0) 32)

/-- PREEMPT_LANE_STOP: a lane that was asked to stop has performed a forced boundary (lane 32, which no group has: none did, and only
the whole block is looked at); when it was the last, its block is saved
(R60). -/
def execPreemptLaneStop (g l : Nat) (s : State) : Host.Outcome State Fault Refusal :=
  let b := (s.group g).blk
  let s := if (s.lane g l).stopAsked && !(s.lane g l).left then s.modLane g l (fun y => y.stopNow 1) else s
  .next (s.trySave b)

/-- PREEMPTION of a launch on some cores (R59, R60). -/
def execPreemption (l : Nat) (cores : List Nat) (s : State) : Host.Outcome State Fault Refusal :=
  .next (((s.blocksOf l).filter (fun b => cores.contains (s.block b).core)).foldl (fun s b => s.stopBlock false b) s)

/-- A lane that has not stopped is stopped precisely: it commits its buffered stores, and its resume PC is its next instruction
(R341, R373). -/
def State.stopPrecisely (s : State) (b : Nat) : State :=
  if (s.block b).place != .saving then s
  else
    let s := (s.block b).groups.foldl (fun s g => (lanesOf (s.group g).present).foldl (fun s l =>
      if (s.lane g l).frozen then s
      else (s.commit g l).modLane g l (fun y => (y.restartAt y.pc).stopNow 2)) s) s
    s.trySave b

/-- EARLY_SUCCESSOR_DISPLACE: a block of an early successor is pre-empted, and within 20 ms stopped precisely (R341). -/
def execEarlySuccessorDisplace (b : Nat) (s : State) : Host.Outcome State Fault Refusal :=
  if (s.block b).place != .live then .next s
  else
    let t := s.ag.clock + 20000000
    .next (((s.modBlock b (fun x => { x with stopBy := t })).stopBlock true b).atNs t (.displacePreciseStop b))
/-- DISPLACE_PRECISE_STOP, for the displacement that is under way (R341). -/
def execDisplacePreciseStop (b : Nat) (s : State) : Host.Outcome State Fault Refusal :=
  .next (if (s.block b).stopBy ≠ 0 ∧ (s.block b).stopBy ≤ s.ag.clock then s.stopPrecisely b else s)

/-! ### Coming back (R61, R370, R442) -/

/-- The copies of a block run on, and its rings are fetched again. -/
def State.wakeCopies (s : State) (b : Nat) : State :=
  let x := s.block b
  let off := ((s.polder? (s.launch x.launch).polder).map (·.suspended)).getD true
  let s := (s.copiesOf b).foldl (fun s q =>
    let c := q.2
    if off || decide (2 ≤ c.susp) then s
    else
      let s := { s with cp := { s.cp with copy := Map.insert s.cp.copy q.1 { c with susp := 0 } } }
      if c.started then s.soon (.copyChunkLanded q.1) else s) s
  (s.cores.rings.filter (fun q => q.2.blk == b)).foldl (fun s q => s.soon (.watcherFetchEntry (q.1 / 16) (q.1 % 16))) s

/-- A lane as it resumes (R59, R61). -/
def Lane.revive (y : Lane) : Lane :=
  if y.left then y
  else { y with frozen := false, stopAsked := false, stopKind := 0, waitId := 0, entry := .resume, restart := y.pc, restartBsc := y.bsc,
                remembered := .running, wait := match y.wait with
                  | .stopped => .stopped
                  | .trapped => .trapped
                  | _ => .running }

/-- A lane that is no longer asked to stop goes on where it is; a sleep whose deadline has come is over (R152, R442). -/
def Lane.thaw (y : Lane) (now : Nat) : Lane :=
  let y := { y with frozen := false, stopAsked := false, stopKind := 0 }
  if y.wait = .sleep ∧ y.waitId = 0 ∧ y.deadline ≤ now then Lane.settle { y with wait := .running } else y
/-- A pre-emption ends: a block whose save has begun, its lanes all having stopped, completes it; the lanes of any other go on where they
are (R442). -/
def State.unstop (s : State) (b : Nat) : State :=
  if (s.block b).place != .saving || s.allStopped b then s
  else
    let s := s.modBlock b (fun x => { x with place := .live, stopBy := 0 })
    let s := (s.block b).groups.foldl (fun s g => s.modLanes g (s.group g).present (fun _ y => y.thaw s.ag.clock)) s
    s.wakeCopies b

/-- A block is back on a core. -/
def State.revive (s : State) (b : Nat) : State :=
  let s := (s.block b).groups.foldl (fun s g => s.modGroup g (fun x => { x with lanes := x.lanes.map Lane.revive })) s
  let s := { s with fe := { s.fe with pendBlk := s.fe.pendBlk.filter (fun k => k != b) } }
  s.wakeCopies b

/-- The blocks that return with a block: all of its cluster's when every one is saved, else itself (R340). -/
def State.together (s : State) (b : Nat) : List Nat :=
  let c := (s.block b).cluster
  if s.allSaved c then b :: ((s.cluster c).blocks.filter (fun k => k != b && (s.block k).place == .saved)) else [b]

/-- A launch waits for the work of an earlier launch of its queue: a cluster, or a block that a pre-emption has saved, that is not
placed (R308, R341). -/
def State.behind (s : State) (l : Nat) : Bool :=
  let x := s.launch l
  let earlier := fun (k : Nat) => (s.launch k).queue == x.queue && decide ((s.launch k).cmdIdx < x.cmdIdx) && !(s.launch k).done
  s.fe.pend.any (fun c => earlier (s.cluster c).launch) || s.fe.pendBlk.any (fun b => earlier (s.block b).launch)

/-- A saved block may return: nothing of it is sealed, no REDUCE of it is in flight, and its polder runs. -/
def State.mayReturn (s : State) (b : Nat) : Bool :=
  let x := s.block b
  x.place == .saved && (s.copiesOf b).all (fun q => q.2.susp != 3) &&
  (s.cluster x.cluster).blocks.all (fun k => (s.block k).place != .sealed && (s.block k).place != .saving) &&
  (match s.polder? (s.launch x.launch).polder with
   | some p => !p.paused && !p.seized && !s.trust.seizure.any (fun z => z.by_ == (s.launch x.launch).polder)
   | none => false)

/-- BLOCK_RESUME: a block, and with it the saved rest of a wholly saved cluster, returns to a core; an image from outside that fails R369 ends
its launch; one that the device has written is right in form. -/
def execBlockResume (b core start : Nat) (s : State) : Host.Outcome State Fault Refusal :=
  let bs := s.together b
  if !bs.all s.mayReturn || s.behind (s.block b).launch then .next s
  else if !bs.all (fun k => (s.block k).image.isEmpty || okImage (s.block k).image) then .next (s.endLaunch (s.block b).launch 4 0)
  else if (bs.length == 1 && ((s.block b).alone || !s.allSaved (s.block b).cluster)) && (s.cluster (s.block b).cluster).cd != core / 32 then .next s
  else
    let rest := match s.placeOld b core start with
      | some s => (s.spots true (core / 32) (bs.drop 1)).map (fun qs => (bs.drop 1).zip qs)
      | none => none
    match rest with
    | none => .next s
    | some qs =>
      match s.placeAll true ((b, core, start) :: qs) with
      | none => .next s
      | some s =>
        let s := s.modCluster (s.block b).cluster (fun c => { c with cd := core / 32 })
        .next (bs.foldl State.revive s).bump

/-- COMPACTOR_MOVE_END: the groups run on, and a query that waited for the move is taken (R55). -/
def execCompactorMoveEnd (shared : Bool) (key : Nat) (s : State) : Host.Outcome State Fault Refusal :=
  let s := { s with cores := { s.cores with moves := s.cores.moves.filter (fun m => !(m.shared == shared && m.key == key)) } }
  .next s.arbitrate.seek

end Sys2Proof.Machine
end

