-- ==== Sys2Proof/Machine/Mailbox.lean ====
section
/-! DEFINITION. Mailboxes of the control cores (R273, R274, R394): messages that other units put into a box, `mbox.recv`,
`mbox.send`, and `halt` (R272). -/

namespace Sys2Proof.Machine

/-- A message of another unit enters a box of a control core, whose waiting lane sees it (R272, R274). -/
def State.post (s : State) (core box : Nat) (m : Msg) : State := (s.enter core box m).wake (core + 1)

/-- The code of an interface state (R394). -/
def IfState.code : IfState → Nat
  | .unlocked => 0 | .locked => 1 | .run => 2 | .error => 3

/-- The trust root's reply on a control core's box 1: code, status and interface state, and the reply's further words (R394). -/
def State.ifReply (s : State) (core code status st : Nat) (words : List Word) : State :=
  s.post core 1 { seq := 0, fn := 0, length := 8 + 8 * words.length, words := BitVec.ofNat 64 (code + status * 2 ^ 8 + st * 2 ^ 16) :: words }

/-- The control core of the active complex that a box serves: requests and notices go to its core 0, reports to its core 1
(R408). -/
def State.activeCore (s : State) (n : Nat) : Nat := 2 * s.ctl.active + n

/-- `halt` (R272). -/
def execHalt (h : Hdr) (s : State) : Host.Outcome State Fault Refusal :=
  s.perform h (.halt h) (fun _ g m s => s.waitFor g m .sleep (.halt h) [])

/-- Whether a control core still runs. -/
def State.coreRuns (s : State) (cc : Nat) : Bool := !NatSet.mem s.ctl.stopped cc

/-- The standby takes over within 10 ms (R410). -/
def State.takeoverSoon (s : State) : State := (s.atNs (s.ag.clock + 1 + Config.pace s.ag.free % 10000000) .standbyTakeover).bump

/-- `halt.stop`: the core stops until reset and reports it; when it belongs to the active complex, the standby takes over
(R272, R410). -/
def execHaltStop (h : Hdr) (s : State) : Host.Outcome State Fault Refusal :=
  s.perform h (.haltStop h) (fun x g m s =>
    let cc := x.ctl
    let s := { s with ctl := { s.ctl with stopped := NatSet.add s.ctl.stopped cc } }
    let s := (s.advance g m).modLanes g m (fun _ y => { y with frozen := true })
    let last := (List.range 4).all (fun k => !s.coreRuns k)
    let r : Report := { cls := if last then 6 else 7, source := 11, cd := 0, unit := cc, polder := none, addr := 0,
                        time := s.ag.clock, launch := 0 }
    let s := s.next (if last then .fatalError r else .errorReport r)
    if cc / 2 = s.ctl.active then s.takeoverSoon else s)

/-- `mbox.recv` (R274). -/
def execMboxRecv (h : Hdr) (nb : Bool) (d : BitVec 8) (k : BitVec 7) (box : BitVec 4) (s : State) : Host.Outcome State Fault Refusal :=
  let i : Instr := .mboxRecv h nb d k box
  s.perform h i (fun x g m s =>
    if nb && ((s.box x.ctl box.toNat).isEmpty || !s.takes x.ctl box.toNat) then (s.give g h m (latency i) (sOut d 0x8000000000000000)).advance g m
    else s.waitFor g m .sleep i [])

/-- A header that `mbox.send` may carry (R273, R274). -/
def okHeader (w : Word) : Bool :=
  decide (bitsOf w 0 8 ≤ 64) && decide (bitsOf w 8 4 < 3) && decide (bitsOf w 12 4 = 0) && decide (bitsOf w 16 16 ≤ 8) &&
  decide (bitsOf w 48 16 = 0)

/-- Bytes in 64-bit words, lowest first. -/
def wordsOf (bs : List Byte) : List Word := (List.range ((bs.length + 7) / 8)).map (fun i => wordOf ((bs.drop (8 * i)).take 8))
/-- The bytes that a message carries. -/
def msgBytes (m : Msg) : List Byte := (m.words.flatMap (fun w => bytesOf 8 w.toNat)).take m.length
/-- A message goes to its function's response mailbox. -/
def State.toHost (s : State) (m : Msg) : State := { s with ctl := { s.ctl with hostResp := m :: s.ctl.hostResp } }
/-- A piece of a report has been answered: the first of two is kept for the second, and the last one makes the response, cut from the offset
on, at most as long as asked; a piece refused, of length 0, makes it an error, of no bytes (R392, R397). -/
def State.answerPiece (s : State) (m : Msg) (piece off n : Nat) : State :=
  if piece = 0 ∧ 64 < off + n then { s with ctl := { s.ctl with piece0 := Map.insert s.ctl.piece0 m.fn (msgBytes m) } }
  else
    let low := if piece = 0 then [] else if off < 64 then Map.get s.ctl.piece0 [] m.fn else List.replicate 64 0
    let bs := if m.length = 0 ∨ (piece = 1 ∧ low.isEmpty) then [] else ((low ++ msgBytes m).drop off).take n
    { s with ctl := { s.ctl with piece0 := Map.erase s.ctl.piece0 m.fn } }.toHost { m with length := bs.length, words := wordsOf bs }
/-- A message on box 0 answers a request of a function; the trust root discards the answer to a request that it forwarded under
a session whose keys have since been discarded (R397). -/
def State.answerHost (s : State) (m : Msg) : State :=
  let epoch := if m.fn = 0 then s.trust.pfSess.epoch else ((s.polder? (m.fn - 1)).map (·.vf.sess.epoch)).getD 0
  let s' := { s with ctl := { s.ctl with fwd := s.ctl.fwd.filter (fun q => !(q.seq == m.seq && q.fn == m.fn)) } }
  match s.ctl.fwd.find? (fun q => q.seq == m.seq && q.fn == m.fn) with
  | some q =>
    if q.epoch ≠ epoch then s'
    else match q.report with
      | some (piece, off, n) => s'.answerPiece m piece off n
      | none => s'.toHost m
  | none => s'.toHost m

/-- The trust root's event for a request on box 1 (R394, R407). -/
def trustEvent (core : Nat) (m : Msg) : Instr :=
  let w0 := msgWord m 0
  let fn := bitsOf w0 8 8
  if bitsOf w0 16 48 ≠ 0 ∨ fn < 1 ∨ 8 < fn then .trustRootBadRequest core w0
  else match bitsOf w0 0 8 with
    | 1 => .ifLock core fn
    | 2 => .ifStart core fn
    | 3 => .ifStop core fn
    | 4 => .ifState core fn
    | 5 => .ifInfo core fn
    | 16 => .collCreate core fn (msgWord m 1) (msgWord m 2).toNat
    | _ => .trustRootBadRequest core w0

/-- `mbox.send` (R273, R274). -/
def execMboxSend (h : Hdr) (nb : Bool) (d a : BitVec 8) (k : BitVec 7) (s : State) : Host.Outcome State Fault Refusal :=
  let i : Instr := .mboxSend h nb d a k
  s.perform h i (fun x g m s =>
    let hd := s.getS x a.toNat
    let words := (List.range 8).map (fun j => s.getS x (k.toNat + j))
    let reply := fun (s : State) (v : Word) => (s.give g h m (latency i) (sOut d v)).advance g m
    if !okHeader hd then reply s (code 2)
    else
      let msg : Msg := { seq := bitsOf hd 32 16, fn := bitsOf hd 16 16, length := bitsOf hd 0 8, words := words }
      match bitsOf hd 8 4 with
      | 0 => reply (s.answerHost msg) 0
      | 1 => reply (s.next (trustEvent x.ctl msg)) 0
      | _ =>
        if nb && decide (16 ≤ (s.box (peerCore x.ctl) 2).length) then reply s (code 1)
        else s.waitFor g m .sleep i (hd :: words))

end Sys2Proof.Machine
end

