-- ==== Sys2Proof/Machine/System.lean ====
section
/-! DEFINITION. Spawning (R250 to R253), successors (R263, R264), regions and dikes (R265, R266), `icinv`, `ctr.read` and the
returns from a trap (R268 to R270). -/

namespace Sys2Proof.Machine

/-- `spawn`: the record goes to the front end, and the lanes wait for its answer (R250, R251). -/
def execSpawn (h : Hdr) (trp : Bool) (d : BitVec 8) (k : BitVec 7) (s : State) : Host.Outcome State Fault Refusal :=
  let i : Instr := .spawn h trp d k
  s.perform h i (fun x g m s =>
    let w := fun j => s.getS x (k.toNat + j)
    let (id, s) := (s.sync g m).hold g m .spawnwait i []
    let q : SpawnReq := { grp := g, blk := x.blk, lanes := m, d := d.toNat, trp := trp, desc := w 0, rec1 := w 1,
                          params := (List.range 8).map (fun j => w (2 + j)) }
    { s with work := { s.work with spawns := Map.insert s.work.spawns id q } }.after (latency i) (.spawnAnswer id))

/-- `spawn.wait` (R253). -/
def execSpawnWait (h : Hdr) (d a : BitVec 8) (s : State) : Host.Outcome State Fault Refusal :=
  s.perform h (.spawnWait h d a) (fun x g m s => s.waitFor g m .spawnwait (.spawnWait h d a) [s.getS x a.toNat])

/-- `pre.done` (R263). -/
def execPreDone (h : Hdr) (s : State) : Host.Outcome State Fault Refusal :=
  s.perform h (.preDone h) (fun _ g m s =>
    let l := s.launchOf g
    ((s.modLaunch l (fun y => { y with preDone := true })).kick (s.launch l).queue).advance g m)

/-- `pre.wait` (R264). -/
def execPreWait (h : Hdr) (d : BitVec 8) (s : State) : Host.Outcome State Fault Refusal :=
  s.perform h (.preWait h d) (fun _ g m s => s.waitFor g m .prewait (.preWait h d) [])

/-- `rgn` (R56, R265). -/
def execRgn (h : Hdr) (s : State) : Host.Outcome State Fault Refusal :=
  s.perform h (.rgn h) (fun _ g m s => (s.boundary g m).advance g m)

/-- `dike.open`: a lane whose stack is full traps (R266). -/
def execDikeOpen (h : Hdr) (sr : BitVec 8) (loff : BitVec 32) (slot : BitVec 3) (s : State) : Host.Outcome State Fault Refusal :=
  s.perform h (.dikeOpen h sr loff slot) (fun x g m s =>
    let pc := s.ag.cur.pc
    let full := m &&& maskOf (fun l => decide (4 ≤ (x.lane l).dike.length))
    let e : DikeEntry := { handler := relTarget pc loff slot, sreg := sr, openPc := pc }
    let s := (s.modLanes g (m &&& ~~~full) (fun _ y => { y with dike := e :: y.dike })).advance g (m &&& ~~~full)
    s.trapAll g full .illegalEncoding (fun _ => 0))

/-- `dike.close`: a lane whose stack is empty traps (R266). -/
def execDikeClose (h : Hdr) (s : State) : Host.Outcome State Fault Refusal :=
  s.perform h (.dikeClose h) (fun x g m s =>
    let none_ := m &&& maskOf (fun l => (x.lane l).dike.isEmpty)
    let s := (s.modLanes g (m &&& ~~~none_) (fun _ y => { y with dike := y.dike.drop 1 })).advance g (m &&& ~~~none_)
    s.trapAll g none_ .illegalEncoding (fun _ => 0))

/-- The cores whose caches `icinv` reaches (R268). -/
def State.icinvCores (s : State) (x : Group) (p : Nat) (scope : Nat) : List Nat :=
  match scope with
  | 0 | 1 => [x.core]
  | 2 => (List.range 32).map (32 * x.cd + ·)
  | _ => ((s.polder? p).map (·.cds)).getD [] |>.flatMap (fun cd => (List.range 32).map (32 * cd + ·))

/-- `icinv`: from its completion on, a fetch of a lane in scope sees the bytes that are in memory now; the lines that groups there
have fetched are fetched again (R143, R268). -/
def execIcinv (h : Hdr) (scope : BitVec 2) (s : State) : Host.Outcome State Fault Refusal :=
  s.perform h (.icinv h scope) (fun x g m s =>
    let cs := s.icinvCores x (s.polderOf g) scope.toNat
    let s := { s with cores := { s.cores with stale := s.cores.stale.map (fun (e : Stale) =>
      { e with fresh := cs.foldl NatSet.add e.fresh }) },
                      work := { s.work with groups := s.work.groups.map (fun (q : Nat × Group) =>
      if cs.contains q.2.core then (q.1, { q.2 with lines := [] }) else q) } }
    let lat := if scope.toNat < 2 then near 9 50 else if scope = 2 then near 14 2095 else near 15 6285
    s.answerIn g m .running h (.icinv h scope) {} lat)

/-- How many events each counter group has (R433). -/
def groupEvents (g : Nat) : Nat := [10, 7, 3, 4, 4, 4, 4, 4, 2, 2].getD g 0
/-- The counter instances that a selector's group reads for an issuing group (R269, R433). -/
def State.instances (s : State) (x : Group) (g n : Nat) : List Nat :=
  match n with
  | 0 | 1 | 2 => if x.system then [x.part] else (List.range 4).map (4 * x.core + ·)
  | 3 => (List.range 16).map (instEngine x.cd)
  | 6 => [instCd x.cd]
  | 7 => [instDev]
  | _ => [instFn (s.fnOf g)]
/-- Whether the issuing group may read a counter group: a polder those it was granted, and group 7 only in system mode (R434). -/
def State.mayRead (s : State) (x : Group) (g n : Nat) : Bool :=
  x.system || (n != 7 && (s.polder? (s.polderOf g)).any (fun p => p.ctrGrant.getLsbD n))
/-- The value of `ctr.read` (R269). -/
def State.counterRead (s : State) (x : Group) (g sel : Nat) : Word :=
  let n := sel / 256
  if sel < 65536 ∧ sel % 256 < groupEvents n ∧ s.mayRead x g n then
    (((s.instances x g n).map (fun k => Map.get s.tele.counters 0 (k * 65536 + sel))).foldl (· + ·) (0 : BitVec 32)).setWidth 64
  else BitVec.allOnes 64

/-- `ctr.read` (R269). -/
def execCtrRead (h : Hdr) (d : BitVec 8) (selr : USrc) (s : State) : Host.Outcome State Fault Refusal :=
  s.compute h (.ctrRead h d selr) (fun s x _ => sOut d (s.counterRead x s.ag.cur.grp (s.uVal x selr).toNat))

/-- `eret` (R270). -/
def execEret (h : Hdr) (s : State) : Host.Outcome State Fault Refusal :=
  s.perform h (.eret h) (fun x g m s => (lanesOf m).foldl (fun s l => s.returnTo g l (x.lane l).trapPc) s)
/-- `eret.next` (R270). -/
def execEretNext (h : Hdr) (s : State) : Host.Outcome State Fault Refusal :=
  s.perform h (.eretNext h) (fun x g m s => (lanesOf m).foldl (fun s l => s.returnTo g l (nextPc (x.lane l).trapPc)) s)

end Sys2Proof.Machine
end

