-- ==== Sys2Proof/Machine/Translate.lean ====
section
/-! DEFINITION. Walks and invalidations (R352 to R355), the service of faults (R356 to R359) and the tenant's answers to them
(R357). -/

namespace Sys2Proof.Machine

/-! ### Walks (R352, R354) -/

/-- An entry maps a page, and is no table's. -/
def Cached.isLeaf (c : Cached) : Bool := decide (3 ≤ c.stage) || decide (bitsOf c.entry 6 1 = 1)
/-- An entry takes the place of another in a cache. -/
def Cached.same (c d : Cached) : Bool := c.polder == d.polder && c.stage == d.stage && c.page == d.page && c.level == d.level
/-- A unit holds what a walk has read: at most 16,384 leaves, the oldest going first, and the tables' entries in its walk cache
(R352). -/
def State.keepReads (s : State) (u : Nat) (cs : List Cached) : State :=
  let put := fun (m : Map (List Cached)) (new : List Cached) =>
    Map.insert m u ((new ++ (Map.get m [] u).filter (fun c => !new.any c.same)).take 16384)
  { s with tr := { s.tr with tlb := put s.tr.tlb (cs.filter Cached.isLeaf), tables := put s.tr.tables (cs.filter (fun c => !c.isLeaf)) } }

/-- An invalidation accepted since a walk began covers an entry that it read at either stage (R354). -/
def Walk.stale (w : Walk) (x : Xlat) : Bool :=
  x.invals.any (fun v => decide (w.gen < v.gen) && w.reads.any v.covers) ||
  x.invals2.any (fun v => decide (w.gen2 < v.gen) && w.reads.any v.covers)

/-- WALK_COMPLETE: the walk's result is held, or, when an invalidation accepted meanwhile covers it, the walk starts again (R354). -/
def execWalkComplete (k : Nat) (s : State) : Host.Outcome State Fault Refusal :=
  match Map.find? s.tr.walks k with
  | none => .next s
  | some w =>
    if !w.running then .next s
    else if w.stale (s.xlat w.polder) then
      .next ((({ s with tr := { s.tr with walks := Map.insert s.tr.walks k { w with running := false } } } : State).count
        (instCd w.unit) 0x0601 1).runWalks w.unit)
    else .next (({ s with tr := { s.tr with walks := Map.erase s.tr.walks k } } : State).keepReads w.unit w.reads |>.runWalks w.unit)

/-! ### Invalidations (R353, R354) -/

/-- A majority cell of a polder's copy is out of IDLE and holds its translations (R100). -/
def State.heldCells (s : State) (p : Nat) : Bool :=
  s.cp.copy.any (fun q => (s.launch (s.block q.2.blk).launch).polder == p && q.2.cell.any (fun c => c.st != .idle))
/-- A buffered DWS store of a polder has still to perform by a translation that a stage-1 invalidation removed (R57, R354). -/
def State.heldStores (s : State) (p : Nat) (v : Inval) : Bool :=
  s.work.groups.any (fun q => s.polderOf q.1 == p && q.2.buf.any (fun b =>
    b.space == 1 && decide (b.gen < v.gen) && v.covers { polder := p, stage := 3, page := b.page, level := 4, entry := 0 }))

/-! ### Moving pages (R360) -/

/-- The 4 KiB frames of a DRAM page that moves are unusable where a row has met the errors that a repair to a spare row would have taken
away (R428; log 154). -/
def State.dropFrames (s : State) (a n : Nat) : State :=
  let bad := (s.rel.rowErrs.filter (fun q => decide (8 ≤ (s.lastDay q.2).length) && decide (a ≤ 2048 * q.1) && decide (2048 * q.1 < a + n))).map (fun q => 2 ^ 40 + q.1 / 2)
  { s with mems := { s.mems with badFrm := bad.foldl NatSet.add s.mems.badFrm } }
/-- Copy the frame of a page that moves. -/
def State.copyFrame (s : State) (m : Migration) : State :=
  let x := s.xlat m.polder
  let at_ := fun (e : Word) => if bitsOf e 56 1 = 1 then ({ kind := 3, addr := dwsPa e, ipa := 0 } : Place) else { kind := 0, addr := dwsBack e, ipa := 0 }
  if m.dws then
    let old := at_ (Map.get x.s2dws 0 m.page)
    if at_ m.entry = old then s else s.movePlace old (at_ m.entry) 65536
  else match x.s2find (4096 * m.page) with
    | some l => (s.movePlace { kind := 0, addr := entryAddr l.entry, ipa := 0 } { kind := 0, addr := entryAddr m.entry, ipa := 0 } (levelSize l.level)).dropFrames
      (entryAddr l.entry) (levelSize l.level)
    | none => s
/-- A move is over. -/
def State.endMove (s : State) (p : Nat) (m : Migration) : State := s.modXlat p (fun x => { x with migs := x.migs.filter (fun q => q != m) })
/-- The next step of a move whose invalidation has completed: the frame is copied, and the new entry written and invalidated; then it is
over (R360). -/
def State.moveOn (s : State) (p : Nat) (m : Migration) : State :=
  if m.phase = 1 then
    let s := s.copyFrame m
    let s := if m.dws then s.setDws2 p m.page m.entry true
      else match (s.xlat p).s2find (4096 * m.page) with
        | some l => s.setLeaf p l m.entry true
        | none => s
    s.modXlat p (fun x => { x with migs := x.migs.map (fun q => if q = m then { m with phase := 2, num := x.issued2 } else q) })
  else s.endMove p m

/-- INVALIDATION_COMPLETE, from 8 on in the trust root's copy of the interface: the oldest invalidation of a polder completes once every
walk that began before it has finished or started again, and every access that uses what it removed has performed (R353, R354). -/
def execInvalidationComplete (p : Nat) (s : State) : Host.Outcome State Fault Refusal :=
  let two := decide (8 ≤ p)
  let q := if two then p - 8 else p
  let x := s.xlat q
  match if two then x.invals2 else x.invals with
  | [] => .next s
  | v :: vs =>
    let walks := s.tr.walks.any (fun e => e.2.polder == q && e.2.running && decide ((if two then e.2.gen2 else e.2.gen) < v.gen))
    if walks || s.heldCells q || (!two && s.heldStores q v) then .next (s.soon (.invalidationComplete p))
    else
      let s := s.modXlat q (fun x => if two then { x with invals2 := vs, doneN2 := v.num } else { x with invals := vs, doneN := v.num })
      let s := if two then (x.migs.filter (fun m => m.num == v.num)).foldl (fun s m => s.moveOn q m) s else s
      let cds := ((s.polder? q).map (·.cds)).getD []
      .next (cds.foldl (fun s cd => s.count (instCd cd) 0x0603 1) s)

/-! ### Requests that return (R53, R224, R356) -/

/-- The front end takes up again what a queue's fault held. -/
def State.frontRetry (s : State) (q : Nat) : State :=
  let s := ((s.soon (.commandRead q)).soon (.tokenWrite q)).kick q
  let s := if s.ag.atClock.any (fun e => e.2 == .waitPoll q) then s else s.soon (.waitPoll q)
  s.work.spawns.foldl (fun s r => if (s.launch (s.block r.2.blk).launch).queue = q then s.soon (.spawnAnswer r.1) else s) s

/-- A copy that waited for service goes on, unless its block is stopped or its polder suspended (R371, R372). -/
def State.copyServed (s : State) (c : Nat) : State :=
  match Map.find? s.cp.copy c with
  | some k =>
    if k.susp != 2 then s
    else
      let off := (s.block k.blk).place != .live || ((s.polder? (s.launch (s.block k.blk).launch).polder).map (·.suspended)).getD true
      let s := { s with cp := { s.cp with copy := Map.insert s.cp.copy c { k with susp := if off then 1 else 0, served := !off } } }
      if off then s else s.soon (.copyChunkLanded c)
  | none => s

/-- A request has been served: it is tried again. -/
def State.served (s : State) (who : Requester) : State :=
  match who with
  | .lane g m => s.unpark g m
  | .fetch g m => s.unpark g m
  | .copy c => s.copyServed c
  | .front q => s.frontRetry q

/-- A request's fault has failed: lanes trap, a copy ends with `XLATE_FAULT`, the front end's access is unserviceable (R356,
R357). -/
def State.unserved (s : State) (who : Requester) (va : Nat) : State :=
  let lanes := fun (s : State) (g : Nat) (m : LaneMask) =>
    let m := m &&& maskOf (fun l => !(s.lane g l).left && decide ((s.lane g l).waitId = 0) &&
      ((s.lane g l).wait == .fault || ((s.lane g l).wait == .stopped && (s.lane g l).remembered == .fault)))
    s.trapAll g m .dwsUnserviceable (fun _ => BitVec.ofNat 64 va)
  match who with
  | .lane g m => lanes s g m
  | .fetch g m => lanes s g m
  | .copy c =>
    match Map.find? s.cp.copy c with
    | some k => { s with cp := { s.cp with copy := Map.insert s.cp.copy c { k with status := 4, susp := 9 } } }.soon (.copyComplete c)
    | none => s
  | .front q => ({ s with fe := { s.fe with failed := NatSet.add s.fe.failed (va / 4096 * 4096 + q) } } : State).frontRetry q

/-! ### The fault ring's answers (R357) -/

/-- An answered or timed-out record leaves the ring; its request is tried again or fails. -/
def State.answerFault (s : State) (p idx : Nat) (retry : Bool) : State :=
  match (s.xlat p).rfaults.find? (fun f => f.idx == idx) with
  | none => s
  | some f =>
    let s := s.modXlat p (fun x => { x with rfaults := x.rfaults.filter (fun f => f.idx != idx) })
    if retry then s.served f.who else s.unserved f.who f.va

/-- FAULT_ANSWER_TIMEOUT: an answer that has not come within 1 s fails the fault. -/
def execFaultAnswerTimeout (p idx : Nat) (s : State) : Host.Outcome State Fault Refusal := .next (s.answerFault p idx false)

/-! ### The service of a CD (R358, R359) -/

/-- A copy word of a descriptor. -/
def State.copyWord (s : State) (desc k : Nat) : Word := wordOf (Mem.read s.mems.dram (desc + 8 + 8 * k) 8)
/-- The copies that a descriptor names. -/
def State.copyN (s : State) (desc : Nat) : Nat := (Map.get s.mems.dram 0 desc).toNat
/-- A copy's state: 0 present, 1 failed, 2 rebuilding. -/
def State.copySt (s : State) (desc k : Nat) : Nat := bitsOf (s.copyWord desc k) 62 2
/-- The address of a copy's cell, at an offset in the 64 KiB page. -/
def State.copyPa (s : State) (desc k off : Nat) : Nat := bitsOf (s.copyWord desc k) 16 40 * 65536 + off

/-- A polder maps a range of DRAM, or the range is unusable or beyond a stack's 192 GiB (R428, spec/00_scope.md). -/
def State.dramTaken (s : State) (a n : Nat) : Bool :=
  s.tr.polder.any (fun q => q.2.leaves.any (fun l => decide (bitsOf l.entry 56 4 = 0) &&
    decide (entryAddr l.entry < a + n) && decide (a < entryAddr l.entry + levelSize l.level))) ||
  decide (192 * 2 ^ 30 < a % 2 ^ 38 + n) || s.mems.badFrm.any (fun q => decide (2 ^ 40 ≤ q.1) && overlaps (4096 * (q.1 - 2 ^ 40)) 4096 a n)
/-- The ranges that majority copies of any polder hold. -/
def State.majRanges (s : State) : List (Nat × Nat) :=
  s.tr.polder.flatMap (fun q => q.2.majDesc.flatMap (fun d => (d.2, 4096) :: (List.range (s.copyN d.2)).map (fun k => (s.copyPa d.2 k 0, 65536))))
/-- DRAM that no polder maps and no majority copy holds. -/
def State.dramFree (s : State) (a n : Nat) : Bool := !s.dramTaken a n && !s.majRanges.any (fun r => overlaps a n r.1 r.2)

/-- A free DRAM frame of a stack: the page's old frame, or the next free one after it. -/
def State.freeDram (s : State) (a n : Nat) : Nat :=
  (((List.range 4096).map (fun i => a / 2 ^ 38 * 2 ^ 38 + (a % 2 ^ 38 + i * n) % (192 * 2 ^ 30))).find? (fun a => s.dramFree a n)).getD a

/-- Bring a demoted page back: its contents unchanged, or poisoned when its sealed bytes no longer match their tag (R375). -/
def State.promote (s : State) (p page : Nat) : State :=
  match Map.find? (s.xlat p).demoted page, (s.xlat p).s2find (4096 * page) with
  | some d, some l =>
    let n := levelSize l.level
    let a := s.freeDram (bitsOf d.entry 12 44 * 4096) n
    let key := ((s.polder? p).map (·.keyId)).getD 0
    let bytes := Mem.read d.cells 0 n
    let good := Mem.read s.mems.host d.host n == Config.xts key (4096 * page) bytes
    let e := BitVec.ofNat 64 (d.entry.toNat - bitsOf d.entry 12 44 * 4096 + a)
    let s := { s with mems := { s.mems with dram := Mem.paste s.mems.dram a n (d.cells.map (fun (c : Nat × Byte) => (c.1 + a, c.2))) } }
    let s := s.cleanAt { kind := 0, addr := a, ipa := 0 } n
    let s := d.sick.foldl (fun s o => s.poisonPut { kind := 0, addr := a + 64 * o, ipa := 0 } 64) s
    let s := if good then s else s.poisonPut { kind := 0, addr := a, ipa := 0 } n
    (s.modXlat p (fun x => { x with demoted := Map.erase x.demoted page })).setLeaf p l e false
  | _, _ => s

/-- The stage-2 page of an intermediate page: the page of its leaf. -/
def Xlat.leafPage (x : Xlat) (page : Nat) : Nat :=
  match x.s2find (4096 * page) with
  | some l => l.page
  | none => page

/-- Whether a page is being moved: its service waits for the move's last step (R360). -/
def State.moving (s : State) (f : FaultReq) : Bool :=
  let x := s.xlat f.polder
  x.migs.any (fun m => if m.dws then f.frames.contains m.page else (f.globals.map x.leafPage).contains m.page)

/-- A request in service has come back and not yet performed: its pages stay held until its lanes' retry has performed, or its copy has
moved its chunk (R358). -/
def State.retrying (s : State) : Requester → Bool
  | .lane g m | .fetch g m => (lanesOf m).any (fun l => decide ((s.lane g l).retry ≠ 0) && (s.lane g l).runs)
  | .copy c => (Map.find? s.cp.copy c).any (fun k => k.served && decide (k.susp = 0))
  | .front _ => false

/-- FAULT_SERVICE_COMPLETE: the pages of the oldest request are made resident and held, and it is tried again; the next request
follows once it has performed. -/
def execFaultServiceComplete (cd : Nat) (s : State) : Host.Outcome State Fault Refusal :=
  match Map.get s.tr.faults [] cd with
  | [] => .next { s with tr := { s.tr with held := Map.erase s.tr.held cd } }
  | f :: rest =>
    if s.moving f || (Map.find? s.tr.held cd).any (fun h => s.retrying h.who) then .next (s.soon (.faultServiceComplete cd))
    else
      let s := { s with tr := { s.tr with held := Map.insert s.tr.held cd f } }
      let s := f.globals.foldl (fun s g => s.promote f.polder ((s.xlat f.polder).leafPage g)) s
      let s := f.frames.foldl (fun s g => s.residentFrame f.polder g) s
      let s := { s with tr := { s.tr with faults := Map.insert s.tr.faults cd rest } }
      let s := (s.count (instCd cd) 0x0602 1).served f.who
      .next (s.soon (.faultServiceComplete cd))

end Sys2Proof.Machine
end

