-- ==== Sys2Proof/Machine/FrontEnd.lean ====
section
/-! DEFINITION. The command front end (R331 to R347): reading and taking commands, checking a descriptor (R293, R295, R338),
spawns (R250 to R252), placement (R339 to R341) and completion tokens (R343 to R345). -/

namespace Sys2Proof.Machine

/-! ### The front end's accesses (R356) -/

/-- What an access of the front end comes to: done, waiting for service, or unserviceable. -/
inductive Got (α : Type) where
  | ok (a : α)
  | wait
  | bad

/-- The front end already waits for the service of a page of a queue's access. -/
def State.frontWaits (s : State) (q p va : Nat) (f : XFault) : Bool :=
  (s.xlat p).rfaults.any (fun r => r.who == .front q && r.va / 4096 == va / 4096) ||
  (Map.get s.tr.faults [] 8).any (fun r => r.who == .front q && r.pages.contains f.page)

/-- The place of a global VA for a queue. -/
def State.frontReach (s : State) (q va : Nat) (need : Need) : State × Got Place :=
  let p := (s.queue q).polder
  let key := va / 4096 * 4096 + q
  let clear := fun (s : State) => { s with fe := { s.fe with failed := NatSet.del s.fe.failed key } }
  match s.global 8 p va need with
  | .ok k => if k.kind = 2 then (s, .bad) else (clear (s.startWalk p 8 (.front q) false va), .ok k)
  | .error f =>
    if NatSet.mem s.fe.failed key then (clear s, .bad)
    else if !f.serv then (s.noteFault p (.front q) f va, .bad)
    else if s.frontWaits q p va f then (s, .wait)
    else match s.raiseFault p 8 (.front q) false f va with
      | some s => (s, .wait)
      | none => (s, .bad)

/-- The places of the parts of a range. -/
def State.frontSpan (s : State) (q : Nat) (need : Need) : List (Nat × Nat) → State × Got (List (Place × Nat))
  | [] => (s, .ok [])
  | (va, n) :: rest =>
    match s.frontReach q va need with
    | (s, .bad) => (s, .bad)
    | (s, .wait) => (s, .wait)
    | (s, .ok k) =>
      match State.frontSpan s q need rest with
      | (s, .ok ks) => (s, .ok ((k, n) :: ks))
      | r => r

/-- Read global bytes for a queue. -/
def State.frontRead (s : State) (q va n : Nat) : State × Got (List Byte) :=
  match s.frontSpan q .r (pageParts va n) with
  | (s, .ok ks) => (s, .ok (ks.flatMap (fun (k : Place × Nat) => s.readAt k.1 k.2)))
  | (s, .wait) => (s, .wait)
  | (s, .bad) => (s, .bad)

/-- Write bytes over the places of a range. -/
def State.putSpan (s : State) : List (Place × Nat) → List Byte → State
  | [], _ => s
  | k :: ks, bs => State.putSpan (s.putBytes k.1 (bs.take k.2)) ks (bs.drop k.2)

/-- Write global bytes for a queue. -/
def State.frontWrite (s : State) (q va : Nat) (bs : List Byte) : State × Got Unit :=
  match s.frontSpan q .w (pageParts va bs.length) with
  | (s, .ok ks) => (s.putSpan ks bs, .ok ())
  | (s, .wait) => (s, .wait)
  | (s, .bad) => (s, .bad)

/-! ### Queue states (R337, R346) -/

/-- Where the command indices of a queue count from since its last reset. -/
def Queue.base (x : Queue) : Nat := x.nextTok / 2 ^ 64 * 2 ^ 64

/-- A queue from which the front end reads commands. -/
def Queue.reads (x : Queue) : Bool := x.st == .ready || x.st == .active || x.st == .blocked
/-- No token slot is free. -/
def Queue.ringFull (x : Queue) : Bool := decide (2 ^ x.cplLog ≤ x.cplP - x.cplC)

/-- The queue halts, with its cause. -/
def State.haltQueue (s : State) (q cause : Nat) : State :=
  if (s.queue q).reads then s.modQueue q (fun x => { x with st := .halted, cause := cause }) else s

/-- A queue with its context and nothing else; the command indices of one that has been reset count on above 2^64 within the model, which
no token shows. -/
def Queue.fresh (x : Queue) : Queue :=
  { x with st := .ready, cause := 0, prod := 0, cons := 0, cplP := 0, cplC := 0, store := [], taken := x.base + 2 ^ 64, waiting := none,
           tokens := [], nextTok := x.base + 2 ^ 64, lastLaunch := none, lastPend := none, lastStat := 0, turn := 0, free := false }

/-- `IF_STOP` is answered once every queue of the polder has finished its reset (R394). -/
def State.stopDone (s : State) (p : Nat) : State :=
  let cores := ((s.polder? p).map (·.vf.stopping)).getD []
  if cores.isEmpty || s.fe.queue.any (fun q => q.2.polder == p && q.2.st == .resetting) then s
  else
    let s := s.modPolder p (fun x => { x with vf := { x.vf with stopping := [] } })
    cores.foldl (fun s cc => s.ifReply cc 3 0 0 []) s

/-- The state that a queue has come to (R337), and the end of its reset once every token is written (R346). -/
def State.settleQueue (s : State) (q : Nat) : State :=
  let x := s.queue q
  if x.st = .resetting then
    if x.tokens.isEmpty && x.store.isEmpty && s.allDone q then
      if x.free then
        let s := { s with work := { s.work with launches := s.work.launches.map (fun (l : Nat × Launch) =>
          if l.2.queue = q then (l.1, { l.2 with queue := 4096 }) else l) } }
        (s.modQueue q (fun _ => Queue.none_)).stopDone x.polder
      else (s.modQueue q Queue.fresh).stopDone x.polder
    else s
  else if !x.reads then s
  else
    let stuck := match x.store with
      | c :: _ => (c.code == 1 || c.code == 2) && !s.canTake q
      | [] => false
    s.modQueue q (fun x => { x with st :=
      if x.waiting.isSome || stuck || (!x.tokens.isEmpty && x.ringFull) then .blocked
      else if x.cons == x.prod && x.store.isEmpty then .ready
      else .active })

/-- COMMAND_READ: one command below the producer index is copied into the store of 64, and the consumer index is written past it
(R336). -/
def execCommandRead (q : Nat) (s : State) : Host.Outcome State Fault Refusal :=
  let x := s.queue q
  let live := (s.polder? x.polder).any (fun p => p.vf.st != .error)
  if !x.reads || !live || x.prod ≤ x.cons || 64 ≤ x.store.length then .next (s.settleQueue q)
  else
    match s.frontRead q (x.cmdBase.toNat + 128 * (x.cons % 2 ^ x.cmdLog)) 128 with
    | (s, .wait) => .next s.bump
    | (s, .bad) => .next (s.haltQueue q 1).bump
    | (s, .ok bs) =>
      match s.frontWrite q x.cmdCons.toNat (bytesOf 8 (x.cons + 1)) with
      | (s, .wait) => .next s.bump
      | (s, .bad) => .next (s.haltQueue q 1).bump
      | (s, .ok _) =>
        let c : Cmd := { idx := x.base + x.cons, words := (List.range 16).map (fun i => wordOf ((bs.drop (8 * i)).take 8)) }
        let s := s.modQueue q (fun x => { x with cons := x.cons + 1, store := x.store ++ [c] })
        let s := (s.count (instFn (x.polder + 1)) 0x0500 1).kick q
        .next ((s.soon (.commandRead q)).settleQueue q).bump

/-! ### Tokens (R343 to R345) -/

/-- The launch of a token. -/
def State.tokenLaunch (s : State) (q : Nat) (t : Token) : Option (Nat × Launch) :=
  List.find? (fun (l : Nat × Launch) => l.2.queue == q && l.2.cmdIdx == t.cmd && l.2.id.toNat == t.launch && l.2.done) s.work.launches
/-- A core has yet to pass a scan that began after a launch's last block left it: one that began in the same ns began after it, as no block
is on a core that is scanned (R345, R426). -/
def State.unproven (s : State) (l : Launch) : Bool :=
  l.suspect || l.ranOn.any (fun r => r.2 == 0 || decide ((s.core r.1).lastPass < r.2))
/-- A token's 32 bytes. -/
def Token.bytes (t : Token) : List Byte :=
  bytesOf 8 (t.kind + t.prov.toNat * 2 ^ 8 + t.status * 2 ^ 16 + t.detail * 2 ^ 32) ++ bytesOf 8 t.cmd ++ bytesOf 8 t.cookie.toNat ++
  bytesOf 8 t.launch

/-- The token that is written next: a record that is ready, or the next in command order. What a queue reset left running comes before what
was submitted after it (R337, R344). -/
def State.nextToken (s : State) (q : Nat) : Option Token :=
  let x := s.queue q
  let later := fun (n : Nat) => s.work.launches.any (fun l => l.2.queue == q && !l.2.tokened && decide (l.2.cmdIdx < n)) ||
    x.tokens.any (fun t => t.kind == 0 && decide (t.cmd < n))
  x.tokens.find? (fun t => t.kind != 0 || ((t.cmd == x.nextTok || decide (t.cmd < x.base)) && !later t.cmd))
/-- A token leaves the writer, written or discarded; the launches that wait for it go on (R264). -/
def State.dropToken (s : State) (q : Nat) (t : Token) : State :=
  let run := if t.kind = 0 then s.tokenLaunch q t else none
  let s := s.modQueue q (fun x => { x with
    tokens := x.tokens.erase t, nextTok := if t.kind = 0 ∧ t.cmd = x.nextTok then x.nextTok + 1 else x.nextTok,
    lastStat := if t.kind = 0 ∧ x.lastPend = some t.cmd then t.status else x.lastStat,
    lastPend := if t.kind = 0 ∧ x.lastPend = some t.cmd then none else x.lastPend })
  let s := match run with
    | some l => s.modLaunch l.1 (fun y => { y with tokened := true })
    | none => s
  if t.kind = 0 then s.releaseSuccessors q t.cmd t.status else s

/-- A token as it is written: in host memory under the tenant key, its index as tweak (R346, R388) (log 152). -/
def State.tokenBytes (s : State) (x : Queue) (t : Token) (kind : Nat) : List Byte :=
  if kind = 1 then Config.xts (((s.polder? x.polder).map (·.keyId)).getD 0) x.cplP t.bytes else t.bytes

/-- TOKEN_WRITE: the next token in command order, or a record that is ready, is written and the producer index after it (R344).
In a queue that is halted or being reset, one that cannot be written is discarded (R337). -/
def execTokenWrite (q : Nat) (s : State) : Host.Outcome State Fault Refusal :=
  let x := s.queue q
  match s.nextToken q with
  | none => .next ((s.settleQueue q).kick q)
  | some t =>
    if x.ringFull then .next ((s.settleQueue q).kick q)
    else
      let run := s.tokenLaunch q t
      let prov := t.kind == 0 && t.status != 7 && run.any (fun l => s.unproven l.2)
      match s.frontSpan q .w (pageParts (x.cplBase.toNat + 32 * (x.cplP % 2 ^ x.cplLog)) 32) with
      | (s, .wait) => .next s.bump
      | (s, .bad) => .next (((s.haltQueue q 1).dropToken q t).soon (.tokenWrite q)).bump
      | (s, .ok ks) =>
        match s.frontSpan q .w (pageParts x.cplProd.toNat 8) with
        | (s, .wait) => .next s.bump
        | (s, r) =>
          let s := s.putSpan ks (s.tokenBytes x { t with prov := prov } ((ks.map (·.1.kind)).headD 0))
          let s := match r with
            | .ok ps => s.putSpan ps (bytesOf 8 (x.cplP + 1))
            | _ => s.haltQueue q 1
          let s := (s.dropToken q t).modQueue q (fun x => { x with cplP := x.cplP + 1 })
          let s := s.count (instFn (x.polder + 1)) 0x0501 1
          let s := match run, t.kind with
            | some l, 0 =>
              let s := s.modLaunch l.1 (fun y => { y with provision := prov })
              if prov then s.soon (.scanCertifyRecord l.1) else s
            | _, _ => s
          .next (s.soon (.tokenWrite q)).bump

/-- SCAN_CERTIFY_RECORD: the one later record of a provisional token, once its launch is decided (R345). -/
def execScanCertifyRecord (l : Nat) (s : State) : Host.Outcome State Fault Refusal :=
  let x := s.launch l
  if !x.tokened || !x.provision || x.certified || 4096 ≤ x.queue || (!x.suspect && s.unproven x) then .next s
  else
    let e := x.finalStatus
    let t : Token := { kind := if x.suspect then 2 else 1, status := e.status, detail := e.detail, prov := false, cmd := x.cmdIdx,
                       cookie := x.cookie, launch := x.id.toNat }
    .next ((s.modLaunch l (fun y => { y with certified := true })).formToken x.queue t)

/-! ### Taking a command (R334 to R336) -/

/-- Take the head of a queue's store. -/
def State.takeCmd (s : State) (q : Nat) : State :=
  (s.modQueue q (fun x => match x.store with
    | c :: rest => { x with store := rest, taken := c.idx + 1 }
    | [] => x)).soon (.commandRead q)

/-- A command completes with a status and starts nothing; the status of a LAUNCH is what its successor's `pre.wait` reads (R264, R343). -/
def State.completeCmd (s : State) (q : Nat) (c : Cmd) (status detail : Nat) : State :=
  let cookie := if c.code = 2 then 0 else c.words.getD 2 0
  let s := if c.code = 1 then s.modQueue q (fun x => { x with lastPend := some c.idx }) else s
  let s := s.formToken q { kind := 0, status := status, detail := detail, prov := false, cmd := c.idx, cookie := cookie, launch := 0 }
  (s.settleQueue q).kick q

/-- The head of a queue's store, when it has a code, can be taken, and is right or wrong as asked. -/
def State.head (s : State) (q : Nat) (ok : Bool) (code : Option Nat) : Option Cmd :=
  match (s.queue q).store with
  | c :: _ => if s.canTake q && c.ok == ok && code.all (fun k => c.code == k) then some c else none
  | [] => none

/-- `NOP`: `OK` once every earlier command has completed (R335). -/
def execNopCommand (q : Nat) (s : State) : Host.Outcome State Fault Refusal :=
  match s.head q true (some 0) with
  | some c => .next ((s.takeCmd q).completeCmd q c 0 0)
  | none => .next s

/-- A command with an unlisted code or a reserved bit set: `BAD_COMMAND` (R334). -/
def execBadCommand (q : Nat) (s : State) : Host.Outcome State Fault Refusal :=
  match s.head q false none with
  | some c => .next ((s.takeCmd q).completeCmd q c 3 0)
  | none => .next s

/-- `WAIT` is taken, and its word is read (R335). -/
def execWait (q : Nat) (s : State) : Host.Outcome State Fault Refusal :=
  match s.head q true (some 2) with
  | some c =>
    let s := (s.takeCmd q).modQueue q (fun x => { x with waiting := some (c.words.getD 1 0, c.words.getD 2 0) })
    .next ((s.soon (.waitPoll q)).settleQueue q)
  | none => .next s

/-- WAIT_POLL: the word is read, at least once every 1 µs (R335). -/
def execWaitPoll (q : Nat) (s : State) : Host.Outcome State Fault Refusal :=
  let x := s.queue q
  match x.waiting with
  | none => .next s
  | some (va, threshold) =>
    let done := fun (s : State) (status : Nat) =>
      let t : Token := { kind := 0, status := status, detail := 0, prov := false, cmd := x.taken - 1, cookie := 0, launch := 0 }
      (((s.modQueue q (fun x => { x with waiting := none })).formToken q t).settleQueue q).kick q
    match s.frontRead q va.toNat 8 with
    | (s, .wait) => .next s.bump
    | (s, .bad) => .next (done s 8).bump
    | (s, .ok bs) =>
      if threshold.toNat ≤ numOf bs then .next (done s 0).bump
      else .next (s.atNs (s.ag.clock + 1 + (s.freeW 1).toNat % 1000) (.waitPoll q)).bump

/-! ### Kernel descriptors (R293, R295, R338) -/

/-- A field of a descriptor's bytes. -/
def descField (bs : List Byte) (at_ n : Nat) : Nat := numOf ((bs.drop at_).take n)
/-- A flag of a descriptor. -/
def descFlag (bs : List Byte) (k : Nat) : Bool := decide (descField bs 4 2 / 2 ^ k % 2 = 1)

/-- The kernel that a descriptor declares. -/
def kernelOf (bs : List Byte) : Kernel :=
  { regionSafe := descFlag bs 0, launchCtl := descFlag bs 1,
    w0 := if descFlag bs 2 then some (descField bs 10 1) else none, w1 := if descFlag bs 3 then some (descField bs 11 1) else none,
    handler := if descFlag bs 4 then some (BitVec.ofNat 64 (descField bs 32 8)) else none,
    entry := BitVec.ofNat 64 (descField bs 24 8), regs := descField bs 6 2, groups := descField bs 8 1, tiles := descField bs 9 1,
    shared := descField bs 12 4, spill := descField bs 16 4, dwsPages := descField bs 20 4 }

/-- Check 1: `magic`, `major`, `minor`, reserved bytes and flag bits. -/
def okMagic (bs : List Byte) : Bool :=
  descField bs 0 2 == 0x4B44 && descField bs 2 1 == 0 && descField bs 3 1 == 1 && descField bs 40 24 == 0 && decide (descField bs 4 2 < 32)

/-- Checks 2 to 7, for the largest block that a descriptor admits: the detail of the first that fails. -/
def tooLarge (k : Kernel) : Option Nat :=
  let quarter := (k.groups + 3) / 4
  if 256 < k.regs then some 1
  else if 1024 < roundRegs k.regs * quarter then some 2
  else if 32 < k.groups then some 3
  else if 262144 < roundShared k.shared then some 4
  else if 32 < k.tiles * quarter then some 5
  else if 65536 < k.spill then some 6
  else none

/-- Check 9: the remaining rules of R295. -/
def okRest (bs : List Byte) (k : Kernel) : Bool :=
  decide (8 ≤ k.regs) && decide (k.regs % 8 = 0) && decide (1 ≤ k.groups) && k.w0.all (fun r => decide (r < k.regs)) &&
  k.w1.all (fun r => decide (r < k.regs)) && (descFlag bs 4 == decide (descField bs 32 8 ≠ 0)) && decide (k.entry.toNat % 64 = 0)

/-- Every field of a descriptor lies inside its limits. -/
def okLimits (k : Kernel) : Bool :=
  decide (k.regs ≤ 256) && decide (k.groups ≤ 32) && decide (k.tiles ≤ 32) && decide (k.shared ≤ 262144) && decide (k.spill ≤ 65536)

/-- The outcome of parsing a LAUNCH: a kernel, or a status and detail. -/
def State.parse (s : State) (p : Nat) (bs : List Byte) : Except (Nat × Nat) Kernel :=
  let k := kernelOf bs
  if !okMagic bs then .error (2, 0)
  else match tooLarge k with
    | some d => .error (1, d)
    | none =>
      if s.freePart p < k.dwsPages then .error (1, 7)
      else if !okRest bs k then .error (2, 0)
      else .ok k

/-! ### Creating work (R18, R19, R29, R252) -/

/-- Create a cluster with its blocks, in the pending store. -/
def State.newCluster (s : State) (c : Cluster) : State :=
  let (ck, s) := s.key
  let l := s.launch c.launch
  let (bs, s) := (List.range c.nblocks).foldl (fun (a : List Nat × State) r =>
    let (bk, s) := a.2.key
    let b : Block := { Block.none_ with
      cluster := ck, launch := c.launch, id := BitVec.ofNat 32 (l.nextBlock + r), rank := r, place := .pending, lanesN := c.lanesN,
      sharedSz := c.kernel.shared }
    (a.1 ++ [bk], s.setBlock bk b)) ([], s)
  let c := { c with id := BitVec.ofNat 32 l.nextClus, firstId := l.nextBlock, blocks := bs, retired := false }
  let s := (s.setCluster ck c).modLaunch c.launch (fun l => { l with nextBlock := l.nextBlock + c.nblocks, nextClus := l.nextClus + 1 })
  ({ s with fe := { s.fe with pend := s.fe.pend ++ [ck] } } : State).seek

/-- The next id for a launch of a polder: none that a launch without a token has, and not 0, which names no launch (R29, R343). -/
def State.launchId (s : State) (p : Nat) : Nat :=
  let id := Map.get s.fe.nextLid 1 p
  let used := (s.work.launches.filter (fun l => l.2.polder == p && !l.2.tokened)).map (·.2.id.toNat)
  (((List.range (used.length + 2)).map (fun k => (id + k) % 2 ^ 32)).find? (fun k => k != 0 && !used.contains k)).getD id

/-- Start a launch that has passed every check. -/
def State.startLaunch (s : State) (q : Nat) (c : Cmd) (k : Kernel) : State :=
  let x := s.queue q
  let id := s.launchId x.polder
  let (lk, s) := s.key
  let l : Launch := { Launch.none_ with
    polder := x.polder, queue := q, cmdIdx := c.idx, cookie := c.words.getD 2 0, id := BitVec.ofNat 32 id, kernel := k, counter := 1,
    pred := x.lastPend, predStat := x.lastStat, resLeft := k.dwsPages, done := false, tokened := false }
  let s := (s.setLaunch lk l).modQueue q (fun y => { y with lastLaunch := some lk, lastPend := some c.idx })
  let s := { s with fe := { s.fe with nextLid := Map.insert s.fe.nextLid x.polder ((id + 1) % 2 ^ 32) } }
  s.newCluster { Cluster.none_ with
    launch := lk, kernel := k, nblocks := 1, lanesN := bitsOf (c.words.getD 0 0) 8 11, params := c.words.drop 8 }

/-- `LAUNCH`: the head launch is parsed completely; it starts its seed block or completes with the status of the first check it
fails (R338). -/
def execLaunch (q : Nat) (s : State) : Host.Outcome State Fault Refusal :=
  match s.head q true (some 1) with
  | none => .next s
  | some c =>
    let p := (s.queue q).polder
    let va := (c.words.getD 1 0).toNat
    let reject := fun (s : State) (e : Nat × Nat) =>
      ((s.takeCmd q).count (instFn (p + 1)) 0x0503 1).completeCmd q c e.1 e.2
    if va % 64 ≠ 0 then .next (reject s (2, 0))
    else
      match s.frontRead q va 64 with
      | (s, .wait) => .next s.bump
      | (s, .bad) => .next (reject s (2, 0)).bump
      | (s, .ok bs) =>
        match s.parse p bs with
        | .error e => .next (reject s e).bump
        | .ok k => .next ((((s.takeCmd q).startLaunch q c k).settleQueue q).kick q).bump

/-! ### Spawns (R250 to R252) -/

/-- The front end's refusal of a spawn: the negative of its status code, in the order of R251. -/
def State.spawnRefusal (s : State) (r : SpawnReq) (bs : Option (List Byte)) : Option Nat :=
  let c := s.cluster (s.block r.blk).cluster
  let l := s.launch c.launch
  let n := bitsOf r.rec1 16 11
  let blocks := bitsOf r.rec1 0 4 + 1
  let cds := (((s.polder? l.polder).map (·.cds)).getD []).length
  let mine := s.fe.pend.filter (fun k => (s.launch (s.cluster k).launch).polder == l.polder)
  match bs with
  | none => some 5
  | some bs =>
    let k := kernelOf bs
    if bitsOf r.rec1 27 37 ≠ 0 ∨ bitsOf r.rec1 4 12 ≠ 0 ∨ n < 1 ∨ 1024 < n then some 5
    else if !okMagic bs || !okLimits k || !okRest bs k then some 5
    else if 10 ≤ bitsOf c.lineage 60 4 then some 1
    else if c.children = BitVec.allOnes 64 then some 2
    else if (tooLarge k).isSome || decide (32 * k.groups < n) then some 3
    else if 2 ^ 32 < l.nextBlock + blocks ∨ 2 ^ 32 ≤ l.nextClus then some 4
    else if 1024 * cds ≤ mine.length then some 6
    else none

/-- The answer of a spawn reaches its lanes; when they have been killed it is written while their group has not retired (R252). -/
def State.answerSpawn (s : State) (id : Nat) (r : SpawnReq) (v : Word) : State :=
  if (s.group r.grp).waits.any (fun w => w.id == id) then s.finish r.grp id (sOut (BitVec.ofNat 8 r.d) v) 1
  else s.modGroup r.grp (fun x => if x.retired then x else x.putS r.d v)

/-- The lineage of the child that takes a slot (R22). -/
def childLineage (parent : Word) (slot : Nat) : Word :=
  let d := bitsOf parent 60 4
  BitVec.ofNat 64 (bitsOf parent 0 60 + slot * 2 ^ (6 * d) + (d + 1) * 2 ^ 60)

/-- SPAWN_ANSWER: the front end checks a spawn, and creates its cluster or refuses it. A launch that has ended creates nothing
more (R262). A spawn whose cluster has retired since, its lanes killed in `SPAWNWAIT`, is answered as any other (log 140). -/
def execSpawnAnswer (id : Nat) (s : State) : Host.Outcome State Fault Refusal :=
  match Map.find? s.work.spawns id with
  | none => .next s
  | some r =>
    let ck := (s.block r.blk).cluster
    let c := s.cluster ck
    let l := s.launch c.launch
    let drop := fun (s : State) => { s with work := { s.work with spawns := Map.erase s.work.spawns id } }
    if l.done || l.ended.isSome then .next (drop s)
    else
      let (s, got) : State × Got (List Byte) := if r.desc.toNat % 64 ≠ 0 then (s, .bad) else s.frontRead l.queue r.desc.toNat 64
      match got with
      | .wait => .next s.bump
      | got =>
        let bs := match got with
          | .ok bs => some bs
          | _ => none
        let s := drop s
        match s.spawnRefusal r bs with
        | some e =>
          let s := s.count (instFn (l.polder + 1)) 0x0401 1
          if e = 1 ∧ r.trp then
            .next ((s.trapAll r.grp ((s.group r.grp).inWait id r.lanes) .spawnDepth (fun _ => 0)).release r.grp id (BitVec.allOnes 32)).bump
          else .next (s.answerSpawn id r (BitVec.ofNat 64 (2 ^ 64 - e))).bump
        | none =>
          let k := kernelOf (bs.getD [])
          let slot := ((List.range 64).find? (fun i => !c.children.getLsbD i)).getD 0
          let s := s.modCluster ck (fun y => { y with children := y.children ||| (1#64 <<< slot) })
          let s := s.modLaunch c.launch (fun y => { y with counter := y.counter + 1 })
          let cid := (s.launch c.launch).nextClus
          let s := s.newCluster { Cluster.none_ with
            launch := c.launch, lineage := childLineage c.lineage slot, parent := some (ck, slot), kernel := k,
            nblocks := bitsOf r.rec1 0 4 + 1, lanesN := bitsOf r.rec1 16 11, params := r.params }
          let s := s.count (instFn (l.polder + 1)) 0x0400 1
          .next (s.answerSpawn id r (BitVec.ofNat 64 (cid + slot * 2 ^ 32))).bump

/-! ### Placement (R339 to R341) -/

/-- A polder whose work may be placed: neither paused nor seized, nor seizing until its seizure releases it (R373, R442). -/
def State.placesWork (s : State) (p : Nat) : Bool := (s.polder? p).any (fun x => !x.paused && !x.seized) && !s.trust.seizure.any (fun z => z.by_ == p)

/-- What a queue offers for placement. -/
inductive Offered where
  | blk (b : Nat)
  | clus (c : Nat)
  deriving DecidableEq, Repr

/-- The block or cluster that stands at the head of a queue's pending work. -/
def State.offered (s : State) (q : Nat) : Option Offered :=
  let mine := fun (l : Nat) => (s.launch l).queue == q && s.placesWork (s.launch l).polder && !s.behind l
  match s.fe.pendBlk.find? (fun b => mine (s.block b).launch && s.mayReturn b) with
  | some b => some (.blk b)
  | none => (s.fe.pend.find? (fun c => mine (s.cluster c).launch)).map .clus

/-- The CDs on which a queue's work may be placed: one that is kept for a waiting head takes no work of a lower class and none of
another queue of its class (R339). -/
def State.openCds (s : State) (p q : Nat) : List Nat :=
  let cds := ((s.polder? p).map (·.cds)).getD []
  let cds := cds.filter (fun cd => !s.fe.cdFor.any (fun e =>
    let hq := (s.launch (s.cluster e.1).launch).queue
    e.2 == cd && hq != q && decide ((s.queue hq).cls ≤ (s.queue q).cls)))
  (s.turnFrom cds.length 4096).filterMap (fun i => cds[i]?)

/-- The unplaced blocks of a cluster. -/
def State.unplaced (s : State) (c : Nat) : List Nat :=
  (s.cluster c).blocks.filter (fun b => (s.block b).place == .pending && (s.block b).groups.isEmpty)

/-- A placement of a cluster on one of some CDs. -/
def State.clusterSpot (s : State) (c : Nat) (cds : List Nat) : Option (Nat × List (Nat × Nat)) :=
  cds.findSome? (fun cd => (s.spots false cd (s.unplaced c)).map (fun qs => (cd, qs)))
/-- A place of a saved block: the CD of its cluster when it was stopped alone or others of its cluster run there, else any. -/
def State.blockSpot (s : State) (b : Nat) (cds : List Nat) : Option (Nat × Nat) :=
  let x := s.block b
  let cds := if x.alone || !s.allSaved x.cluster then [(s.cluster x.cluster).cd] else cds
  cds.findSome? (fun cd => ((s.spots true cd (s.together b)).map (fun qs => qs.headD (0, 0))))

/-- The device as it would be without some live blocks. -/
def State.without (s : State) (bs : List Nat) : State :=
  bs.foldl (fun s b => (s.block b).groups.foldl (fun s g => s.modGroup g (fun x => { x with part := 2048 })) (s.modBlock b (fun x => { x with place := .saved }))) s

/-- The block of an early successor that is to be displaced for a cluster, when such blocks hold what the cluster needs on one of some CDs:
of the latest launch, the highest block id (R341). -/
def State.toDisplace (s : State) (c : Nat) (cds : List Nat) : Option Nat :=
  let me := s.launch (s.cluster c).launch
  let later := s.work.launches.filter (fun l => l.2.queue == me.queue && decide (me.cmdIdx < l.2.cmdIdx) && !l.2.done)
  let bs := s.work.blocks.filter (fun b => later.any (fun l => l.1 == b.2.launch))
  if bs.any (fun b => b.2.place == .saving) then none
  else
    let live := bs.filter (fun b => b.2.place == .live)
    if (State.clusterSpot (s.without (live.map (·.1))) c cds).isNone then none else
    let rank := fun (b : Nat × Block) => (s.launch b.2.launch).cmdIdx * 2 ^ 32 + b.2.id.toNat
    live.foldl (fun (o : Option Nat) b => match o with
      | some k => if rank (k, s.block k) < rank b then some b.1 else o
      | none => some b.1) none

/-- The compactor makes room for a block of a kernel on some CDs (R55). -/
def State.makeRoom (s : State) (k : Kernel) (cds : List Nat) : State :=
  if s.cores.moves.isEmpty then cds.foldl (fun s cd => s.compactFor (roundRegs k.regs) (roundShared k.shared) cd) s else s

/-- The queue's head does not fit: after 1 ms a CD is kept for it; blocks of early successors make room, and the compactor. -/
def State.headWaits (s : State) (c : Nat) (cds : List Nat) : State :=
  let x := s.cluster c
  let all := ((s.polder? (s.launch x.launch).polder).map (·.cds)).getD []
  let s := if x.queuedAt ≠ 0 then s
    else (s.modCluster c (fun y => { y with queuedAt := s.ag.clock + 1 })).atNs (s.ag.clock + 1000000)
      (.headWaitExpiry c (all.getD ((s.freeW 2).toNat % all.length) 0))
  match s.toDisplace c cds with
  | some b => s.soon (.earlySuccessorDisplace b)
  | none => s.makeRoom x.kernel cds

/-- One queue's turn: its head is placed, or waits. -/
def State.tryQueue (s : State) (q : Nat) : State × Bool :=
  match s.offered q with
  | none => (s, false)
  | some (.blk b) =>
    let cds := s.openCds (s.launch (s.block b).launch).polder q
    match s.blockSpot b cds with
    | some k => (s.next (.blockResume b k.1 k.2), true)
    | none => (s.makeRoom (s.cluster (s.block b).cluster).kernel (if (s.block b).alone then [(s.cluster (s.block b).cluster).cd] else cds), false)
  | some (.clus c) =>
    let cds := match Map.find? s.fe.cdFor c with
      | some cd => [cd]
      | none => s.openCds (s.launch (s.cluster c).launch).polder q
    match s.clusterSpot c cds with
    | some (cd, qs) => (s.next (.blockPlacement c cd (qs.map (·.1)) (qs.map (·.2))), true)
    | none => (s.headWaits c cds, false)

/-- Try queues in order until one places something. -/
def State.tryQueues : List Nat → State → State × Bool
  | [], s => (s, false)
  | q :: qs, s =>
    match s.tryQueue q with
    | (s, true) => (s, true)
    | (s, false) => State.tryQueues qs s

/-- The queues of a class of a polder with pending work, the queue whose turn it is first (R339). -/
def State.turns (s : State) (p cls : Nat) : List Nat :=
  let qs := ((s.fe.pendBlk.map (fun b => (s.launch (s.block b).launch).queue)) ++
    (s.fe.pend.map (fun c => (s.launch (s.cluster c).launch).queue))).eraseDups.filter (fun q =>
      (s.queue q).polder == p && (s.queue q).cls == cls)
  let sorted := (qs.foldl NatSet.add []).map (·.1)
  let now := Map.get s.fe.rr 0 (4 * p + cls)
  let first := sorted.filter (fun q => decide (now < q) || (q == now && decide ((s.queue q).turn < (s.queue q).weight)))
  let front := first.filter (fun q => q == now) ++ first.filter (fun q => q != now)
  front ++ sorted.filter (fun q => !first.contains q)

/-- Look once for something to place: blocks that return alone to their CD first, then the polders' classes in priority order. -/
def State.look1 (s : State) : State × Bool :=
  match s.fe.pendBlk.find? (fun b => (s.block b).alone && s.mayReturn b && !s.behind (s.block b).launch && (s.blockSpot b []).isSome) with
  | some b =>
    let k := (s.blockSpot b []).getD (0, 0)
    (s.next (.blockResume b k.1 k.2), true)
  | none =>
    (List.range 32).foldl (fun (a : State × Bool) i => if a.2 then a else State.tryQueues (a.1.turns (i % 8) (i / 8)) a.1) (s, false)

/-- The turn of a queue after blocks of it have been placed. -/
def State.countTurn (s : State) (q n : Nat) : State :=
  let x := s.queue q
  let key := 4 * x.polder + x.cls
  let same := Map.get s.fe.rr 0 key == q
  let s := { s with fe := { s.fe with rr := Map.insert s.fe.rr key q } }
  s.modQueue q (fun x => { x with turn := if same && decide (x.turn < x.weight) then x.turn + n else n })

/-- BLOCK_PLACEMENT: every block of a cluster is placed on one CD in one act (R339, R340). Cluster 0 names the moment at which the
front end looks for work to place. -/
def execBlockPlacement (c cd : Nat) (cores starts : List Nat) (s : State) : Host.Outcome State Fault Refusal :=
  if c = 0 then
    let (s, go) := s.look1
    .next (if go then s.seek else s).bump
  else
    let x := s.cluster c
    let bs := s.unplaced c
    let l := s.launch x.launch
    let okCd := (s.polder? l.polder).any (fun p => p.cds.contains cd)
    if x.placed || x.retired || !s.fe.pend.contains c || !s.placesWork l.polder || s.behind x.launch || !okCd || cores.length != bs.length ||
        starts.length != bs.length || cores.any (fun k => k / 32 != cd) || starts.any (fun k => decide (4 ≤ k)) then .next s
    else
      match s.placeAll false (bs.zip (cores.zip starts)) with
      | none => .next s
      | some s =>
        let s := s.modCluster c (fun y => { y with placed := true, cd := cd })
        let s := { s with fe := { s.fe with pend := s.fe.pend.filter (fun k => k != c), cdFor := Map.erase s.fe.cdFor c } }
        .next ((s.countTurn l.queue bs.length).seek).bump

/-- HEAD_WAIT_EXPIRY: a head that has waited 1 ms has a CD kept for it (R339). -/
def execHeadWaitExpiry (c cd : Nat) (s : State) : Host.Outcome State Fault Refusal :=
  let x := s.cluster c
  let okCd := (s.polder? (s.launch x.launch).polder).any (fun p => p.cds.contains cd)
  if x.placed || x.retired || !s.fe.pend.contains c || !okCd then .next s
  else .next ({ s with fe := { s.fe with cdFor := Map.insert s.fe.cdFor c cd } } : State).seek

end Sys2Proof.Machine
end

