-- ==== Sys2Proof/Machine/CrossLane.lean ====
section
/-! DEFINITION. The cross-lane instructions (R189 to R193). -/

namespace Sys2Proof.Machine

/-- A source operand of a lane that may be absent: an absent lane's register reads zero (R189). -/
def State.farVal (s : State) (x : Group) (a : Src) (l : Nat) : Word :=
  match a with
  | .v n => if (x.lane l).left then 0 else s.getV x n.toNat l
  | a => s.srcVal x a l

/-- The gathered elements of a lane (R190). -/
def State.gatherLane (s : State) (x : Group) (t : Ty) (a : Src) (ma : Mod) (sels : Word) : Word :=
  packElems t (fun k =>
    let sel := sels.toNat / 2 ^ (8 * k) % 256
    if t.count ≤ sel % 8 ∨ (x.lane (sel / 8)).left then 0 else fElem t ma (s.farVal x a (sel / 8)) (sel % 8))
/-- `xlane`. -/
def execXlane (h : Hdr) (t : Ty) (d : BitVec 8) (a b : Src) (ma : Mod) (s : State) : Host.Outcome State Fault Refusal :=
  s.compute h (.xlane h t d a b ma) (fun s x _ => { v := [(d.toNat, fun l => s.gatherLane x t a ma (s.srcVal x b l))] })

/-- `qx` (R191). -/
def execQx (h : Hdr) (mode : BitVec 4) (d : BitVec 8) (a : Src) (s : State) : Host.Outcome State Fault Refusal :=
  s.compute h (.qx h mode d a) (fun s x _ =>
    { v := [(d.toNat, fun l =>
        let k := l ^^^ (mode.toNat + 1)
        if (x.lane k).left then 0 else s.farVal x a k)] })

/-! ### `fold` and `scan` (R192, R193) -/

/-- The combination of integer elements; an empty one gives the identity. -/
def combineInt (t : Ty) (op : Nat) (sat : Bool) (es : List Nat) : Nat :=
  let num := fun n => if t.isSigned then signedOf t.width n else (n : Int)
  match op with
  | 0 => fitTo t sat (es.foldl (fun n e => n + num e) 0)
  | 1 => wrapTo t.width (es.foldl (fun n e => min n (num e)) (tyMax t))
  | 2 => wrapTo t.width (es.foldl (fun n e => max n (num e)) (tyMin t))
  | 3 => es.foldl (fun n e => n &&& e) (2 ^ t.width - 1)
  | 4 => es.foldl (fun n e => n ||| e) 0
  | _ => es.foldl (fun n e => n ^^^ e) 0

/-- The minimum or maximum of the elements that are numbers; the default NaN when none is (R180). -/
def Fmt.extreme (f : Fmt) (big : Bool) (es : List Nat) : Nat × FpFlags :=
  let nums := es.filter (fun n => !(f.read n).isNan)
  let nv := flagIf (es.any (fun n => (f.read n).isSnan)) flagNV
  match nums with
  | [] => (if es.isEmpty then f.inf big else f.nan, nv)
  | n :: ns => (ns.foldl (fun b e => (f.minmax big false b e).1) n, nv)

/-- The combination of floating-point elements. -/
def combineFp (t : Ty) (op mode : Nat) (es : List Nat) : Nat × FpFlags :=
  let f := Fmt.of t
  match op with
  | 0 => if es.isEmpty then (0, 0) else f.sum mode (es.map f.read)
  | 1 => f.extreme false es
  | _ => f.extreme true es

/-- The combination of the elements of the lanes of a list. -/
def State.combine (s : State) (x : Group) (t : Ty) (op : BitVec 3) (sat : Bool) (mode : Nat) (a : Src) (ma : Mod) (ls : List Nat) :
    Word × FpFlags :=
  eachElem t (fun k =>
    let es := ls.map (fun l => fElem t ma (s.srcVal x a l) k)
    if t.isFloat then combineFp t op.toNat mode es else (combineInt t op.toNat sat es, 0))

/-- `fold`: the lowest lane of S gives a dynamic mode (R192). -/
def execFold (h : Hdr) (t : Ty) (op : BitVec 3) (sat : Bool) (r : Rnd) (d : BitVec 8) (a : Src) (ma : Mod) (s : State) :
    Host.Outcome State Fault Refusal :=
  s.perform h (.fold h t op sat r d a ma) (fun x g m s =>
    let ls := lanesOf m
    let v := s.combine x t op sat (modeOf r (x.lane (ls.headD 0))) a ma ls
    let s := s.give g h m (latency (.fold h t op sat r d a ma)) { v := [(d.toNat, fun _ => v.1)] }
    (s.modLanes g m (fun _ y => y.raise v.2)).advance g m)

/-- `scan`: the lanes of S below a lane, and the lane itself without `excl` (R193). -/
def execScan (h : Hdr) (t : Ty) (op : BitVec 3) (excl : Bool) (r : Rnd) (d : BitVec 8) (a : Src) (ma : Mod) (s : State) :
    Host.Outcome State Fault Refusal :=
  s.fpCompute h (.scan h t op excl r d a ma) d (fun s x m l =>
    s.combine x t op false (modeOf r (x.lane l)) a ma ((lanesOf m).filter (fun k => decide (k < l) || (!excl && k == l))))

end Sys2Proof.Machine
end

