-- ==== Sys2Proof/Machine/Copies.lean ====
section
/-! DEFINITION. Copy entries and the copy engines (R213 to R224, R371): what an entry means, the checks that refuse it, the pieces in
which it moves, and its completion. -/

namespace Sys2Proof.Machine

/-! ### The fields of an entry (R217 to R221) -/

/-- The kind. -/
def Copy.kind (c : Copy) : Nat := bitsOf c.w0 0 4
/-- `length`. -/
def Copy.len (c : Copy) : Nat := bitsOf c.w0 25 39
/-- `src_space`. -/
def Copy.sspace (c : Copy) : Nat := bitsOf c.w0 22 3
/-- `dst_space`. -/
def Copy.dspace (c : Copy) : Nat := bitsOf c.w0 19 3
/-- A flag of word 0: 18 `ordered`, 17 `cmap_en`, 11 `bar_en`, 10 `tag_en`. -/
def Copy.flag (c : Copy) (k : Nat) : Bool := c.w0.getLsbD k
/-- The source address word. -/
def Copy.src (c : Copy) : Nat := c.w1.toNat
/-- The destination address word. -/
def Copy.dst (c : Copy) : Nat := c.w2.toNat
/-- Rows of a COPY2D. -/
def Copy.rows (c : Copy) : Nat := bitsOf c.w3 0 16
/-- Elements of a GATHER or SCATTER. -/
def Copy.elems (c : Copy) : Nat := bitsOf c.w3 32 16
/-- An element index. -/
def Copy.idxAt (c : Copy) (k : Nat) : Nat := c.idxs.getD k 0

/-- The input type of a CHAIN. -/
def Copy.inTy (c : Copy) : Ty := Ty.of (bitsOf c.w3 0 4)
/-- The output type of a CHAIN. -/
def Copy.outTy (c : Copy) : Ty := Ty.of (bitsOf c.w3 4 4)
/-- The element type of a REDUCE. -/
def Copy.redTy (c : Copy) : Ty := Ty.of (bitsOf c.w3 20 4)
/-- Bytes of an element. -/
def tyBytes (t : Ty) : Nat := t.width / 8
/-- The operation slots of a CHAIN: operation and constant. -/
def Copy.slots (c : Copy) : List (Nat × Nat) :=
  c.second.flatMap (fun w => [(bitsOf w 24 8, bitsOf w 0 24), (bitsOf w 56 8, bitsOf w 32 24)])

/-! ### The cells of a majority copy, and the lines of any other (R219, R321, R371) -/

/-- One cell: where its 64 bytes come from, and where they go. -/
structure Piece where
  src : Nat
  dst : Nat
  deriving DecidableEq, Repr
/-- The cells of a majority copy. -/
def Copy.pieces (c : Copy) : Nat := c.len / 64
/-- Cell k. -/
def Copy.piece (c : Copy) (k : Nat) : Piece := { src := c.src + 64 * k, dst := c.dst + 64 * k }
/-- Chunks of 512 bytes of a length. -/
def chunks (n : Nat) : Nat := (n + 511) / 512

/-- The bytes that a copy reads, or writes, as one stream: its length, that of its contiguous segments, and where each begins. -/
structure Stream where
  total : Nat
  seg   : Nat
  va    : Nat → Nat
/-- A part of a stream that lies in one aligned 64-byte line: its place in the stream, its address and its bytes. -/
structure Part where
  off : Nat
  va  : Nat
  n   : Nat
  deriving DecidableEq, Repr

/-- The source of a copy: rows, elements, or one range. -/
def Copy.source (c : Copy) : Stream :=
  match c.kind with
  | 1 => { total := c.rows * c.len, seg := c.len, va := fun k => c.src + k * bitsOf c.w3 16 24 }
  | 2 => { total := c.elems * c.len, seg := c.len, va := fun k => c.src + c.idxAt k * c.len }
  | 3 => { total := c.elems * c.len, seg := c.elems * c.len, va := fun _ => c.src }
  | 4 => { total := 0, seg := 1, va := fun _ => 0 }
  | _ => { total := c.len, seg := c.len, va := fun _ => c.src }
/-- Its destination. -/
def Copy.dest (c : Copy) : Stream :=
  match c.kind with
  | 1 => { total := c.rows * c.len, seg := c.len, va := fun k => c.dst + k * bitsOf c.w3 40 24 }
  | 2 => { total := c.elems * c.len, seg := c.elems * c.len, va := fun _ => c.dst }
  | 3 => { total := c.elems * c.len, seg := c.len, va := fun k => c.dst + c.idxAt k * c.len }
  | 5 =>
    let n := c.len / tyBytes c.inTy * tyBytes c.outTy
    { total := n, seg := n, va := fun _ => c.dst }
  | _ => { total := c.len, seg := c.len, va := fun _ => c.dst }

/-- The part of a stream around a place in it, clipped to what lies at or after the place where the copy began. -/
def Stream.part (t : Stream) (base o : Nat) : Part :=
  let i := o / t.seg
  let a := t.va i
  let line := (a + o % t.seg) / 64 * 64
  let lo := max (max line a) (a + base - i * t.seg)
  { off := i * t.seg + (lo - a), va := lo, n := min (line + 64) (a + t.seg) - lo }
/-- The n-th part after one. -/
def Stream.partAfter (t : Stream) (base : Nat) : Nat → Part → Part
  | 0, p => p
  | n + 1, p => if p.off + p.n < t.total then Stream.partAfter t base n (t.part base (p.off + p.n)) else p

/-- The place in the source's stream of the byte that a place of the destination's needs first: of a CHAIN, that of its element. -/
def Copy.srcAt (c : Copy) (o : Nat) : Nat := if c.kind = 5 then o / tyBytes c.outTy * tyBytes c.inTy else o
/-- The place in the destination's stream of the byte that a place of the source's leads to first. -/
def Copy.dstAt (c : Copy) (o : Nat) : Nat := if c.kind = 5 then o / tyBytes c.inTy * tyBytes c.outTy else o
/-- The source bytes that a part of the destination needs and that have not been read. -/
def Copy.missing (c : Copy) (p : Part) : List Nat :=
  if c.kind = 4 ∨ c.kind = 6 then []
  else
    let a := c.srcAt p.off
    let b := if c.kind = 5 then (p.off + p.n + tyBytes c.outTy - 1) / tyBytes c.outTy * tyBytes c.inTy else p.off + p.n
    ((List.range (b - a)).map (a + ·)).filter (fun o => (Map.find? c.got o).isNone)

/-- The progress of a copy that has landed up to a place of its destination's stream (R371). -/
def Copy.progress (c : Copy) : Nat :=
  match c.kind with
  | 1 => c.upto / c.len * 2 ^ 39 + c.upto % c.len / 512 * 512
  | 2 | 3 => c.upto / c.len
  | 6 => 0
  | _ => c.srcAt c.upto / 512 * 512
/-- The place of the destination's stream at which a copy with some progress begins again. -/
def Copy.restart (c : Copy) : Nat :=
  match c.kind with
  | 1 => c.done / 2 ^ 39 * c.len + c.done % 2 ^ 39
  | 2 | 3 => c.done * c.len
  | 6 => 0
  | _ => c.dstAt c.done

/-- The source ranges of a copy. -/
def Copy.srcRanges (c : Copy) : List (Nat × Nat) :=
  match c.kind with
  | 1 => (List.range c.rows).map (fun k => (c.src + k * bitsOf c.w3 16 24, c.len))
  | 2 => c.idxs.map (fun i => (c.src + i * c.len, c.len))
  | 3 => [(c.src, c.elems * c.len)]
  | 4 => []
  | _ => [(c.src, c.len)]
/-- Its destination ranges. -/
def Copy.dstRanges (c : Copy) : List (Nat × Nat) :=
  match c.kind with
  | 1 => (List.range c.rows).map (fun k => (c.dst + k * bitsOf c.w3 40 24, c.len))
  | 2 => [(c.dst, c.elems * c.len)]
  | 3 => c.idxs.map (fun i => (c.dst + i * c.len, c.len))
  | 5 => [(c.dst, c.len / tyBytes c.inTy * tyBytes c.outTy)]
  | _ => [(c.dst, c.len)]

/-! ### The checks at fetch (R217 to R221, R93) -/

/-- The widths of address words: reserved bits above them are zero. -/
def addrBits (space : Nat) : Nat :=
  match space with
  | 0 => 56
  | 1 => 40
  | 2 => 64
  | _ => 62

/-- Every range lies inside an allocation. -/
def insideAll (size : Nat) (rs : List (Nat × Nat)) : Bool := rs.all (fun r => decide (r.2 = 0) || decide (r.1 + r.2 ≤ size))

/-- The types of a CHAIN. -/
def chainTypes : List Nat := [0, 2, 8, 9, 0xB, 0xC]
/-- A CHAIN's second entry breaks R220. -/
def Copy.badSlots (c : Copy) : Bool :=
  let t := c.inTy
  let body := c.slots.takeWhile (fun q => q.1 != 0)
  (c.slots.drop body.length).any (fun q => q.1 != 0 || q.2 != 0) ||
  body.any (fun q => decide (7 < q.1) || ((q.1 == 5 || q.1 == 6) && q.2 != 0) ||
    (t.isFloat && decide (q.1 ≤ 4) && (convertElem .f32 t 0 (q.2 * 256)).2 &&& ~~~flagNV != 0))

/-- A kind's own rules are broken. -/
def State.badKind (s : State) (c : Copy) : Bool :=
  let size := (s.block c.blk).sharedSz
  match c.kind with
  | 0 =>
    if c.flag 17 then
      let o := bitsOf c.w3 0 32
      decide (bitsOf c.w3 32 32 ≠ 0) || decide (o % 8 ≠ 0) || !insideAll size [(o, 8 * ((chunks c.len + 63) / 64))]
    else decide (c.w3 ≠ 0)
  | 1 => false
  | 2 | 3 => decide (c.len = 0) || decide (4096 < c.len) || decide (bitsOf c.w3 48 16 ≠ 0) || decide (bitsOf c.w3 0 32 % 4 ≠ 0)
  | 4 => decide (c.sspace ≠ 0) || decide (c.w3 ≠ 0)
  | 5 =>
    decide (bitsOf c.w3 11 53 ≠ 0) || !chainTypes.contains (bitsOf c.w3 0 4) || !chainTypes.contains (bitsOf c.w3 4 4) ||
    decide (c.len % tyBytes c.inTy ≠ 0) || c.badSlots
  | 6 =>
    let op := bitsOf c.w3 16 4
    decide (bitsOf c.w3 26 38 ≠ 0) || decide (5 < op) || !([0, 1, 2, 3, 8, 9].contains (bitsOf c.w3 20 4)) ||
    (decide (3 ≤ op) && c.redTy.isFloat) || decide (c.len % tyBytes c.redTy ≠ 0) ||
    !(Map.find? s.cp.colls (bitsOf c.w3 0 16)).any (fun k => k.polder == (s.launch (s.block c.blk).launch).polder)
  | 7 | 8 =>
    decide (c.len % 64 ≠ 0) || decide (c.len = 0) || decide (4096 < c.len) || decide (c.src % 64 ≠ 0) || decide (c.dst % 64 ≠ 0) ||
    decide (c.w3 ≠ 0) ||
    (if c.kind = 7 then (c.dspace != 0 && c.dspace != 3) || c.sspace == 3 else (c.sspace != 0 && c.sspace != 3) || c.dspace == 3)
  | _ => true

/-- An entry that completes with `BAD_ENTRY`. -/
def State.badEntry (s : State) (c : Copy) : Bool :=
  let size := (s.block c.blk).sharedSz
  decide (8 < c.kind) || decide (3 < c.sspace) || decide (3 < c.dspace) || (c.flag 17 && c.kind != 0) ||
  (!c.flag 11 && decide (bitsOf c.w0 12 5 ≠ 0)) || (!c.flag 10 && decide (bitsOf c.w0 4 6 ≠ 0)) ||
  (c.kind != 4 && decide (2 ^ addrBits c.sspace ≤ c.src)) || decide (2 ^ addrBits c.dspace ≤ c.dst) || s.badKind c ||
  (c.sspace == 2 && c.kind != 2 && c.kind != 4 && !insideAll size c.srcRanges) ||
  (c.dspace == 2 && c.kind != 3 && !insideAll size c.dstRanges)

/-! ### Reaching memory (R218, R224, R406) -/

/-- A run of bytes at one place: kind 5 is the block's shared memory, kind 6 a peer's memory. -/
structure Run where
  k   : Place
  n   : Nat
  va  : Nat
  pol : Nat                     -- the polder whose tables translate it
  deriving DecidableEq, Repr

/-- A translation that failed: the fault, whether it is of the DWS, and the address. -/
structure Missed where
  f   : XFault
  dws : Bool
  va  : Nat
  deriving DecidableEq, Repr

/-- The peer package and polder that a polder's space-3 accesses reach, when the domain table lists the package and a port to it is
up. -/
def State.peerOf (s : State) (p pkg : Nat) : Option Nat :=
  match Map.find? s.fab.domain pkg with
  | some (ports, pairing) =>
    if (List.range 16).any (fun i => ports.testBit i && s.fab.portUp.getD i false) && pairing.testBit (4 * p + 3) then
      some (pairing / 2 ^ (4 * p) % 8)
    else none
  | none => none

/-- An unserviceable fault at an address. -/
def deadFault (va : Nat) : Missed := { f := { cause := 0, serv := false, page := va / 4096 }, dws := false, va := va }

/-- The unit that translates a DWS access of a copy: that of the frame's CD (R351). -/
def State.frameUnit (s : State) (p u va : Nat) : Nat :=
  match s.frameOfPage p (va / 65536) with
  | some f => (s.xlat p).frameCd f
  | none => u
/-- A part of a space that lies in one page, as a unit translates it. -/
def State.reach1 (s : State) (u p space va n : Nat) (need : Need) : Except Missed Run :=
  let glob := fun (q : Nat) (a : Nat) =>
    match s.global u q a need with
    | .ok k => if k.kind = 2 then .error (deadFault va) else .ok { k := k, n := n, va := a, pol := q }
    | .error f => .error { f := f, dws := false, va := va }
  match space with
  | 0 => glob p va
  | 1 =>
    match s.dws (s.frameUnit p u va) p va need none with
    | .ok k => .ok { k := k, n := n, va := va, pol := p }
    | .error f => .error { f := f, dws := true, va := va }
  | 2 => .ok { k := { kind := 5, addr := va, ipa := 0 }, n := n, va := va, pol := p }
  | _ =>
    let pkg := va / 2 ^ 56 % 64
    let a := va % 2 ^ 56
    match s.peerOf p pkg with
    | none => .error (deadFault va)
    | some q =>
      if pkg = Config.package.toNat then
        match glob q a with
        | .ok r => .ok r
        | .error _ => .error (deadFault va)
      else if Config.peerPage (pkg * 2 ^ 56 + q * 2 ^ 50 + a / 4096) = 1 then
        .ok { k := { kind := 6, addr := pkg * 2 ^ 60 + q * 2 ^ 56 + a, ipa := 0 }, n := n, va := va, pol := q }
      else .error (deadFault va)

/-- The parts of a range, page by page. -/
def spaceParts (space a n : Nat) : List (Nat × Nat) :=
  match space with
  | 1 => (unitsOf a n 65536).map (fun u => (max a (65536 * u), min (a + n) (65536 * u + 65536) - max a (65536 * u)))
  | 2 => if n = 0 then [] else [(a, n)]
  | _ => (unitsOf a n 4096).map (fun u => (max a (4096 * u), min (a + n) (4096 * u + 4096) - max a (4096 * u)))

/-- The runs of a list of parts, or the first that cannot be translated. -/
def State.reachParts (s : State) (u p space : Nat) (need : Need) : List (Nat × Nat) → Except Missed (List Run)
  | [] => .ok []
  | q :: qs =>
    match s.reach1 u p space q.1 q.2 need with
    | .error m => .error m
    | .ok r =>
      match State.reachParts s u p space need qs with
      | .ok rs => .ok (r :: rs)
      | .error m => .error m

/-- The runs of a range. -/
def State.runs (s : State) (u p space a n : Nat) (need : Need) : Except Missed (List Run) :=
  s.reachParts u p space need (spaceParts space a n)

/-- The kind of page that an address lies in, whatever its permissions; none where the tables do not map it. -/
def State.pageKind (s : State) (u p va : Nat) : Option Place :=
  match s.leaf1 u p va with
  | .error _ => none
  | .ok (e, level) =>
    let ipa := entryAddr e + va % levelSize level
    (s.leaf2 u p ipa).map (fun l => { kind := bitsOf l.entry 56 4, addr := entryAddr l.entry, ipa := ipa })
/-- Whether a page of a range is a majority page of the copy's polder, or of the peer's (R87). A page that no table maps when the copy
starts is neither kind: it faults when the copy reaches it (log 148). -/
def State.majorityIn (s : State) (u p space a n : Nat) (whole : Bool) : Bool :=
  let is := fun (q : Nat × Nat) =>
    match space with
    | 0 => (s.pageKind u p q.1).map (fun k => k.kind == 2)
    | 3 => (s.peerOf p (q.1 / 2 ^ 56 % 64)).bind (fun r =>
        if q.1 / 2 ^ 56 % 64 = Config.package.toNat then (s.pageKind u r (q.1 % 2 ^ 56)).map (fun k => k.kind == 2)
        else
          let pg := Config.peerPage (q.1 / 2 ^ 56 % 64 * 2 ^ 56 + r * 2 ^ 50 + q.1 % 2 ^ 56 / 4096)
          if pg = 0 then none else some (decide (1 < pg)))
    | _ => some false
  (spaceParts space a n).any (fun q => match is q with
    | some m => m == whole
    | none => false)

/-- The polder of a copy. -/
def State.copyPolder (s : State) (c : Copy) : Nat := (s.launch (s.block c.blk).launch).polder

/-- Bytes of a run. -/
def State.runRead (s : State) (blk : Nat) (r : Run) : List Byte :=
  match r.k.kind with
  | 5 => Mem.read (s.block blk).shared r.k.addr r.n
  | 6 => Mem.read (Map.get s.mems.peer [] (r.k.addr / 2 ^ 60)) (r.k.addr % 2 ^ 60) r.n
  | _ => s.readAt r.k r.n
/-- Which bytes of a run are poisoned. -/
def State.runSick (s : State) (blk : Nat) (r : Run) : List Bool :=
  (List.range r.n).map (fun i =>
    match r.k.kind with
    | 0 => NatSet.mem s.mems.poisonD ((r.k.addr + i) / 64)
    | 3 => NatSet.mem s.mems.poisonW ((r.k.addr + i) / 8)
    | 5 => NatSet.mem (s.block blk).poison ((r.k.addr + i) / 8)
    | _ => false)

/-- The dirty-page log (R361, R362): a copy engine's write to a page of a polder sets `dirty` and appends a record; a full ring loses
it. A `c64` group of stage 1 is logged as one. -/
def State.logDirty (s : State) (u p va : Nat) (k : Place) : State :=
  let x := s.xlat p
  match x.s2find k.ipa with
  | none => s
  | some l =>
    if bitsOf l.entry 8 1 = 0 ∨ bitsOf l.entry 9 1 = 1 then s
    else
      let group := match s.leaf1 u p va with
        | .ok (e, 4) => decide (bitsOf e 7 1 = 1) && decide (l.level = 4)
        | _ => false
      let base := if group then k.ipa / 65536 * 65536 else 4096 * l.page
      let size := if group then 1 else if l.level = 4 then 0 else if l.level = 3 then 2 else 3
      let mark := fun (x : Xlat) (i : Nat) => match x.s2find (base + 4096 * i) with
        | some q => if bitsOf q.entry 8 1 = 1 then x.setS2 q.at_ (q.entry ||| 0x200) else x
        | none => x
      s.modXlat p (fun x =>
        let x := (List.range (if group then 16 else 1)).foldl mark x
        if x.dlog.length < 65536 then { x with dlog := x.dlog ++ [BitVec.ofNat 64 (base + size)] } else { x with dlogLost := true })

/-- Poison the units that hold some bytes of a run. -/
def State.runPoison (s : State) (blk : Nat) (r : Run) (sick : List Bool) : State :=
  sick.zipIdx.foldl (fun s (q : Bool × Nat) =>
    if !q.1 then s
    else match r.k.kind with
      | 5 => s.modBlock blk (fun b => { b with poison := NatSet.add b.poison ((r.k.addr + q.2) / 8) })
      | _ => s.poisonPut { r.k with addr := r.k.addr + q.2 } 1) s

/-- Put bytes in a run's place, and nothing else. -/
def State.runSet (s : State) (blk : Nat) (r : Run) (bs : List Byte) : State :=
  match r.k.kind with
  | 5 => s.modBlock blk (fun b => { b with shared := Mem.write b.shared r.k.addr bs })
  | 6 =>
    let m := Map.get s.mems.peer [] (r.k.addr / 2 ^ 60)
    { s with mems := { s.mems with peer := Map.insert s.mems.peer (r.k.addr / 2 ^ 60) (Mem.write m (r.k.addr % 2 ^ 60) bs) } }
  | _ => s.writeAt r.k bs
/-- Put bytes in runs one after the other. -/
def State.runsSet (s : State) (blk : Nat) : List Run → List Byte → State
  | [], _ => s
  | r :: rs, bs => State.runsSet (s.runSet blk r (bs.take r.n)) blk rs (bs.drop r.n)
/-- Write a run's bytes, and their poison; units that the bytes cover are else clean (R424). -/
def State.runWrite (s : State) (u blk : Nat) (r : Run) (bs : List Byte) (sick : List Bool) : State :=
  let s := match r.k.kind with
    | 5 => s.putShared blk r.k.addr bs
    | 6 => s.runSet blk r bs
    | 3 => (s.writeAt r.k bs).cleanAt r.k bs.length
    | _ => (s.logDirty u r.pol r.va r.k).putBytes r.k bs
  s.runPoison blk r sick

/-- Write a copy's runs one after the other. -/
def State.runsWrite (s : State) (c : Copy) : List Run → List Byte → List Bool → State
  | [], _, _ => s
  | r :: rs, bs, sick =>
    State.runsWrite (s.runWrite (c.core / 32) c.blk r (bs.take r.n) (sick.take r.n)) c rs (bs.drop r.n) (sick.drop r.n)

/-- The detector's name of a run's bytes, when it covers them (R74). -/
def State.runKey (s : State) (c : Copy) (r : Run) : Option (Nat × Nat × Nat) :=
  match r.k.kind with
  | 5 => some (0, c.blk, r.k.addr)
  | 3 => some (1, s.copyPolder c, r.k.ipa)
  | _ => none
/-- A copy's accesses to runs conflict with an open region (R72, R76). -/
def State.runsClash (s : State) (ck : Nat) (c : Copy) (rs : List Run) (write : Bool) : Bool :=
  rs.any (fun r => match s.runKey c r with
    | some (sp, key, a) => (s.conflict (.copy ck) sp key a r.n write false).isSome
    | none => false)
/-- Record them in the copy's region (R73), from a place of its stream on; a copy with a chunk map names the chunk of each byte. -/
def State.runsRecord (s : State) (ck : Nat) (c : Copy) : List Run → Bool → Nat → State
  | [], _, _ => s
  | r :: rs, write, off =>
    let s := match s.runKey c r with
      | some (sp, key, a) => s.recordBy (.copy ck) sp key a r.n write false (fun i => if c.flag 17 then (off + i) / 512 + 1 else 0)
      | none => s
    State.runsRecord s ck c rs write (off + r.n)

/-! ### Completion (R79, R222) -/

/-- Change a copy. -/
def State.modCopy (s : State) (ck : Nat) (f : Copy → Copy) : State :=
  { s with cp := { s.cp with copy := Map.adjust s.cp.copy ck f } }
/-- The engine that a copy runs on, for the counters. -/
def copyInst (ck : Nat) (c : Copy) : Nat := instEngine (c.core / 32) (ck % 12)
/-- A copy has ended with a status; its completion follows. -/
def State.endCopy (s : State) (ck status : Nat) : State :=
  (s.modCopy ck (fun c => { c with status := status, susp := 9 })).next (.copyComplete ck)

/-- The ring that carries a copy, on its core or in its block's image. -/
def State.ringOf (s : State) (c : Copy) : Option Ring :=
  match Map.find? s.cores.rings (16 * c.core + c.ring) with
  | some r => if r.blk = c.blk then some r else Map.find? (s.block c.blk).rings c.ring
  | none => Map.find? (s.block c.blk).rings c.ring

/-- The status with which a copy completes: one that stopped it comes before `POISON` (R222). -/
def Copy.final (c : Copy) : Nat := if c.status = 0 ∧ c.poison then 5 else c.status

/-- A copy completes: the tag and its status byte, the first-error word, the barrier arrival and the release; then what waited for the
copy goes on (R79, R211, R213, R222). -/
def State.completeCopy (s : State) (ck : Nat) (c : Copy) : State :=
  let st := c.final
  let b := s.block c.blk
  let s := s.closeRegion (.copy ck)
  let s := { s with cp := { s.cp with copy := Map.erase s.cp.copy ck } }
  let tag := bitsOf c.w0 4 6
  let s := if c.flag 10 then s.modBlock c.blk (fun b =>
      { b with tags := b.tags ||| (1#64 <<< tag),
               tagStatus := if Map.get b.tagStatus 0 tag = 0 then Map.put b.tagStatus 0 tag (BitVec.ofNat 8 st) else b.tagStatus })
    else s
  let s := match s.ringOf c with
    | some r => if st ≠ 0 ∧ s.sharedWord c.blk (r.base + 8) = 0 then
        s.putShared c.blk (r.base + 8) (bytesOf 8 (c.idx % 2 ^ 56 * 256 + st)) else s
    | none => s
  let n := bitsOf c.w0 12 5
  let s := if c.flag 11 && (s.bar c.blk n).init then
      (s.setBar c.blk n { s.bar c.blk n with count := (s.bar c.blk n).count + 1 }).checkBar c.blk n
    else s
  let s := s.count (copyInst ck c) 0x0300 1
  let s := if st = 1 then s.count (copyInst ck c) 0x0303 1 else s
  let s := s.wakeAll b.groups
  let waiting := (s.cp.copy.filter (fun q => !q.2.started && !q.2.complete && q.2.core / 32 == c.core / 32)).map
    (fun q => (q.2.core, q.2.ring))
  let s := waiting.eraseDups.foldl (fun s q => s.soon (.watcherFetchEntry q.1 q.2)) s
  (s.retireBlock c.blk).seek
/-- COPY_COMPLETE. -/
def execCopyComplete (ck : Nat) (s : State) : Host.Outcome State Fault Refusal :=
  match Map.find? s.cp.copy ck with
  | none => .next s
  | some c => if c.susp ≠ 9 ∨ c.complete then .next s else .next (s.completeCopy ck c).bump

/-! ### The watcher (R215, R223) -/

/-- Engines that a CD exposes and that are in service (R416). -/
def State.engines (s : State) (cd : Nat) : Nat :=
  (s.rel.remap.filter (fun q => decide (1024 + 16 * cd ≤ q.1) && decide (q.1 < 1024 + 16 * cd + 16) && q.2.st == 0 &&
    !NatSet.mem s.cp.engDead (16 * cd + q.2.exp))).length
/-- A block whose copies may move: live, or of an ended launch; its polder's copies are not suspended (R223, R372, R379). -/
def State.mayCopy (s : State) (c : Copy) : Bool :=
  let b := s.block c.blk
  (b.place == .live || (s.launch b.launch).ended.isSome) && (s.polder? (s.copyPolder c)).any (fun p => !p.suspended)
/-- Nothing holds a copy's start back: its ring's earlier ordered or majority copies, or the engines' capacity of 4 each. -/
def State.mayStart (s : State) (c : Copy) : Bool :=
  let earlier := s.cp.copy.filter (fun q => q.2.blk == c.blk && q.2.ring == c.ring && decide (q.2.idx < c.idx) && !q.2.complete)
  let busy := s.cp.copy.filter (fun q => q.2.core / 32 == c.core / 32 && q.2.started && !q.2.complete)
  !c.started && !c.complete && c.susp == 0 && s.mayCopy c &&
  !(c.flag 18 && earlier.any (fun q => q.2.flag 18)) &&
  !(decide (7 ≤ c.kind) && earlier.any (fun q => decide (7 ≤ q.2.kind))) && decide (busy.length < 4 * s.engines (c.core / 32))

/-- The step that starts a copy of a kind. -/
def startEvent (kind ck : Nat) : Instr :=
  match kind with
  | 0 => .copy ck
  | 1 => .copy2d ck
  | 2 => .gather ck
  | 3 => .scatter ck
  | 4 => .fillEntry ck
  | 5 => .chain ck
  | 6 => .reduce ck
  | 7 => .majSt ck
  | _ => .majLd ck

/-- WATCHER_FETCH_ENTRY: the watcher fetches the next published entry, a CHAIN with its second, refuses one that breaks a rule, and
starts every entry of the ring that nothing holds back. -/
def execWatcherFetchEntry (core slot : Nat) (s : State) : Host.Outcome State Fault Refusal :=
  match Map.find? s.cores.rings (16 * core + slot) with
  | none => .next s
  | some r =>
    let b := s.block r.blk
    let s := if !s.owes r || b.place != .live || (s.launch b.launch).ended.isSome then s
      else
        let w := fun (i k : Nat) => s.sharedWord r.blk (r.base + 64 + 32 * (i % r.n) + 8 * k)
        let pair := bitsOf (w r.next 0) 0 4 = 5
        let (ck, s) := s.key
        let c : Copy := { blk := r.blk, grp := r.grp, ring := slot, core := core, idx := r.next, w0 := w r.next 0, w1 := w r.next 1,
                          w2 := w r.next 2, w3 := w r.next 3, second := if pair then (List.range 4).map (w (r.next + 1)) else [],
                          started := false, done := 0, base := 0, upto := 0, landed := [], got := [], served := false, doomed := false,
                          status := 0, poison := false, susp := 0, idxs := [], cell := none,
                          cellSt := [], complete := false }
        let n := r.next + (if pair then 2 else 1)
        let r := { r with next := n, cons := n }
        let s := (s.setRing core slot r).writeCons r
        let s := { s with cp := { s.cp with copy := Map.insert s.cp.copy ck c } }
        let s := if s.badEntry c then s.endCopy ck 1 else s
        if s.owes r then s.soon (.watcherFetchEntry core slot) else s
    let mine := s.cp.copy.filter (fun q => q.2.blk == r.blk && q.2.ring == slot && s.mayStart q.2)
    .next (mine.foldl (fun s q => s.next (startEvent q.2.kind q.1)) s).bump

/-! ### Moving (R219, R220, R224, R371) -/

/-- What a translation fault does to a copy: it suspends at its piece, or ends with `XLATE_FAULT` (R224, R356). -/
def State.copyFault (s : State) (ck : Nat) (c : Copy) (m : Missed) : State :=
  let p := s.copyPolder c
  let s := s.count (copyInst ck c) 0x0302 1
  if !m.f.serv then (s.noteFault p (.copy ck) m.f m.va).endCopy ck 4
  else
    let cd := if m.dws && decide (m.f.page < 2 ^ 24) then (s.xlat p).frameCd m.f.page else c.core / 32
    match s.raiseFault p cd (.copy ck) m.dws m.f m.va with
    | some s => s.modCopy ck (fun c => { c with susp := 2, served := false })
    | none => s.endCopy ck 4

/-- The translation units walk for the pages of a copy. -/
def State.copyWalks (s : State) (ck : Nat) (c : Copy) (rs : List Run) : State :=
  rs.foldl (fun s r => match r.k.kind with
    | 0 | 1 => s.startWalk (s.copyPolder c) (c.core / 32) (.copy ck) false r.va
    | 3 => s.startWalk (s.copyPolder c) ((s.xlat (s.copyPolder c)).frameCd (r.k.ipa / 65536)) (.copy ck) true r.va
    | _ => s) s

/-- One CHAIN operation on an element (R220); of a NaN and a number, min and max give the number (log 151). -/
def chainOp (t : Ty) (mode : Nat) (sat : Bool) (op q n : Nat) : Nat :=
  let sq := signedOf 24 q
  if t.isFloat then
    let f := Fmt.of t
    let c := (convertElem .f32 t 0 (q * 256)).1
    let r := match op with
      | 1 => (f.add mode (f.read n) (f.read c)).1
      | 2 => (f.mul mode (f.read n) (f.read c)).1
      | 3 => (f.minmax true false n c).1
      | 4 => (f.minmax false false n c).1
      | 5 => n % f.signBit
      | 6 => (n + f.signBit) % (2 * f.signBit)
      | _ => (f.scale mode sq (f.read n)).1
    if (f.read r).isNan then f.nan else r
  else
    let x := signedOf t.width n
    let r := match op with
      | 1 => x + sq
      | 2 => x * sq
      | 3 => max x sq
      | 4 => min x sq
      | 5 => if x < 0 then -x else x
      | 6 => -x
      | _ => if 0 ≤ sq then x * ((2 ^ min sq.toNat 128 : Nat) : Int) else x / ((2 ^ min sq.natAbs 128 : Nat) : Int)
    fitTo t sat r

/-- A CHAIN element's output; an integer that does not fit another integer type has no stated result (log 14). -/
def Copy.chainElem (c : Copy) (free : Word) (n : Nat) : Nat :=
  let t := c.inTy
  let x := c.outTy
  let mode := bitsOf c.w3 8 2
  let body := c.slots.takeWhile (fun q => q.1 != 0)
  let v := body.foldl (fun v q => chainOp t mode (c.w3.getLsbD 10) q.1 q.2 v) n
  if t = x then v
  else if t.isInt && x.isInt && (decide (signedOf t.width v < tyMin x) || decide (tyMax x < signedOf t.width v)) then
    free.toNat % 2 ^ x.width
  else (convertElem t x mode v).1

/-- Cut bytes into elements. -/
def elemsOf (size : Nat) (bs : List Byte) : List Nat :=
  (List.range (bs.length / size)).map (fun k => numOf ((bs.drop (size * k)).take size))

/-- The source byte at a place of the stream, as the engine has read it. -/
def Copy.read (c : Copy) (o : Nat) : Byte × Bool := (Map.find? c.got o).getD (0, false)
/-- Some place of a stretch of the source carries poison. -/
def Copy.sickIn (c : Copy) (a n : Nat) : Bool := (List.range n).any (fun i => (c.read (a + i)).2)

/-- The bytes that a part of the destination receives, and which of them carry poison (R220, R222). -/
def State.partOut (s : State) (c : Copy) (p : Part) : List (Byte × Bool) :=
  match c.kind with
  | 4 => (List.range p.n).map (fun j => (c.w1.extractLsb' (8 * ((p.off + j) % 8)) 8, false))
  | 5 =>
    let si := tyBytes c.inTy
    let so := tyBytes c.outTy
    let e0 := p.off / so
    let es := (List.range ((p.off + p.n + so - 1) / so - e0)).map (e0 + ·)
    let out := es.flatMap (fun e =>
      let n := numOf ((List.range si).map (fun i => (c.read (si * e + i)).1))
      (bytesOf so (c.chainElem (s.freeW (2 ^ 30 + e)) n)).map (fun b => (b, c.sickIn (si * e) si)))
    (out.drop (p.off - so * e0)).take p.n
  | _ => (List.range p.n).map (fun j => c.read (p.off + j))

/-- A destination byte whose value is unspecified: it is a source byte too (R219). -/
def Copy.overlaps (c : Copy) (a : Nat) : Bool :=
  c.sspace == c.dspace && c.srcRanges.any (fun r => decide (r.1 ≤ a) && decide (a < r.1 + r.2))
/-- A place of the destination's stream has landed. -/
def Copy.hasLanded (c : Copy) (o : Nat) : Bool := decide (o < c.upto) || NatSet.mem c.landed (c.dest.part c.base o).off
/-- A destination byte of a SCATTER that another element has written: it ends with one of their values (R219). -/
def Copy.again (c : Copy) (o a : Nat) : Bool :=
  c.kind == 3 && (List.range c.elems).any (fun j =>
    let b := c.dst + c.idxAt j * c.len
    j != o / c.len && decide (b ≤ a) && decide (a < b + c.len) && c.hasLanded (j * c.len + (a - b)))

/-- A free byte. -/
def State.freeByte (s : State) (k : Nat) : Byte := (s.freeW (2 ^ 31 + k)).setWidth 8

/-- The bytes that land: with free values where the spec leaves them open. -/
def State.landing (s : State) (c : Copy) (p : Part) (old out : List Byte) : List Byte :=
  out.zipIdx.map (fun (e : Byte × Nat) =>
    if c.overlaps (p.va + e.2) then s.freeByte e.2
    else if c.again (p.off + e.2) (p.va + e.2) && s.choose (2 ^ 31 + e.2) then old.getD e.2 0
    else e.1)

/-- A chunk of a copy with a chunk map has wholly landed (R219): its parts, of which the first ones are looked at. -/
def Copy.chunkLanded (c : Copy) : Nat → Nat → Nat → Bool
  | 0, _, _ => false
  | n + 1, o, hi =>
    if hi ≤ max o c.upto then true
    else
      let p := c.dest.part c.base (max o c.upto)
      NatSet.mem c.landed p.off && Copy.chunkLanded c n (p.off + p.n) hi
/-- Set the chunk-map bits of the chunks of a part that have wholly landed, each a release for its chunk (R79, R219). -/
def State.setChunks (s : State) (c : Copy) (p : Part) : State :=
  if !c.flag 17 then s
  else
    let ks := (List.range ((p.off + p.n - 1) / 512 - p.off / 512 + 1)).map (p.off / 512 + ·)
    let s := (ks.filter (fun k => c.chunkLanded 10 (512 * k) (min c.len (512 * k + 512)))).foldl (fun s k =>
      let a := bitsOf c.w3 0 32 + k / 8
      s.modBlock c.blk (fun b =>
        { b with shared := Map.put b.shared 0 a (Map.get b.shared 0 a ||| BitVec.ofNat 8 (2 ^ (k % 8))) })) s
    s.wakeAll (s.block c.blk).groups

/-- The stream's landed front passes the parts that have landed. -/
def Copy.pass : Nat → Copy → Copy
  | 0, c => c
  | n + 1, c =>
    let p := c.dest.part c.base c.upto
    if c.upto < c.dest.total ∧ NatSet.mem c.landed p.off then Copy.pass n { c with landed := NatSet.del c.landed p.off, upto := p.off + p.n }
    else c
/-- A part has landed: the progress follows, source bytes that no later part needs are dropped, and a chunk that has moved gives up the page
that its service held (R358, R371). -/
def Copy.land (c : Copy) (p : Part) (sick : Bool) : Copy :=
  let c := { c with landed := NatSet.add c.landed p.off, poison := c.poison || sick }
  let c := Copy.pass c.landed.length c
  let next := c.srcAt (if c.upto < c.dest.total then (c.dest.part c.base c.upto).off else c.upto)
  { c with done := c.progress, served := c.served && decide (c.done = c.progress),
           got := if c.kind = 6 then c.got else c.got.filter (fun q => decide (next ≤ q.1)) }

/-- A conflict leaves the destination bytes of the whole copy unspecified, and changes nothing else (R76). -/
def State.scramble (s : State) (c : Copy) : State :=
  (c.dstRanges.flatMap (fun r => spaceParts c.dspace r.1 r.2)).foldl (fun s q =>
    match s.reach1 (c.core / 32) (s.copyPolder c) c.dspace q.1 q.2 .w with
    | .ok r => s.runSet c.blk r ((s.runRead c.blk r).zipIdx.map (fun (e : Byte × Nat) =>
        if s.choose (q.1 + e.2) then s.freeByte (q.1 + e.2) else e.1))
    | .error _ => s) s

/-- Flits of a channel become ready at a hop, whose arbiter takes them up (R420, R421). -/
def State.sendFlits (s : State) (hop ch n : Nat) : State :=
  let h := Map.get s.fab.hops Hop.idle hop
  let idle := h.ready.all (fun k => k == 0)
  let s := { s with fab := { s.fab with hops := Map.insert s.fab.hops hop { h with ready := h.ready.set ch (h.ready.getD ch 0 + n) } } }
  if idle && decide (0 < n) then s.after 1 (.hopArbitration hop) else s

/-- The hop by which a run leaves the package: the lowest fabric port up to its peer, 0 to 15, or the host link, 16 or 17, that carries
it (R404, R405; log 22). -/
def State.hopOf (s : State) (r : Run) : Option Nat :=
  match r.k.kind with
  | 1 => some (if s.fab.hostUp.getD (r.k.addr / 4096 % 2) false then 16 + r.k.addr / 4096 % 2 else 17 - r.k.addr / 4096 % 2)
  | 6 => (Map.find? s.fab.domain (r.k.addr / 2 ^ 60)).bind (fun d => (List.range 16).find? (fun i => d.1.testBit i && s.fab.portUp.getD i false))
  | _ => none

/-- The flits of a copy's runs, in the channel of its launch's queue class: 236 bytes of payload each (R405, R420). -/
def State.runsFlits (s : State) (c : Copy) (rs : List Run) : State :=
  let ch := 1 + (s.queue (s.launch (s.block c.blk).launch).queue).cls % 4
  rs.foldl (fun s r => match s.hopOf r with
    | some h => s.sendFlits h ch ((r.n + 235) / 236)
    | none => s) s

/-- An engine reads a line, or its part of one, in one act (R321); or the translation that failed. -/
def State.readLine (s : State) (ck : Nat) (c : Copy) (p : Part) : State × Option Missed :=
  match s.reach1 (c.core / 32) (s.copyPolder c) c.sspace p.va p.n .r with
  | .error m => (s, some m)
  | .ok r =>
    if s.runsClash ck c [r] false then ((s.scramble c).endCopy ck 3, none)
    else
      let bs := (s.runRead c.blk r).zip (s.runSick c.blk r)
      let got := bs.zipIdx.foldl (fun (m : Map (Byte × Bool)) (q : (Byte × Bool) × Nat) => Map.insert m (p.off + q.2) q.1) c.got
      let s := ((s.copyWalks ck c [r]).runsRecord ck c [r] false p.off).modCopy ck (fun _ => { c with got := got })
      (s.runsFlits c [r], none)

/-- An engine writes bytes over a line, or its part of one, in one act (R321). -/
def State.writeLine (s : State) (ck : Nat) (c : Copy) (p : Part) (out : List (Byte × Bool)) : State × Option Missed :=
  match s.reach1 (c.core / 32) (s.copyPolder c) c.dspace p.va p.n .w with
  | .error m => (s, some m)
  | .ok r =>
    if s.runsClash ck c [r] true then ((s.scramble c).endCopy ck 3, none)
    else
      let bs := s.landing c p (s.runRead c.blk r) (out.map (·.1))
      let s := ((s.copyWalks ck c [r]).runsRecord ck c [r] true p.off).runsWrite c [r] bs (out.map (·.2))
      let c := c.land p (out.any (·.2))
      (((s.modCopy ck (fun _ => c)).setChunks c p).runsFlits c [r] |>.count (copyInst ck c) 0x0301 1, none)

/-- One act for a part of the destination: a line that it needs is read, the r-th missing byte's, or the part is written. -/
def State.lineAct (s : State) (ck : Nat) (c : Copy) (p : Part) (r : Nat) : State × Option Missed :=
  match (c.missing p)[r % (c.missing p).length]? with
  | some o => s.readLine ck c (c.source.part (c.srcAt c.base) o)
  | none => s.writeLine ck c p (s.partOut c p)

/-- After an act a copy is whole, or goes on. -/
def State.afterAct (s : State) (ck : Nat) : State :=
  match Map.find? s.cp.copy ck with
  | some c => if c.susp = 9 then s else if c.dest.total ≤ c.upto then s.endCopy ck 0 else s.soon (.copyChunkLanded ck)
  | none => s

/-- The bytes before a page that faults have moved (R222, R224): of the first part that has not landed, those whose source has been
read are written, and the copy goes on, if it does, after them. -/
def State.faultAt (s : State) (ck : Nat) (c : Copy) (p : Part) (m : Missed) : State :=
  let n := match c.missing p with
    | o :: _ => c.dstAt o - p.off
    | [] => 0
  if n = 0 then s.copyFault ck c m
  else
    let q : Part := { p with n := n }
    match s.writeLine ck c q (s.partOut c q) with
    | (s', none) =>
      match Map.find? s'.cp.copy ck with
      | some c => if c.susp = 9 then s' else (s'.modCopy ck (fun c => { c with base := c.upto })).copyFault ck { c with base := c.upto } m
      | none => s'
    | (_, some _) => s.copyFault ck c m

/-- A copy that R310 makes one act: ordered, with all its bytes in one aligned word of shared memory or the DWS. -/
def Copy.oneWord (c : Copy) : Bool :=
  let rs := c.dstRanges.filter (fun r => decide (r.2 ≠ 0))
  c.flag 18 && (c.dspace == 1 || c.dspace == 2) && rs.all (fun r => r.1 / 8 == (rs.headD (0, 0)).1 / 8 && (r.1 + r.2 - 1) / 8 == r.1 / 8)
/-- Its act: once its sources have been read, all its bytes and its completion (R310). -/
def State.wordAct (s : State) (ck : Nat) (c : Copy) : State :=
  let t := c.dest
  match c.missing { off := 0, va := t.va 0, n := t.total } with
  | o :: _ => match s.readLine ck c (c.source.part 0 o) with
    | (s', none) => s'.afterAct ck
    | (_, some m) => s.copyFault ck c m
  | [] =>
    let put := fun (a : State × Option Missed) (i : Nat) =>
      match a.2, Map.find? a.1.cp.copy ck with
      | none, some c =>
        if c.susp = 9 then a
        else
          let p : Part := { off := i * t.seg, va := t.va i, n := t.seg }
          a.1.writeLine ck c p (a.1.partOut c p)
      | _, _ => a
    match (List.range (t.total / t.seg)).foldl put (s, none) with
    | (s', none) => match Map.find? s'.cp.copy ck with
      | some c => if c.susp = 9 then s' else s'.completeCopy ck { c with susp := 9, status := 0 }
      | none => s'
    | (_, some m) => s.copyFault ck c m

/-- One act of a copy: for the first part that has not landed, or one of the 63 after it, of the engine's choice; a fault ahead of the first
waits until the copy reaches it (R223, R224, R321). -/
def State.copyStep (s : State) (ck : Nat) (c : Copy) : State :=
  let c := if c.upto = 0 then { c with base := c.restart, upto := c.restart } else c
  let t := c.dest
  if t.total ≤ c.upto then s.endCopy ck 0
  else if c.oneWord then s.wordAct ck c
  else
    let p0 := t.part c.base c.upto
    let p := t.partAfter c.base ((s.freeW 3).toNat % 64) p0
    match if NatSet.mem c.landed p.off ∨ p = p0 then (s, some (deadFault 0)) else s.lineAct ck c p (s.freeW 4).toNat with
    | (s', none) => s'.afterAct ck
    | (_, some _) => match s.lineAct ck c p0 0 with
      | (s', none) => s'.afterAct ck
      | (_, some m) => s.faultAt ck c p0 m

/-- The compactor is moving a block's shared range: its copies wait (R55). -/
def State.movesBlock (s : State) (b : Nat) : Bool := s.cores.moves.any (fun m => m.shared && m.key == b)
/-- A copy starts: its region opens (R73); one that names a majority page, or an index list or element outside the allocation, moves
nothing (R87, R218). -/
def State.startCopy (s : State) (ck kind : Nat) : State :=
  match Map.find? s.cp.copy ck with
  | none => s
  | some c =>
    if c.kind ≠ kind ∨ !s.mayStart c then s
    else if s.movesBlock c.blk then s.soon (startEvent kind ck)
    else
      let size := (s.block c.blk).sharedSz
      let u := c.core / 32
      let o := bitsOf c.w3 0 32
      let listed := c.kind == 2 || c.kind == 3
      let list : List Run := if listed then [{ k := { kind := 5, addr := o, ipa := 0 }, n := 4 * c.elems, va := o, pol := s.copyPolder c }] else []
      let c := { c with started := true, idxs := if listed then elemsOf 4 (Mem.read (s.block c.blk).shared o (4 * c.elems)) else [] }
      let s := s.modCopy ck (fun _ => c)
      let p := s.copyPolder c
      if listed && (!insideAll size [(o, 4 * c.elems)] || (c.kind == 2 && c.sspace == 2 && !insideAll size c.srcRanges) ||
          (c.kind == 3 && c.dspace == 2 && !insideAll size c.dstRanges)) then s.endCopy ck 1
      else if (c.kind != 4 && c.srcRanges.any (fun r => s.majorityIn u p c.sspace r.1 r.2 true)) ||
          c.dstRanges.any (fun r => s.majorityIn u p c.dspace r.1 r.2 true) then s.endCopy ck 2
      else if c.dest.total = 0 then s.endCopy ck 0
      else if s.runsClash ck c list false then (s.scramble c).endCopy ck 3
      else (s.runsRecord ck c list false 0).soon (.copyChunkLanded ck)

/-- COPY. -/
def execCopy (ck : Nat) (s : State) : Host.Outcome State Fault Refusal := .next (s.startCopy ck 0).bump
/-- COPY2D. -/
def execCopy2d (ck : Nat) (s : State) : Host.Outcome State Fault Refusal := .next (s.startCopy ck 1).bump
/-- GATHER: the index list is read once. -/
def execGather (ck : Nat) (s : State) : Host.Outcome State Fault Refusal := .next (s.startCopy ck 2).bump
/-- SCATTER. -/
def execScatter (ck : Nat) (s : State) : Host.Outcome State Fault Refusal := .next (s.startCopy ck 3).bump
/-- FILL. -/
def execFillEntry (ck : Nat) (s : State) : Host.Outcome State Fault Refusal := .next (s.startCopy ck 4).bump
/-- CHAIN. -/
def execChain (ck : Nat) (s : State) : Host.Outcome State Fault Refusal := .next (s.startCopy ck 5).bump

/-! ### REDUCE (R221, R379, R380) -/

/-- The element-wise result of the members' contributions. -/
def Copy.reduced (c : Copy) (all : List (List Byte)) : List Byte :=
  let t := c.redTy
  let size := tyBytes t
  let op := bitsOf c.w3 16 4
  (List.range (c.len / size)).flatMap (fun k =>
    let es := all.map (fun bs => numOf ((bs.drop (size * k)).take size))
    bytesOf size (if t.isFloat then (combineFp t op (bitsOf c.w3 24 2) es).1 else combineInt t op false es))

/-- REDUCE starts: it waits for its collective group to be free of another copy of this member, then reads its source. -/
def execReduce (ck : Nat) (s : State) : Host.Outcome State Fault Refusal :=
  match Map.find? s.cp.copy ck with
  | none => .next s
  | some c =>
    if c.kind ≠ 6 ∨ !s.mayStart c then .next s
    else
      let p := s.copyPolder c
      let s := s.modCopy ck (fun c => { c with started := true })
      let u := c.core / 32
      if s.majorityIn u p c.sspace c.src c.len true || s.majorityIn u p c.dspace c.dst c.len true then .next (s.endCopy ck 2)
      else if c.len = 0 then .next (s.endCopy ck 0)
      else .next (s.soon (.copyChunkLanded ck)).bump

/-- How a round of a group ends at a moment: not yet; the peers' contributions, free to this package; or a status. -/
inductive RoundEnd where
  | not_
  | all (peers : List (List Byte))
  | status (st : Nat)

/-- The other members of a group. -/
def Coll.peers (k : Coll) : List Nat := (List.range 64).filter (fun i => k.members.getLsbD i && i != Config.package.toNat)
/-- The contributions of the other members arrive when they will, with the bytes they will; a member may differ in its entry or reset
instead; one that halts is known at the timeout (R221, R379, R380). -/
def State.roundEnd (s : State) (c : Copy) (k : Coll) : RoundEnd :=
  let peers := k.peers
  let data := peers.map (fun i => (List.range c.len).map (fun j => s.freeByte (i * 2 ^ 40 + j)))
  if peers.isEmpty then .all []
  else if !k.data.isEmpty then .all k.data
  else match (s.freeW 4).toNat % 4 with
    | 0 => .all data
    | 1 => .status 1
    | 2 => .status 6
    | _ => .not_

/-- The source line of a REDUCE that its engine reads next, of its choice; none once it has read all. -/
def State.reduceNext (s : State) (c : Copy) : Option Part :=
  let t := c.source
  let all := ((List.range (t.total / 64 + 2)).map (fun k => t.part 0 (min (64 * k) (t.total - 1)))).eraseDups
  let todo := all.filter (fun p => (Map.find? c.got p.off).isNone)
  todo[(s.freeW 4).toNat % todo.length]?
/-- What a part of a REDUCE's destination receives: poison with each element whose source here held it (R221, R222). -/
def Copy.reducePart (c : Copy) (all : List (List Byte)) (p : Part) : List (Byte × Bool) :=
  let out := c.reduced all
  let n := tyBytes c.redTy
  (List.range p.n).map (fun i => (out.getD (p.off + i) 0, c.sickIn ((p.off + i) / n * n) n))

/-- One step of a REDUCE: its source is read line by line and contributed; then it waits for the round, whose result it writes line by
line. -/
def State.reduceStep (s : State) (ck : Nat) (c : Copy) : State :=
  let h := bitsOf c.w3 0 16
  let p := s.copyPolder c
  match Map.find? s.cp.colls h with
  | none => s.endCopy ck 1
  | some k =>
    if k.local_ ≠ some ck then
      if !s.mayCopy c then s.modCopy ck (fun c => { c with susp := if c.susp = 0 then 1 else c.susp })
      else if k.local_.isSome then s.soon (.copyChunkLanded ck)
      else match s.reduceNext c with
        | some q => match s.readLine ck c q with
          | (s', none) => s'.afterAct ck
          | (_, some m) => s.copyFault ck c m
        | none =>
          let mine := (List.range c.len).map (fun o => (c.read o).1)
          let k := { k with local_ := some ck, since := s.ag.clock, mine := mine, data := [] }
          let s := { s with cp := { s.cp with colls := Map.insert s.cp.colls h k } }
          let s := s.modCopy ck (fun c => { c with poison := c.sickIn 0 c.len, served := false })
          (s.atNs (s.ag.clock + 1000000 * (if k.timeout = 0 then 1000 else k.timeout)) (.collectiveTimeout h)).soon (.copyChunkLanded ck)
    else
      let free := fun (s : State) => { s with cp := { s.cp with colls := Map.insert s.cp.colls h { k with local_ := none, mine := [], data := [] } } }
      if c.status ≠ 0 then (free s).endCopy ck c.status
      else if (s.polder? p).any (fun x => x.suspended) then s.modCopy ck (fun c => { c with susp := if c.susp = 0 then 1 else c.susp })
      else match s.roundEnd c k with
      | .not_ => s.soon (.copyChunkLanded ck)
      | .status st => (free s).endCopy ck st
      | .all peers =>
        let s := { s with cp := { s.cp with colls := Map.insert s.cp.colls h { k with data := peers } } }
        let q := c.dest.part 0 c.upto
        match s.writeLine ck c q (c.reducePart (k.mine :: peers) q) with
        | (_, some m) =>
          let s := s.copyFault ck c m
          if (Map.find? s.cp.copy ck).any (fun c => c.susp == 9) then free s else s
        | (s', none) =>
          let s := s'.afterAct ck
          if (Map.find? s.cp.copy ck).any (fun c => c.susp == 9) then free s else s

end Sys2Proof.Machine
end

