-- ==== Sys2Proof/Machine/Majority.lean ====
section
/-! DEFINITION. Majority cells (R86 to R104): descriptors, the two majority copies and their cells, the scrubber, rebuilding, and the
requests of peer packages. -/

namespace Sys2Proof.Machine

/-! ### Descriptors and cells (R88 to R92) -/

/-- A descriptor that breaks no rule of R88. -/
def State.okDesc (s : State) (desc : Nat) : Bool :=
  let n := s.copyN desc
  let words := (List.range 5).map (s.copyWord desc)
  let stkOf := (words.take n).map (fun w => bitsOf w 56 3)
  (n == 3 || n == 5) && (Mem.read s.mems.dram (desc + 1) 7).all (fun b => b == 0) && (Mem.read s.mems.dram (desc + 48) 16).all (fun b => b == 0) &&
  (words.take n).all (fun w => bitsOf w 62 2 != 3 && bitsOf w 59 3 == 0 && bitsOf w 0 16 == 0) && (words.drop n).all (fun w => w == 0) &&
  stkOf.eraseDups.length == n

/-- The majority of a descriptor's copies. -/
def State.majOf (s : State) (desc : Nat) : Nat := (s.copyN desc + 1) / 2
/-- Copy k of a descriptor is on the move and counts as missing (R97, R360). Its state in the descriptor, and in `maj_state`, stays what it
was: a move changes its address alone (R88). -/
def State.movingCopy (s : State) (desc k : Nat) : Bool :=
  s.tr.polder.any (fun q => q.2.migs.any (fun m => !m.dws && bitsOf m.entry 9 3 == k &&
    ((q.2.s2find (4096 * m.page)).any (fun l => bitsOf l.entry 56 4 == 2 && entryAddr l.entry == desc))))
/-- The copies that are not failed (R97). -/
def State.unfailed (s : State) (desc : Nat) : List Nat := (List.range (s.copyN desc)).filter (fun k => s.copySt desc k != 1)
/-- A copy answers queries, and its replies count: present, and not on the move (R97, R103). -/
def State.counts (s : State) (desc k : Nat) : Bool := decide (k < s.copyN desc) && s.copySt desc k == 0 && !s.movingCopy desc k
/-- The copies that queries go to: present ones (R94, R103). -/
def State.asked (s : State) (desc : Nat) : List Nat := (List.range (s.copyN desc)).filter (fun k => s.copySt desc k == 0)
/-- A cell of a copy is poisoned. -/
def State.cellSick (s : State) (pa : Nat) : Bool := NatSet.mem s.mems.poisonD (pa / 64)
/-- A cell's tag. -/
def State.cellTag (s : State) (pa : Nat) : Word := wordOf (Mem.read s.mems.dram pa 8)
/-- A cell's payload. -/
def State.cellData (s : State) (pa : Nat) : List Byte := Mem.read s.mems.dram (pa + 8) 56
/-- A copy receives a write: it accepts one with a greater tag, or any when it is poisoned (R95, R101). -/
def State.cellWrite (s : State) (pa : Nat) (t : Word) (data : List Byte) : State × Bool :=
  if s.cellSick pa || decide ((s.cellTag pa).toNat < t.toNat) then
    let k : Place := { kind := 0, addr := pa, ipa := 0 }
    ((s.writeAt k (bytesOf 8 t.toNat ++ data)).cleanAt k 64, true)
  else (s, false)

/-- The writer identity of a copy (R91). -/
def State.writerId (s : State) (c : Copy) : Nat :=
  Config.package.toNat * 2 ^ 18 + c.core / 32 * 2 ^ 15 + c.core % 32 * 2 ^ 10 + c.ring * 2 ^ 6 + (s.group c.grp).gid * 2

/-! ### The cells of a copy (R94, R96, R98, R100) -/

/-- The status of a copy: the first of R98 that one of its cells received. -/
def majStatus (sts : List Nat) : Nat := ([4, 3, 5, 10, 9, 11, 12].find? (fun st => sts.contains st)).getD 0

/-- A copy is discarded: its region closes, its majority writes do not arrive, and a round that it was in is free of it. -/
def State.discardCopy (s : State) (ck : Nat) : State :=
  let s := s.closeRegion (.copy ck)
  { s with cp := { s.cp with
      copy := Map.erase s.cp.copy ck, sent := s.cp.sent.filter (fun m => m.from_ != ck),
      colls := s.cp.colls.map (fun (q : Nat × Coll) => if q.2.local_ = some ck then (q.1, { q.2 with local_ := none, mine := [], data := [] }) else q) } }

/-- A cell is done: the next one follows, or the copy completes. -/
def State.cellDone (s : State) (ck : Nat) (c : Copy) (st : Nat) : State :=
  let c := { c with cell := none, cellSt := c.cellSt ++ [st], done := c.done + 1 }
  let s := s.modCopy ck (fun _ => c)
  if st = 4 ∨ st = 3 ∨ c.pieces ≤ c.done then s.endCopy ck (majStatus c.cellSt) else s.soon (.copyChunkLanded ck)

/-- The majority side of a copy's cell: its polder and address, or none when no route reaches its package. -/
def State.majSide (s : State) (c : Copy) : Option (Nat × Nat) :=
  let va := if c.kind = 7 then (c.piece c.done).dst else (c.piece c.done).src
  let space := if c.kind = 7 then c.dspace else c.sspace
  if space = 0 then some (s.copyPolder c, va)
  else (s.peerOf (s.copyPolder c) (va / 2 ^ 56 % 64)).map (fun q => (q, va % 2 ^ 56))
/-- Whether the cell is served by another package. -/
def State.majFar (_s : State) (c : Copy) : Bool :=
  let va := if c.kind = 7 then c.dst else c.src
  (if c.kind = 7 then c.dspace else c.sspace) == 3 && va / 2 ^ 56 % 64 != Config.package.toNat

/-- A tag greater than another, as another writer may have formed it (R91, R92). -/
def State.newerTag (s : State) (t : Nat) : Nat := min (2 ^ 64 - 2) ((t + 2 + (s.freeW (2 ^ 31)).toNat % (2 ^ 64 - t)) / 2 * 2)
/-- A cell that a peer package serves: its engines handle it as these do, at one instant, among other writers of that package, whose
stores have greater tags (R93, R99). -/
def State.farCell (s : State) (ck : Nat) (c : Copy) (q va : Nat) (rs : List Run) (data : List Byte) : State :=
  let full := if c.kind = 7 then c.dst else c.src
  let pkg := full / 2 ^ 56 % 64
  if Config.peerPage (pkg * 2 ^ 56 + q * 2 ^ 50 + va / 4096) < 2 then s.endCopy ck 4
  else
    let m := Map.get s.mems.peer [] pkg
    let a := q * 2 ^ 56 + va
    let old := Mem.read m a 64
    let v := numOf (old.take 8) / 2 ^ 24
    let put := fun (s : State) (bs : List Byte) => { s with mems := { s.mems with peer := Map.insert s.mems.peer pkg (Mem.write m a bs) } }
    let r := (s.freeW 5).toNat % 3
    let other := fun (t : Nat) => bytesOf 8 (s.newerTag t) ++ (List.range 56).map s.freeByte
    if c.kind = 7 then
      if v = 2 ^ 40 - 1 then s.cellDone ck c 10
      else
        let t := (v + 1) * 2 ^ 24 + s.writerId c
        let new := bytesOf 8 t ++ data
        match r with
        | 0 => (put s new).cellDone ck c 12
        | 1 => (put s (other t)).cellDone ck c 11
        | _ => (if s.choose 6 then put s new else s).cellDone ck c 9
    else if r = 2 then s.cellDone ck c 9
    else
      let now := if r = 1 then other (numOf (old.take 8)) else old
      let s := put s now
      if s.runsClash ck c rs true then (s.runsSet c.blk rs ((List.range 64).map s.freeByte)).endCopy ck 3
      else ((s.runsRecord ck c rs true 0).runsWrite c rs now []).cellDone ck c 0

/-- IDLE of a cell: its pages are translated and the source unit read; then the queries go out (R100). Where several of its conditions
hold, a page that cannot be served comes before a conflict, and that before poison, as R98 orders the statuses (log 145). -/
def State.cellStep (s : State) (ck : Nat) (c : Copy) : State :=
  if c.doomed ∧ c.cell.isNone then (s.discardCopy ck).retireBlock c.blk
  else if !s.mayCopy c then s.modCopy ck (fun c => { c with susp := if c.susp = 0 then 1 else c.susp })
  else if c.susp ≠ 0 ∨ c.cell.isSome then s
  else if c.pieces ≤ c.done then s.endCopy ck (majStatus c.cellSt)
  else
    let st := c.kind == 7
    let pc := c.piece c.done
    let p := s.copyPolder c
    let u := c.core / 32
    let ord := if st then s.runs u p c.sspace (pc.src + 8) 56 .r else s.runs u p c.dspace pc.dst 64 .w
    let own : Except Missed (Nat × Nat × Option Place) := match s.majSide c with
      | none => .error (deadFault 0)
      | some (q, va) =>
        if s.majFar c then .ok (q, va, none)
        else match s.global u q va (if st then .w else .r) with
          | .error f => .error { f := f, dws := false, va := va }
          | .ok k =>
            if k.kind ≠ 2 then .error (deadFault va)
            else if !s.okDesc k.addr then .error { f := { cause := 3, serv := false, page := k.ipa / 4096 }, dws := false, va := va }
            else .ok (q, va, some k)
    match own, ord with
    | .error m, _ => s.copyFault ck c m
    | _, .error m => s.copyFault ck c m
    | .ok (q, va, here), .ok rs =>
      let s := (s.copyWalks ck c rs).modCopy ck (fun c => { c with served := false })
      let bs := rs.flatMap (s.runRead c.blk)
      if st && s.runsClash ck c rs false then s.endCopy ck 3
      else
        let s := if st then s.runsRecord ck c rs false 0 else s
        if st && (rs.flatMap (s.runSick c.blk)).any (fun b => b) then s.cellDone ck c 5
        else match here with
          | none => s.farCell ck c q va rs bs
          | some k =>
            if (s.unfailed k.addr).length < s.majOf k.addr then s.cellDone ck c 9
            else
              let d := match rs with
                | r :: _ => (r.k.kind, r.k.addr, r.k.ipa)
                | [] => (2, 0, 0)
              let t := s.ag.clock + 20000
              let cell : Cell := { idx := k.ipa % 65536 / 64, st := .query, desc := k.addr, answers := [], replies := [], tag := 0,
                                   data := if st then bs else [], dest := d, timer := t }
              let s := (s.startWalk q (c.core / 32) (.copy ck) false va).modCopy ck (fun c => { c with cell := some cell })
              let s := if st then s.logDirty (c.core / 32) q va k else s
              (s.asked k.addr).foldl (fun s i => s.soon (.majCellAnswer ck i)) (s.atNs t (.majCellTimerExpiry ck))

/-- Send a tag and payload to some copies of a cell, and restart the timer. -/
def State.sendWrites (s : State) (ck : Nat) (c : Copy) (cell : Cell) (ks : List Nat) : State :=
  let msgs := ks.map (fun k => ({ from_ := ck, idx := c.done, k := k, pa := s.copyPa cell.desc k (64 * cell.idx), tag := cell.tag,
                                  data := cell.data, desc := cell.desc, reply := none } : MajMsg))
  let t := s.ag.clock + 20000
  let s := { s with cp := { s.cp with sent := s.cp.sent ++ msgs } }
  let s := s.modCopy ck (fun c => { c with cell := some { cell with timer := t } })
  ks.foldl (fun s k => s.soon (.majCopyWriteReceived ck k)) (s.atNs t (.majCellTimerExpiry ck))

/-- MAJ.LD delivers a tag and payload to the destination unit, through the translation held since IDLE (R96, R100). -/
def State.deliverCell (s : State) (ck : Nat) (c : Copy) (cell : Cell) (t : Word) (data : List Byte) : State :=
  let p := s.copyPolder c
  let k : Place := { kind := cell.dest.1, addr := cell.dest.2.1, ipa := cell.dest.2.2 }
  let lost := k.kind == 3 && (((s.xlat p).freeFrames.contains (k.ipa / 65536)) || (s.dwsHome p k.ipa).isNone)
  let home := if k.kind = 3 then (s.dwsHome p k.ipa).getD k else k
  let named : Run := { k := k, n := 64, va := (c.piece c.done).dst, pol := p }
  let r : Run := { named with k := home }
  if s.runsClash ck c [named] true then
    (s.runsSet c.blk (if lost then [] else [r]) ((List.range 64).map s.freeByte)).endCopy ck 3
  else
    let s := s.runsRecord ck c [named] true 0
    let s := if lost then s else s.runsWrite c [r] (bytesOf 8 t.toNat ++ data) []
    (s.count (copyInst ck c) 0x0301 1).cellDone ck c 0

/-- The greatest tag among answers, with its payload. -/
def bestAnswer (as : List (Nat × Word × List Byte)) : Word × List Byte :=
  as.foldl (fun b a => if b.1.toNat < a.2.1.toNat then a.2 else b) (0, List.replicate 56 0)

/-- The m-th answer of a query phase: a store forms its tag and writes; a load delivers, or writes back to the older copies. -/
def State.queried (s : State) (ck : Nat) (c : Copy) (cell : Cell) : State :=
  let best := if cell.answers.all (fun a => a.2.1 == 0) then (cell.answers.head?.map (·.2)).getD (0, List.replicate 56 0)
    else bestAnswer cell.answers
  if c.kind = 7 then
    let v := best.1.toNat / 2 ^ 24
    if v = 2 ^ 40 - 1 then s.cellDone ck c 10
    else s.sendWrites ck c { cell with st := .write, tag := BitVec.ofNat 64 ((v + 1) * 2 ^ 24 + s.writerId c) } (s.unfailed cell.desc)
  else if cell.answers.all (fun a => a.2.1 == best.1) then s.deliverCell ck c cell best.1 best.2
  else
    let older := (cell.answers.filter (fun a => decide (a.2.1.toNat < best.1.toNat))).map (·.1)
    let again := (List.range (s.copyN cell.desc)).filter (fun k => s.copySt cell.desc k == 2)
    s.sendWrites ck c { cell with st := .writeback, tag := best.1, data := best.2 } (older ++ again)

/-- A reply of a write or write-back phase; the m-th ends the cell. -/
def State.replied (s : State) (ck : Nat) (c : Copy) (cell : Cell) : State :=
  let m := s.majOf cell.desc
  if cell.st = .write then
    if cell.replies.length < m then s else s.cellDone ck c (if cell.replies.all (·.2) then 12 else 11)
  else
    let held := (cell.answers.filter (fun a => a.2.1 == cell.tag)).length
    if held + cell.replies.length < m then s else s.deliverCell ck c cell cell.tag cell.data

/-- MAJ_CELL_ANSWER: copy k's answer or reply reaches the engine, when it will (R94, R96, R100). A poisoned copy counts as missing
(R97); a rebuilding one's replies do not count (R103). -/
def execMajCellAnswer (ck k : Nat) (s : State) : Host.Outcome State Fault Refusal :=
  match Map.find? s.cp.copy ck with
  | none => .next s
  | some c =>
    match c.cell with
    | none => .next s
    | some cell =>
      if cell.st = .query then
        let pa := s.copyPa cell.desc k (64 * cell.idx)
        if cell.answers.any (fun a => a.1 == k) || !s.counts cell.desc k || s.cellSick pa then .next s.bump
        else
          let cell := { cell with answers := cell.answers ++ [(k, s.cellTag pa, s.cellData pa)] }
          let s := s.modCopy ck (fun c => { c with cell := some cell })
          if cell.answers.length < s.majOf cell.desc then .next s.bump else .next (s.queried ck { c with cell := some cell } cell).bump
      else
        match s.cp.sent.find? (fun m => m.from_ == ck && m.idx == c.done && m.k == k && m.reply.isSome) with
        | none => .next s.bump
        | some m =>
          let s := { s with cp := { s.cp with sent := s.cp.sent.erase m } }
          let cell := { cell with replies := cell.replies ++ [(k, m.reply.getD false)] }
          let s := s.modCopy ck (fun c => { c with cell := some cell })
          .next (s.replied ck { c with cell := some cell } cell).bump

/-- MAJ_COPY_WRITE_RECEIVED: a sent write arrives at copy k, which accepts it or replies with its newer tag (R95). A missing copy receives
nothing, and a rebuilding one's reply does not count (R97, R103); a reply once given stands. -/
def execMajCopyWriteReceived (ck k : Nat) (s : State) : Host.Outcome State Fault Refusal :=
  match s.cp.sent.find? (fun m => m.from_ == ck && m.k == k && m.reply.isNone) with
  | none => .next s
  | some m =>
    let rest := s.cp.sent.erase m
    let away := s.copySt m.desc k == 1 || s.movingCopy m.desc k
    let live := (Map.find? s.cp.copy ck).any (fun c => c.done == m.idx && c.cell.any (fun e => e.st == .write || e.st == .writeback)) && s.counts m.desc k
    let (s, ok) := if away then (s, false) else s.cellWrite m.pa m.tag m.data
    let s := { s with cp := { s.cp with sent := if live then rest ++ [{ m with reply := some ok }] else rest } }
    .next (if live then s.soon (.majCellAnswer ck k) else s).bump

/-- MAJ_CELL_TIMER_EXPIRY: a phase that is short of m when its timer ends (R97, R100). -/
def execMajCellTimerExpiry (ck : Nat) (s : State) : Host.Outcome State Fault Refusal :=
  match Map.find? s.cp.copy ck with
  | none => .next s
  | some c =>
    match c.cell with
    | some cell => if cell.timer ≤ s.ag.clock then .next (s.cellDone ck c 9) else .next s
    | none => .next s

/-- A phase whose copies that are not failed are fewer than m ends at once (R97). -/
def State.shortCells (s : State) : State :=
  s.cp.copy.foldl (fun s q => match q.2.cell with
    | some cell => if (s.unfailed cell.desc).length < s.majOf cell.desc then s.cellDone q.1 q.2 9 else s
    | none => s) s

/-- A majority copy starts, unless a page is not what its kind requires (R87). -/
def State.startMaj (s : State) (ck kind : Nat) : State :=
  match Map.find? s.cp.copy ck with
  | none => s
  | some c =>
    if c.kind ≠ kind ∨ !s.mayStart c then s
    else
      let p := s.copyPolder c
      let s := s.modCopy ck (fun c => { c with started := true })
      let (sw, dw) := (kind == 8, kind == 7)
      let u := c.core / 32
      if s.majorityIn u p c.sspace c.src c.len (!sw) || s.majorityIn u p c.dspace c.dst c.len (!dw) then s.endCopy ck 2
      else s.soon (.copyChunkLanded ck)

/-- MAJ.ST. -/
def execMajSt (ck : Nat) (s : State) : Host.Outcome State Fault Refusal := .next (s.startMaj ck 7).bump
/-- MAJ.LD. -/
def execMajLd (ck : Nat) (s : State) : Host.Outcome State Fault Refusal := .next (s.startMaj ck 8).bump

/-- COPY_CHUNK_LANDED: a copy goes on by one piece, cell or round step; one whose block is stopped, or whose polder's copies are
suspended, is suspended there (R223, R371, R372). -/
def execCopyChunkLanded (ck : Nat) (s : State) : Host.Outcome State Fault Refusal :=
  match Map.find? s.cp.copy ck with
  | none => .next s
  | some c =>
    if c.complete || !c.started || c.susp == 9 then .next s
    else if 7 ≤ c.kind then .next (s.cellStep ck c).bump
    else if c.kind = 6 then
      let flying := (Map.find? s.cp.colls (bitsOf c.w3 0 16)).any (fun k => k.local_ == some ck)
      if c.susp = 0 ∨ (c.susp = 3 ∧ flying) then .next (s.reduceStep ck c).bump else .next s
    else if c.susp ≠ 0 then .next s
    else if !s.mayCopy c then .next (s.modCopy ck (fun c => { c with susp := 1 }))
    else if s.movesBlock c.blk then .next (s.soon (.copyChunkLanded ck))
    else .next (s.copyStep ck c).bump

/-! ### Repair (R102, R103) -/

/-- The greatest tag of a cell's sound copies that are not failed (R102). -/
def State.bestCopy (s : State) (desc cell : Nat) : Option (Word × List Byte) :=
  let ks := (s.unfailed desc).filter (fun k => !s.cellSick (s.copyPa desc k (64 * cell)))
  match ks with
  | [] => none
  | _ =>
    let as := ks.map (fun k => (k, s.cellTag (s.copyPa desc k (64 * cell)), s.cellData (s.copyPa desc k (64 * cell))))
    some (if as.all (fun a => a.2.1 == 0) then (as.head?.map (·.2)).getD (0, []) else bestAnswer as)

/-- MAJORITY_SCRUB: the greatest tag found is written to every older or poisoned copy, and each repair counted (R102). -/
def execMajorityScrub (desc cell : Nat) (s : State) : Host.Outcome State Fault Refusal :=
  if !s.okDesc desc || decide (1024 ≤ cell) then .next s
  else match s.bestCopy desc cell with
    | none => .next s
    | some (t, data) =>
      .next ((s.unfailed desc).foldl (fun s k =>
        let (s, ok) := s.cellWrite (s.copyPa desc k (64 * cell)) t data
        if ok then s.count instDev 0x0701 1 else s) s)

/-- Replace a copy word of a descriptor. -/
def State.setCopyWord (s : State) (desc k : Nat) (w : Word) : State :=
  { s with mems := { s.mems with dram := Mem.write s.mems.dram (desc + 8 + 8 * k) (bytesOf 8 w.toNat) } }
/-- Change a copy's state. -/
def State.setCopySt (s : State) (desc k st : Nat) : State :=
  s.setCopyWord desc k (BitVec.ofNat 64 ((s.copyWord desc k).toNat % 2 ^ 62 + st * 2 ^ 62))

/-- STACK_REBUILD: firmware rebuilds a failed copy on a replacement stack cell by cell, in order; with the last cell the copy counts
again (R103). The first cell of a copy on a failed stack brings its replacement into service (log 146). -/
def execStackRebuild (desc k cell : Nat) (s : State) : Host.Outcome State Fault Refusal :=
  let key := 8 * desc + k
  let at_ := Map.get s.cp.rebuilt 0 key
  if !s.okDesc desc || s.copyN desc ≤ k || s.copySt desc k = 0 || cell ≠ at_ || decide (1024 ≤ cell) || s.movingCopy desc k then .next s
  else
    let s := { s with mems := { s.mems with deadStk := NatSet.del s.mems.deadStk (bitsOf (s.copyWord desc k) 56 3) } }
    let s := s.setCopySt desc k 2
    let pa := s.copyPa desc k (64 * cell)
    let s := match s.bestCopy desc cell with
      | some (t, data) => (s.cellWrite pa t data).1
      | none => s
    if cell = 1023 then .next ({ s.setCopySt desc k 0 with cp := { s.cp with rebuilt := Map.erase s.cp.rebuilt key } })
    else .next { s with cp := { s.cp with rebuilt := Map.insert s.cp.rebuilt key (cell + 1) } }

/-! ### Regions (R86, R89) -/

/-- The stage-2 leaf entry of a majority page. -/
def majLeaf (desc : Nat) : Word := BitVec.ofNat 64 (desc + 2 * 2 ^ 56 + 0x59)
/-- The pages of a declaration: for each, its 64 KiB IPA, its descriptor and its copies' pages. -/
def declared64 (n : Nat) (ipas frames : List Nat) : List (Nat × Nat × List Nat) :=
  ipas.zipIdx.map (fun (q : Nat × Nat) =>
    (q.1, frames.getD ((n + 1) * q.2) 0, (List.range n).map (fun k => frames.getD ((n + 1) * q.2 + 1 + k) 0)))

/-- MAJORITY_REGION_DECLARE: each page is mapped to n zeroed copies on distinct stacks through a descriptor (R86, R88). The trust root
chooses the physical pages; a declaration that names other than whole pages, or a wrong copy count, has no effect. -/
def execMajorityRegionDeclare (p va pages n : Nat) (ipas frames : List Nat) (s : State) : Host.Outcome State Fault Refusal :=
  let ps := declared64 n ipas frames
  let all := ps.flatMap (fun q => q.2.1 :: q.2.2)
  let good := (n == 3 || n == 5) && va % 65536 == 0 && ipas.length == pages && frames.length == (n + 1) * pages && (s.polder? p).isSome &&
    all.eraseDups.length == all.length &&
    ps.all (fun q => q.1 % 65536 == 0 && q.2.1 % 4096 == 0 && s.dramFree q.2.1 4096 &&
      (List.range 16).all (fun i => ((s.xlat p).s2find (q.1 + 4096 * i)).all (fun l => l.level == 4)) &&
      q.2.2.all (fun a => a % 65536 == 0 && decide (a < 2 ^ 41) && s.dramFree a 65536 && ps.all (fun r => r.2.1 / 65536 * 65536 != a)) &&
      ((q.2.2.map (fun a => a / 2 ^ 38)).eraseDups).length == n)
  if !good then .next s
  else
    let place := fun (s : State) (e : (Nat × Nat × List Nat) × Nat) =>
      let q := e.1
      let words := q.2.2.flatMap (fun a => bytesOf 8 (a + a / 2 ^ 38 * 2 ^ 56))
      let page := bytesOf 8 n ++ words ++ List.replicate (4096 - 8 - 8 * n) 0
      let dram := q.2.2.foldl (fun m a => Mem.clear m a 65536) (Mem.write s.mems.dram q.2.1 page)
      let s := { s with mems := { s.mems with dram := dram } }
      let s := q.2.2.foldl (fun s a => s.cleanAt { kind := 0, addr := a, ipa := 0 } 65536) s
      (s.modXlat p (fun x =>
        let x := (List.range 16).foldl (fun (x : Xlat) i => x.mapPage (q.1 / 4096 + i) 4 (majLeaf q.2.1)) x
        { x with majDesc := Map.insert x.majDesc (va / 65536 + e.2) q.2.1 })).invalidate2 p [2] (some (q.1 / 4096, 16)) false
    .next (ps.zipIdx.foldl place s)

/-- MAJORITY_REGION_WITHDRAW: the pages' stage-2 leaves are removed and invalidated; once that is complete, and every cell that a copy has
taken out of IDLE has reached DONE, the pages are free (R86). -/
def execMajorityRegionWithdraw (p va pages : Nat) (s : State) : Host.Outcome State Fault Refusal :=
  let keys := (List.range pages).map (fun i => va / 65536 + i)
  let descs := keys.filterMap (fun k => Map.find? (s.xlat p).majDesc k)
  if descs.isEmpty then .next s
  else
    let again := fun (s : State) => s.soon (.majorityRegionWithdraw p va pages)
    let mapped := (s.xlat p).leaves.filter (fun l => bitsOf l.entry 56 4 == 2 && descs.contains (entryAddr l.entry))
    let busy := s.cp.copy.any (fun q => q.2.cell.any (fun c => c.st != .idle && descs.contains c.desc))
    if !mapped.isEmpty then .next (again (mapped.foldl (fun s l => s.setLeaf p l 0 true) s))
    else if busy || !(s.xlat p).invals2.isEmpty then .next (again s)
    else .next (s.modXlat p (fun x => { x with majDesc := keys.foldl Map.erase x.majDesc }))

/-- What a read of `maj_state` shows (R89). -/
def State.majState (s : State) (p : Nat) : Word :=
  match s.pageKind 8 p (bitsOf (s.xlat p).majQuery 16 40 * 65536) with
  | some k =>
    if k.kind ≠ 2 ∨ !s.okDesc k.addr then 0
    else
      let n := s.copyN k.addr
      let sts := (List.range n).foldl (fun a i => a + s.copySt k.addr i * 2 ^ (2 * i + 8)) 0
      let rb := match (List.range n).find? (fun i => s.copySt k.addr i == 2) with
        | some i => Map.get s.cp.rebuilt 0 (8 * k.addr + i)
        | none => 0
      BitVec.ofNat 64 (2 ^ 63 + rb * 2 ^ 32 + sts + n)
  | none => 0

/-! ### Requests of peer packages (R93, R348) -/

/-- The polder of this package that the domain table pairs with a peer's. -/
def State.pairedWith (s : State) (pkg q : Nat) : Option Nat :=
  (Map.find? s.fab.domain pkg).bind (fun (d : Nat × Nat) =>
    (List.range 8).find? (fun p => d.2.testBit (4 * p + 3) && d.2 / 2 ^ (4 * p) % 8 == q))

/-- The first m copies of a cell to answer a peer's request, with their answers; none when too few can (R94, R96). -/
def State.peerAnswers (s : State) (desc off : Nat) : List (Nat × Word × List Byte) :=
  let m := s.majOf desc
  let sound := (s.asked desc).filter (fun k => s.counts desc k && !s.cellSick (s.copyPa desc k off))
  if sound.length < m then []
  else
    let r := (s.freeW 8).toNat % sound.length
    ((sound.drop r ++ sound.take r).take m).map (fun k => (k, s.cellTag (s.copyPa desc k off), s.cellData (s.copyPa desc k off)))
/-- Write a tag and payload to copies of a cell that are not away. -/
def State.peerWrite (s : State) (desc off : Nat) (t : Word) (data : List Byte) (ks : List Nat) : State :=
  ks.foldl (fun s k => if s.movingCopy desc k then s else (s.cellWrite (s.copyPa desc k off) t data).1) s
/-- A majority store for a peer, served at one instant: the first 8 bytes of its data carry the writer identity (R91, R94). -/
def State.peerStore (s : State) (desc off : Nat) (data : List Byte) : State :=
  match s.peerAnswers desc off with
  | [] => s
  | as =>
    let v := (as.map (fun a => a.2.1.toNat / 2 ^ 24)).foldl max 0
    if v = 2 ^ 40 - 1 then s
    else s.peerWrite desc off (BitVec.ofNat 64 ((v + 1) * 2 ^ 24 + numOf (data.take 8) % 2 ^ 24)) ((data.drop 8).take 56) (s.unfailed desc)
/-- A majority load for a peer: the greatest tag among the answers is written back to the older of them (R96). -/
def State.peerLoad (s : State) (desc off : Nat) : State :=
  let as := s.peerAnswers desc off
  let b := bestAnswer as
  s.peerWrite desc off b.1 b.2 ((as.filter (fun a => decide (a.2.1.toNat < b.1.toNat))).map (·.1))

/-- PEER_GLOBAL_REQUEST: a peer's space-3 copy is translated in the paired polder's tables and served here; a read of ordinary bytes
changes nothing. -/
def execPeerGlobalRequest (pkg q : Nat) (write : Bool) (va : Nat) (data : List Byte) (s : State) : Host.Outcome State Fault Refusal :=
  match s.pairedWith pkg q with
  | none => .next s
  | some p =>
    let put := fun (s : State) (e : Nat × Nat) =>
      match s.global 8 p e.1 .w with
      | .ok k =>
        let bs := (data.drop (e.1 - va)).take e.2
        if k.kind = 2 then
          if s.okDesc k.addr && e.1 % 64 == 0 && bs.length == 64 then (s.logDirty 8 p e.1 k).peerStore k.addr (k.ipa % 65536) bs else s
        else (s.logDirty 8 p e.1 k).putBytes k bs
      | .error _ => s
    let get := fun (s : State) (e : Nat × Nat) =>
      match s.global 8 p e.1 .r with
      | .ok k => if k.kind = 2 ∧ s.okDesc k.addr then s.peerLoad k.addr (k.ipa % 65536 / 64 * 64) else s
      | .error _ => s
    let cells := (unitsOf va (max 1 data.length) 64).map (fun u => (64 * u, 64))
    let parts := if s.majorityIn 8 p 0 va data.length true then cells else pageParts va data.length
    .next (if write then parts.foldl put s else cells.foldl get s).bump

end Sys2Proof.Machine
end

