-- ==== Sys2Proof/Machine/Registers.lean ====
section
/-! DEFINITION. The registers that a tenant's driver writes in its virtual function's BAR 0: queues (R332, R333), translation (R353),
faults (R357) and majority pages (R89). A write that breaks a register's rules is dropped and counted (R333). -/

namespace Sys2Proof.Machine

/-- A write to a function's registers is dropped and counted. -/
def State.dropWrite (s : State) (fn : Nat) : State := s.count (instFn fn) 0x0502 1

/-- A write to a register of VF vf: it is dropped when the VF has no polder, when its interface is in ERROR (R393), or when it breaks
the register's rules. -/
def State.vfWrite (s : State) (vf : Nat) (ok : Bool) (f : Nat → State → State) : Host.Outcome State Fault Refusal :=
  let live := decide (1 ≤ vf) && decide (vf ≤ 8) && (s.polder? (vf - 1)).any (fun p => p.vf.st != .error)
  if live && ok then .next (f (vf - 1) s).bump else .next (s.dropWrite vf)

/-! ### Queues (R332, R333, R337) -/

/-- The queue that a VQID names through both stages (R332). -/
def State.queueOf (s : State) (p vqid : Nat) : Option Nat :=
  let ipa := (s.xlat p).s1q + 4 * vqid
  match s.readIpa 8 p (ipa / 8 * 8) with
  | .error _ => none
  | .ok w =>
    let e := bitsOf w (if ipa % 8 = 0 then 0 else 32) 32
    if vqid < 4096 ∧ e / 2 ^ 31 = 1 ∧ e / 2 ^ 12 % 2 ^ 19 = 0 then
      (List.find? (fun (q : Nat × Queue) => q.2.polder == p && q.2.iqid == e % 4096 && q.2.st != .unassigned) s.fe.queue).map (·.1)
    else none

/-- A new producer index: one that moves backwards, or too far, halts the queue (R333). -/
def State.notify (s : State) (vf q P : Nat) : State :=
  let x := s.queue q
  if x.st = .resetting then s.dropWrite vf
  else if P < x.prod ∨ x.cons + 2 ^ x.cmdLog < P then s.haltQueue q 0
  else
    let s := s.modQueue q (fun x => { x with prod := P })
    if x.reads then (s.settleQueue q).soon (.commandRead q) else s

/-- `cmd_notify`: accepted in RUN alone (R390). -/
def execCmdNotify (vf vqid : Nat) (P : Word) (s : State) : Host.Outcome State Fault Refusal :=
  s.vfWrite vf ((s.polder? (vf - 1)).any (fun p => p.vf.st == .run)) (fun p s => match s.queueOf p vqid with
    | some q => s.notify vf q P.toNat
    | none => s.dropWrite vf)

/-- A new completion consumer index: one that moves backwards or passes the producer index is dropped. -/
def State.consumeTokens (s : State) (vf q P : Nat) : State :=
  let x := s.queue q
  if P < x.cplC ∨ x.cplP < P then s.dropWrite vf
  else ((s.modQueue q (fun x => { x with cplC := P })).soon (.tokenWrite q)).settleQueue q

/-- `cpl_consume`; a queue that is being reset takes it in ERROR too (R346) (log 102). -/
def execCplConsume (vf vqid : Nat) (P : Word) (s : State) : Host.Outcome State Fault Refusal :=
  let resetting := if 1 ≤ vf then (s.queueOf (vf - 1) vqid).filter (fun q => (s.queue q).st == .resetting) else none
  match resetting with
  | some q => .next (s.consumeTokens vf q P.toNat).bump
  | none => s.vfWrite vf true (fun p s => match s.queueOf p vqid with
    | some q => s.consumeTokens vf q P.toNat
    | none => s.dropWrite vf)

/-- What a read of `q_state` gives (R333). -/
def State.qState (s : State) (p vqid : Nat) : Word :=
  match s.queueOf p vqid with
  | some q =>
    let x := s.queue q
    let st := match x.st with
      | .unassigned => 0 | .ready => 1 | .active => 2 | .blocked => 3 | .halted => 4 | .resetting => 5
    BitVec.ofNat 64 (st + x.cause * 256)
  | none => 0

/-- What a read of a queue register at an offset of a VF's BAR 0 gives: zero for the two that are written, and `q_state`. A read changes
nothing. -/
def State.readQueueReg (s : State) (p off : Nat) : Word :=
  if 0x28000 ≤ off ∧ off < 0x30000 then s.qState p ((off - 0x28000) / 8) else 0

/-! ### Translation (R353) -/

/-- Invalidate all of a polder's stage 1. -/
def State.invalidateAll (s : State) (p : Nat) : State := s.invalidate p [1, 3] none false

/-- `s1_root`: a reserved bit drops the write. -/
def execS1Root (vf : Nat) (x : Word) (s : State) : Host.Outcome State Fault Refusal :=
  s.vfWrite vf (bitsOf x 56 8 == 0 && bitsOf x 1 11 == 0) (fun p s =>
    (s.modXlat p (fun t => { t with s1Root := x })).invalidateAll p)
/-- `dws_root`. -/
def execDwsRoot (vf : Nat) (x : Word) (s : State) : Host.Outcome State Fault Refusal :=
  s.vfWrite vf (bitsOf x 56 8 == 0 && bitsOf x 0 12 == 0) (fun p s =>
    (s.modXlat p (fun t => { t with dwsRoot := x })).invalidateAll p)
/-- `dws_len`: 0 to 2^24. -/
def execDwsLen (vf : Nat) (x : Word) (s : State) : Host.Outcome State Fault Refusal :=
  s.vfWrite vf (decide (x.toNat ≤ 2 ^ 24)) (fun p s =>
    (s.modXlat p (fun t => { t with dwsLen := x.toNat })).invalidateAll p)

/-- The operation of an `inv_cmd` write with no reserved bit set. -/
def invOk (x : Word) (op : Nat) : Bool := bitsOf x 0 4 == op && bitsOf x 8 4 == 0
/-- The first page and the number of pages of a range, aligned down. -/
def invRange (x : Word) (page : Nat) : Nat × Nat :=
  let n := 2 ^ bitsOf x 4 4
  (bitsOf x 12 52 * 4096 / page / n * n, n)

/-- `inv_cmd`, a global range. -/
def execInvGlobalRange (vf : Nat) (x : Word) (s : State) : Host.Outcome State Fault Refusal :=
  s.vfWrite vf (invOk x 0) (fun p s => s.invalidate p [1] (some (invRange x 4096)) false)
/-- `inv_cmd`, a DWS range. -/
def execInvDwsRange (vf : Nat) (x : Word) (s : State) : Host.Outcome State Fault Refusal :=
  s.vfWrite vf (invOk x 1) (fun p s => s.invalidate p [3] (some (invRange x 65536)) false)
/-- `inv_cmd`, all of stage 1. -/
def execInvAllStage1 (vf : Nat) (x : Word) (s : State) : Host.Outcome State Fault Refusal :=
  s.vfWrite vf (invOk x 2) (fun p s => s.invalidateAll p)
/-- `inv_cmd`, the stage-1 queue table. -/
def execInvQueueTable (vf : Nat) (x : Word) (s : State) : Host.Outcome State Fault Refusal :=
  s.vfWrite vf (invOk x 3) (fun p s => s.invalidate p [] none true)

/-! ### Faults and majority pages (R357, R89) -/

/-- `fault_ring`: 16 to 4,096 entries, or disabled. -/
def execFaultRing (vf : Nat) (x : Word) (s : State) : Host.Outcome State Fault Refusal :=
  let n := bitsOf x 0 4
  s.vfWrite vf (bitsOf x 56 8 == 0 && bitsOf x 4 8 == 0 && (n == 0 || (decide (4 ≤ n) && decide (n ≤ 12)))) (fun p s =>
    s.modXlat p (fun t => { t with fring := x }))
/-- `fault_resume`: the fault is retried or fails. -/
def execFaultResume (vf : Nat) (x : Word) (s : State) : Host.Outcome State Fault Refusal :=
  s.vfWrite vf (decide (bitsOf x 0 8 ≤ 1)) (fun p s => s.answerFault p (bitsOf x 8 56) (bitsOf x 0 8 == 0))
/-- `maj_query`. -/
def execMajQuery (vf : Nat) (x : Word) (s : State) : Host.Outcome State Fault Refusal :=
  s.vfWrite vf (bitsOf x 56 8 == 0 && bitsOf x 0 16 == 0) (fun p s => s.modXlat p (fun t => { t with majQuery := x }))

/-- A write of another size or alignment, to a read-only register or to none: dropped and counted (R333, R353, R435). -/
def execRegisterWriteOther (fn : Nat) (s : State) : Host.Outcome State Fault Refusal := .next (s.dropWrite fn)

end Sys2Proof.Machine
end

