-- ==== Sys2Proof/Machine/Telemetry.lean ====
section
/-! DEFINITION. Counters and their totals (R432 to R435), pennants (R436, R437) and the halyard stream (R438 to R440). -/

namespace Sys2Proof.Machine

/-! ### Registers of a function -/

/-- A write to a register of a function's BAR 0: function 0 is the PF, and a VF takes it under its own rules (R435). -/
def State.fnWrite (s : State) (fn : Nat) (ok : Bool) (f : State → State) : Host.Outcome State Fault Refusal :=
  if fn = 0 then .next (if ok then f s else s.dropWrite 0) else s.vfWrite fn ok (fun _ s => f s)

/-- Bytes at a VA of a function: a VF's in its polder's global memory, the PF's in host memory (log 17). -/
def State.fnGet (s : State) (fn va n : Nat) : Option (List Byte) :=
  if fn = 0 then some (Mem.read s.mems.host va n) else s.getGlobal (fn - 1) va n
/-- Write bytes at a VA of a function. -/
def State.fnPut (s : State) (fn va : Nat) (bs : List Byte) : Option State :=
  if fn = 0 then some { s with mems := { s.mems with host := Mem.write s.mems.host va bs } } else s.putGlobal (fn - 1) va bs

/-! ### Totals (R434, R435) -/

/-- The CDs whose units count for a function: a polder's own, and all of them for the PF. -/
def State.fnCds (s : State) (fn : Nat) : List Nat := if fn = 0 then List.range 8 else ((s.polder? (fn - 1)).map (·.cds)).getD []

/-- The counter instances of some CDs for a group of the core and CD units. -/
def unitInsts (cds : List Nat) (n : Nat) : List Nat :=
  match n with
  | 3 => cds.flatMap (fun cd => (List.range 16).map (instEngine cd))
  | 6 => cds.map instCd
  | _ => cds.flatMap (fun cd => (List.range 128).map (128 * cd + ·))

/-- The counter instances that a group of a function's area covers: for a VF the granted groups. -/
def State.areaInsts (s : State) (fn n : Nat) : List Nat :=
  let granted := fn == 0 || (s.polder? (fn - 1)).any (fun p => p.ctrGrant.getLsbD n)
  if !granted then []
  else match n with
    | 0 | 1 | 2 => unitInsts (s.fnCds fn) n ++ (if fn = 0 then (List.range 4).map (1024 + ·) else [])
    | 3 | 6 => unitInsts (s.fnCds fn) n
    | 7 => if fn = 0 then [instDev] else []
    | _ => if fn = 0 then (List.range 9).map instFn else [instFn fn]

/-- The key of an instance's last swept value. -/
def sweptKey (fn inst sel : Nat) : Nat := fn * 2 ^ 32 + inst * 65536 + sel

/-- Add what some instances of a counter have counted since their last sweep to the total in a function's area. -/
def State.sweepSel (s : State) (fn base sel : Nat) (insts : List Nat) : State :=
  let now := fun (k : Nat) => Map.get s.tele.counters 0 (k * 65536 + sel)
  let n := (insts.map (fun k => (now k - Map.get s.tele.swept 0 (sweptKey fn k sel)).toNat)).sum
  if n = 0 then s
  else
    let a := base + 4096 + 8 * sel
    match s.fnGet fn a 8 with
    | none => s
    | some bs =>
      match s.fnPut fn a (bytesOf 8 ((numOf bs + n) % 2 ^ 64)) with
      | none => s
      | some s =>
        { s with tele := { s.tele with swept := insts.foldl (fun (m : Map (BitVec 32)) k => Map.put m 0 (sweptKey fn k sel) (now k)) s.tele.swept } }

/-- The events of a group. -/
def selsOf (n : Nat) : List Nat := (List.range (groupEvents n)).map (256 * n + ·)

/-- Sweep the instances that a choice of them gives for each group. -/
def State.sweep (s : State) (fn : Nat) (insts : State → Nat → List Nat) : State :=
  let x := Map.get s.tele.ctrBase 0 fn
  if bitsOf x 0 1 = 0 then s
  else (List.range 10).foldl (fun s n => (selsOf n).foldl (fun s sel => s.sweepSel fn (bitsOf x 12 44 * 4096) sel (insts s n)) s) s

/-- COUNTER_SWEEP: every counter of a function's area is added to its total, then the sequence is raised (R435). -/
def execCounterSweep (fn : Nat) (s : State) : Host.Outcome State Fault Refusal :=
  let x := Map.get s.tele.ctrBase 0 fn
  if bitsOf x 0 1 = 0 then .next s
  else
    let base := bitsOf x 12 44 * 4096
    let s := s.sweep fn (fun s n => s.areaInsts fn n)
    let s := match s.fnGet fn base 8 with
      | some bs => (s.fnPut fn base (bytesOf 8 ((numOf bs + 1) % 2 ^ 64))).getD s
      | none => s
    .next (s.atNs (s.ag.clock + 1 + (s.freeW 8).toNat % 99999999) (.counterSweep fn)).bump

/-- A world switch of some CDs (R434): their counters are swept into the old owner's totals and zeroed. -/
def State.worldSwitch (s : State) (old : Option Nat) (cds : List Nat) : State :=
  let s := match old with
    | some p => s.sweep (p + 1) (fun s n =>
        if n ≤ 3 ∨ n = 6 then (if (s.areaInsts (p + 1) n).isEmpty then [] else unitInsts cds n) else [])
    | none => s
  let all := [0, 1, 2, 3, 6].flatMap (fun n => (selsOf n).flatMap (fun sel => (unitInsts cds n).map (fun k => (k, sel))))
  let out := fun (m : Map (BitVec 32)) => m.filter (fun (e : Nat × BitVec 32) => !all.any (fun (q : Nat × Nat) => e.1 % 2 ^ 32 == q.1 * 65536 + q.2))
  { s with tele := { s.tele with counters := out s.tele.counters, swept := out s.tele.swept } }

/-- `ctr_base` (R435). -/
def execCtrBase (fn : Nat) (x : Word) (s : State) : Host.Outcome State Fault Refusal :=
  s.fnWrite fn (bitsOf x 56 8 == 0 && bitsOf x 1 11 == 0) (fun s =>
    let s := { s with tele := { s.tele with ctrBase := Map.put s.tele.ctrBase 0 fn x } }
    if bitsOf x 0 1 = 1 ∧ !s.ag.atClock.any (fun e => e.2 == .counterSweep fn) then
      s.atNs (s.ag.clock + 1 + (s.freeW 8).toNat % 99999999) (.counterSweep fn) else s)

/-! ### Pennants (R436, R437) -/

/-- `pennant_ctl`. -/
def execPennantCtl (vf : Nat) (x : Word) (s : State) : Host.Outcome State Fault Refusal :=
  s.vfWrite vf (bitsOf x 5 59 == 0) (fun _ s => { s with tele := { s.tele with pennCtl := Map.put s.tele.pennCtl 0 vf x } })

/-- A pennant record's words but the last, which the halyard writes. The stages' latencies, the stall reason, the fetch source and the
level are free values within their fields; the last two stages are 0 when every lane trapped. -/
def State.pennWords (s : State) (q : Penn) : List Word :=
  let f := fun (k : Nat) => (s.freeW (2 ^ 28 + k)).toNat % 4096
  let all := decide (q.trapM = q.lanes)
  let part := q.part % 4
  let core := q.part / 4
  let level := if all then 0 else if q.mem then (s.freeW (2 ^ 28 + 8)).toNat % 6 else (s.freeW (2 ^ 28 + 8)).toNat % 2
  [BitVec.ofNat 64 (1 + core / 32 * 2 ^ 8 + core % 32 * 2 ^ 16 + (q.fn - 1) * 2 ^ 24), BitVec.ofNat 64 q.clock, q.pc,
   BitVec.ofNat 64 (q.lid.toNat + q.blkId.toNat * 2 ^ 32),
   BitVec.ofNat 64 (q.lanes.toNat + q.gid * 2 ^ 32 + q.opc * 2 ^ 40 + part * 2 ^ 48),
   BitVec.ofNat 64 (f 0 + f 1 * 2 ^ 12 + f 2 * 2 ^ 24 + (if all then 0 else f 3 * 2 ^ 36 + f 4 * 2 ^ 48)),
   BitVec.ofNat 64 (level + (s.freeW (2 ^ 28 + 6)).toNat % 3 * 2 ^ 4 + (s.freeW (2 ^ 28 + 7)).toNat % 9 * 2 ^ 8)]

/-- The trace mode of a function's polder: 1 stall, 2 drop (R384). -/
def State.traceMode (s : State) (fn : Nat) : Nat := ((s.polder? (fn - 1)).map (·.policy.trace)).getD 0
/-- A record of a function from a CD is discarded and counted. -/
def State.loseRecord (s : State) (fn cd : Nat) : State :=
  let k := 16 * fn + cd
  ({ s with tele := { s.tele with lost := Map.put s.tele.lost 0 k (Map.get s.tele.lost 0 k + 1) } } : State).count (instFn fn) 0x0901 1

/-- Staged records of a core pass into its CD's buffer of 4,096; when that is full, they stay, or in drop mode are lost. -/
def State.unstage (s : State) (core : Nat) : State :=
  let cd := core / 32
  let go := (s.core core).staged.foldl (fun (a : List PRec × State) r =>
    let s := a.2
    let buf := Map.get s.tele.cdBuf [] cd
    if buf.length < 4096 then (a.1, { s with tele := { s.tele with cdBuf := Map.insert s.tele.cdBuf cd (buf ++ [r]) } })
    else if s.traceMode r.fn = 2 then (a.1, s.loseRecord r.fn cd)
    else (a.1 ++ [r], s)) ([], s)
  go.2.modCore core (fun c => { c with staged := go.1 })

/-- PENNANT_RECORD: the tagged instruction has finished, and its record enters the core's staging buffer of 32; a partition that finds
it full holds its record, or in drop mode discards it (R437, R439). -/
def execPennantRecord (part : Nat) (s : State) : Host.Outcome State Fault Refusal :=
  match s.tele.penns.find? (fun q => q.part == part) with
  | none => .next (s.setPart part { s.part part with tagged := false })
  | some q =>
    let core := part / 4
    let s := if 32 ≤ (s.core core).staged.length then s.unstage core else s
    let full := decide (32 ≤ (s.core core).staged.length)
    if full && s.traceMode q.fn != 2 then .next (s.soon (.pennantRecord part))
    else
      let s := s.setPart part { s.part part with tagged := false }
      let s := { s with tele := { s.tele with penns := s.tele.penns.erase q } }
      if full then .next (s.loseRecord q.fn (core / 32))
      else
        let r : PRec := { fn := q.fn, words := s.pennWords q }
        .next ((s.modCore core (fun c => { c with staged := c.staged ++ [r] })).soon (.halyardRecordWrite (core / 32))).bump

/-! ### The halyard (R438 to R440) -/

/-- A LOSS record: a CD's polder lost n records for a cause (R439, R440). -/
def lossRecord (fn cd clock n cause : Nat) : PRec :=
  { fn := fn, words := [BitVec.ofNat 64 (2 + cd * 2 ^ 8 + (fn - 1) * 2 ^ 24), BitVec.ofNat 64 clock, BitVec.ofNat 64 n, BitVec.ofNat 64 cause, 0, 0, 0] }

/-- A function's trace ring has a free slot. -/
def State.ringRoom (s : State) (fn : Nat) : Bool :=
  let r := bitsOf (Map.get s.tele.trBase 0 fn) 0 4
  decide (10 ≤ r) && decide (Map.get s.tele.trWr 0 fn - Map.get s.tele.trRd 0 fn < 2 ^ r)

/-- Write a record to the ring of its function, encrypted for a VF under the tenant key with the index as tweak. -/
def State.writeRecord (s : State) (r : PRec) : Option State :=
  let x := Map.get s.tele.trBase 0 r.fn
  let i := Map.get s.tele.trWr 0 r.fn
  let clear := (r.words ++ [BitVec.ofNat 64 i]).flatMap (fun w => bytesOf 8 w.toNat)
  let bs := if r.fn = 0 then clear else Config.xts (((s.polder? (r.fn - 1)).map (·.keyId)).getD 0) i clear
  let a := bitsOf x 12 44 * 4096 + 64 * (i % 2 ^ bitsOf x 0 4)
  (s.fnPut r.fn a bs).map (fun s =>
    ({ s with tele := { s.tele with trWr := Map.put s.tele.trWr 0 r.fn (i + 1) } } : State).count (instFn r.fn) 0x0900 1)

/-- HALYARD_RECORD_WRITE: staged records move up, and the first record of a CD's buffer whose ring has room is written, after a LOSS
record for those that its polder lost (R438, R439). -/
def execHalyardRecordWrite (cd : Nat) (s : State) : Host.Outcome State Fault Refusal :=
  let s := (List.range 32).foldl (fun s u => s.unstage (32 * cd + u)) s
  let buf := Map.get s.tele.cdBuf [] cd
  match buf.find? (fun r => s.ringRoom r.fn) with
  | none => .next s
  | some r =>
    let k := 16 * r.fn + cd
    let lost := Map.get s.tele.lost 0 k
    match s.writeRecord (if lost = 0 then r else lossRecord r.fn cd s.ag.clock lost 0) with
    | none => .next s
    | some s =>
      let s := if lost = 0 then { s with tele := { s.tele with cdBuf := Map.insert s.tele.cdBuf cd (buf.erase r) } }
        else { s with tele := { s.tele with lost := Map.erase s.tele.lost k } }
      .next (s.soon (.halyardRecordWrite cd))

/-- `trace_base`: 2^10 to 2^15 slots (R438). -/
def execTraceBase (fn : Nat) (x : Word) (s : State) : Host.Outcome State Fault Refusal :=
  s.fnWrite fn (bitsOf x 56 8 == 0 && bitsOf x 4 8 == 0 && decide (10 ≤ bitsOf x 0 4)) (fun s =>
    let s := { s with tele := { s.tele with trBase := Map.insert s.tele.trBase fn x } }
    (s.fnCds fn).foldl (fun s cd => s.soon (.halyardRecordWrite cd)) s)
/-- `trace_rd`: it frees the slots below an index that neither moves backwards nor passes the last one written. -/
def execTraceRd (fn : Nat) (x : Word) (s : State) : Host.Outcome State Fault Refusal :=
  s.fnWrite fn (decide (Map.get s.tele.trRd 0 fn ≤ x.toNat) && decide (x.toNat ≤ Map.get s.tele.trWr 0 fn)) (fun s =>
    let s := { s with tele := { s.tele with trRd := Map.put s.tele.trRd 0 fn x.toNat } }
    (s.fnCds fn).foldl (fun s cd => s.soon (.halyardRecordWrite cd)) s)

/-- CORE_POWER_GATE: the four cores of a cluster without blocks are gated; what is still staged is discarded and reported by a LOSS
record of cause 1 (R440). -/
def execCorePowerGate (cd cluster : Nat) (s : State) : Host.Outcome State Fault Refusal :=
  let cores := (List.range 4).map (fun i => 32 * cd + 4 * cluster + i)
  if decide (8 ≤ cd) || decide (8 ≤ cluster) || cores.any (fun c => !(s.heldBlocks c).isEmpty || (s.core c).draining || (s.core c).scanning) then .next s
  else
    let s := cores.foldl State.unstage s
    let n := (cores.map (fun c => (s.core c).staged.length)).sum
    let s := cores.foldl (fun s c => s.modCore c (fun x => { x with staged := [], gated := true })) s
    match List.find? (fun (q : Nat × Polder) => q.2.cds.contains cd) s.trust.polder with
    | some q =>
      if n = 0 then .next s
      else
        let r := lossRecord (q.1 + 1) cd s.ag.clock n 1
        let s := { s with tele := { s.tele with cdBuf := Map.insert s.tele.cdBuf cd (Map.get s.tele.cdBuf [] cd ++ [r]) } }
        .next ((s.count (instFn (q.1 + 1)) 0x0901 n).soon (.halyardRecordWrite cd))
    | none => .next s

end Sys2Proof.Machine
end

