-- ==== Sys2Proof/Machine/Commands.lean ====
section
/-! DEFINITION. Host commands that the trust root checks (R384 to R388, R417, R418): polders and their policies, queues (R331, R337),
resets (R346), PAUSE and RESUME (R442), the debugger's commands (R365, R379) and grants. -/

namespace Sys2Proof.Machine

/-! ### How a command ends (R386) -/

/-- How a host command completes. -/
inductive HostStatus where
  | ok | refused | noSpace | inUse
  deriving DecidableEq, Repr

/-- The code of a status in a response (log 18). -/
def HostStatus.code : HostStatus → Nat
  | .ok => 0 | .refused => 1 | .noSpace => 2 | .inUse => 3

/-- An answer on a function's response mailbox or DOE mailbox. -/
def State.respond (s : State) (fn : Nat) (bs : List Byte) : State :=
  { s with trust := { s.trust with responses := (fn, bs) :: s.trust.responses } }

/-- A command ends: its status and a value go to the physical function's response mailbox, and it is counted. -/
def State.finishCmd (s : State) (st : HostStatus) (v : Nat) : State :=
  (s.count (instFn 0) (if st = .ok then 0x0800 else 0x0801) 1).respond 0 (bytesOf 4 st.code ++ bytesOf 4 v)

/-- The device takes host commands: bring-up has reached its last step, and no fatal error has stopped the arbiter (R412, R431). -/
def State.open_ (s : State) : Bool := s.ctl.ready && !s.ctl.arbDead

/-- A host command: granted, it has its effect; refused, it has none but its count. -/
def State.command (s : State) (granted : Bool) (f : State → State) : Host.Outcome State Fault Refusal :=
  if !s.open_ then .next s
  else .next (if granted then (f s).finishCmd .ok 0 else s.finishCmd .refused 0).bump

/-- A polder's policy grants a host command (R386). -/
def State.grants (s : State) (p k : Nat) : Bool := (s.polder? p).any (fun x => x.policy.grants.getLsbD k)

/-! ### Policy documents (R384, R385) -/

/-- The policy that a document holds. -/
def policyOf (doc : List Byte) : Policy :=
  let f := fun (o n : Nat) => descField doc o n
  { version := f 8 8, cdCount := f 0x10 1, seizeBy := BitVec.ofNat 4 (f 0x11 1), grants := BitVec.ofNat 16 (f 0x12 2),
    holdMax := BitVec.ofNat 16 (f 0x14 2), dbgBits := BitVec.ofNat 8 (f 0x16 1),
    dests := (List.range (f 0x17 1)).map (fun i => BitVec.ofNat 256 (f (0x40 + 32 * i) 32)), ctrGrp := BitVec.ofNat 64 (f 0x18 8),
    trace := f 0x20 1, flags := BitVec.ofNat 8 (f 0x21 1), minSvn := f 0x22 2, pk := imageAt doc 0x140 1793, digest := Config.shake256 doc }

/-- Every field of a document lies within its limits. -/
def okFields (doc : List Byte) : Bool :=
  let f := fun (o n : Nat) => descField doc o n
  let sig := f 0x841 2
  f 0 2 == 0x4C50 && f 2 2 == 1 && f 4 4 == 0x843 + sig && doc.length == 0x843 + sig && [1, 2, 4, 8].contains (f 0x10 1) &&
  decide (f 0x11 1 < 16) && decide (f 0x12 2 < 128) && decide (f 0x16 1 < 16) && decide (f 0x17 1 ≤ 8) && decide (f 0x20 1 ≤ 2) &&
  decide (f 0x21 1 < 2) && f 0x24 28 == 0 && f (0x40 + 32 * f 0x17 1) (32 * (8 - f 0x17 1)) == 0 && decide (1 ≤ sig) && decide (sig ≤ 1462)

/-- The security version of the running firmware. -/
def State.svn (s : State) : Nat := Config.fwSvn (Map.get s.ctl.fw [] s.ctl.active)

/-- The checks of R385 that need no polder. -/
def State.okPolicy (s : State) (doc : List Byte) : Bool :=
  okFields doc && Config.falconVerify (imageAt doc 0x140 1793) (doc.take 0x841) (doc.drop 0x843) && decide ((policyOf doc).minSvn ≤ s.svn)

/-! ### CREATE (R385, R388, R417) -/

/-- The lowest free polder number. -/
def State.freePolder (s : State) : Option Nat := (List.range 8).find? (fun p => (s.polder? p).isNone)
/-- No polder holds a CD. -/
def State.cdFree (s : State) (cd : Nat) : Bool := !s.trust.polder.any (fun q => q.2.cds.contains cd)
/-- The lowest free aligned set of n CDs. -/
def State.freeSet (s : State) (n : Nat) : Option (List Nat) :=
  (((List.range (8 / n)).map (fun i => (List.range n).map (fun j => n * i + j))).find? (fun cds => cds.all s.cdFree))

/-- The stage-2 tables that the trust root gives a new polder: of frames on its CDs that no polder holds (R350, R351, R419; log 15). -/
def State.newXlat (s : State) (h : Nat) (cds : List Nat) : Xlat :=
  let leaf := fun (q : Nat × Nat × Word) =>
    let a := entryAddr q.2.2
    okS2 q.2.2 && decide (2 ≤ q.2.1) && decide (q.2.1 ≤ 4) && q.1 % levelPages q.2.1 == 0 && a % levelSize q.2.1 == 0 && (bitsOf q.2.2 56 4 == 1 || (bitsOf q.2.2 56 4 == 0 && cds.contains (a / 2 ^ 38) && !s.dramTaken a (levelSize q.2.1)))
  let frame := fun (q : Nat × Word) => okDws2 q.2 && cds.contains (bitsOf q.2 57 3) && bitsOf q.2 56 1 == 0
  let t := ((Config.stage2 h).filter leaf).foldl (fun (t : Xlat) q => t.mapPage q.1 q.2.1 (q.2.2 ||| 0x40)) Xlat.fresh
  let dws := ((Config.stage2Dws h).filter frame).foldl (fun (m : Map Word) q => Map.insert m q.1 q.2) []
  { t with s2dws := dws, s1q := Config.queueTable h,
           window := ((Config.window h).filter (fun f => (Map.find? dws f).isSome)).foldl NatSet.add [] }

/-- The generator state that a write of 0 stores (R429). -/
def injSeed0 : Word := 0x9E3779B97F4A7C15

/-- A new polder. -/
def State.newPolder (s : State) (p : Nat) (doc : List Byte) (test : Bool) (cds : List Nat) : State :=
  let h := s.trust.nextHnd
  let x : Polder :=
    { handle := BitVec.ofNat 32 h, saveArea := h + 1, cds := cds, policy := policyOf doc, test := test, keyId := s.trust.keyDraws + 1, paused := false,
      seized := false, suspended := false, attach := none, ctrGrant := 0, trace := false, sealSeq := 0, injSeed := injSeed0, injRate := 0,
      injCtl := 0, injCount := 0, vf := Vf.fresh }
  let t := s.newXlat h cds
  let s := s.worldSwitch none cds
  { s with trust := { s.trust with polder := Map.insert s.trust.polder p x, nextHnd := h + 2, keyDraws := s.trust.keyDraws + 1 },
           tr := { s.tr with polder := Map.insert s.tr.polder p t } }

/-- Every polder's policy of the document's tenant key has a lower version than the document (R384, R385) (log 153). -/
def State.newer (s : State) (doc : List Byte) : Bool :=
  s.trust.polder.all (fun q => q.2.policy.pk != (policyOf doc).pk || decide (q.2.policy.version < (policyOf doc).version))

/-- CREATE: the policy is checked, and the polder takes the lowest free number and aligned set of CDs, or there is no space. -/
def execCreate (doc : List Byte) (size : Nat) (test : Bool) (s : State) : Host.Outcome State Fault Refusal :=
  let x := policyOf doc
  if !s.open_ then .next s
  else if !s.okPolicy doc || !s.newer doc || x.cdCount != size || (test && !x.flags.getLsbD 0) then .next (s.finishCmd .refused 0)
  else match s.freePolder, s.freeSet size with
    | some p, some cds => .next ((s.newPolder p doc test cds).finishCmd .ok s.trust.nextHnd)
    | _, _ => .next (s.finishCmd .noSpace 0)

/-! ### Removing what a polder runs -/

/-- The launches of a polder. -/
def State.launchesOf (s : State) (p : Nat) : List Nat := (s.work.launches.filter (fun l => l.2.polder == p)).map (·.1)
/-- The queues of a polder. -/
def State.queuesOf (s : State) (p : Nat) : List Nat := (s.fe.queue.filter (fun q => q.2.polder == p && q.2.st != .unassigned)).map (·.1)

/-- The copies of a polder that a reset discards: a REDUCE in flight (R379), and every started one when its copies are suspended. -/
def State.discarded (s : State) (p : Nat) : List Nat :=
  let off := (s.polder? p).any (fun x => x.suspended)
  (s.cp.copy.filter (fun q => s.copyPolder q.2 == p && q.2.started && !q.2.complete && q.2.susp != 9 && (off || q.2.kind == 6))).map (·.1)

/-- A reset stops a copy: at once, or, while it has a majority cell out of IDLE, when that cell is done (R100). -/
def State.stopCopy (s : State) (ck : Nat) : State :=
  if (Map.find? s.cp.copy ck).any (fun c => c.cell.any (fun e => e.st != .idle)) then s.modCopy ck (fun c => { c with doomed := true })
  else s.discardCopy ck

/-! ### Resets (R337, R346) -/

/-- The command of an index as a reset finds it: for its token's cookie. -/
def State.resetToken (s : State) (q idx : Nat) (words : Option (List Word)) : Token :=
  let cookie := match words with
    | some ws => if bitsOf (ws.headD 0) 0 8 = 2 then 0 else ws.getD 2 0
    | none => s.freeW (2 ^ 29 + 4096 * (idx % 65536) + q)
  { kind := 0, status := 7, detail := 0, prov := false, cmd := idx, cookie := cookie, launch := 0 }

/-- The commands that a queue has been notified of and has not read, with their words. -/
def State.unread (s : State) (q : Nat) : List (Nat × Option (List Word)) :=
  let x := s.queue q
  (List.range (x.prod - x.cons)).map (fun i =>
    let a := x.cmdBase.toNat + 128 * ((x.cons + i) % 2 ^ x.cmdLog)
    (x.base + x.cons + i, (s.getGlobal x.polder a 128).map (fun bs => (List.range 16).map (fun k => wordOf ((bs.drop (8 * k)).take 8)))))

/-- A queue enters RESETTING: its launches end, and every pending command receives a RESET token. -/
def State.resetQueue (s : State) (release : Bool) (q : Nat) : State :=
  let x := s.queue q
  let wait := if x.waiting.isSome then [{ s.resetToken q (x.taken - 1) none with cookie := 0 }] else []
  let ts := wait ++ x.store.map (fun c => s.resetToken q c.idx (some c.words)) ++ (s.unread q).map (fun e => s.resetToken q e.1 e.2)
  let s := s.modQueue q (fun x =>
    { x with st := .resetting, waiting := none, store := [], cons := max x.prod x.cons, tokens := x.tokens ++ ts, free := release })
  let ls := (s.work.launches.filter (fun l => l.2.queue == q && !l.2.done)).map (·.1)
  let s := ls.foldl (fun s l => s.endLaunch l 7 0) s
  (s.soon (.tokenWrite q)).settleQueue q

/-- A VF reset (R346). -/
def State.resetPolder (s : State) (p : Nat) : State :=
  let s := (s.discarded p).foldl State.stopCopy s
  let s := (s.queuesOf p).foldl (fun s q => s.resetQueue (s.queue q).free q) s
  ((s.launchesOf p).flatMap s.blocksOf).foldl State.retireBlock s

/-- A notice of the trust root to the firmware (R394, R398). -/
def State.errorNotice (s : State) (fn off : Nat) (cap : Bool) : State :=
  s.post (s.activeCore 0) 1
    { seq := 0, fn := 0, length := 16, words := [BitVec.ofNat 64 (0x80 + fn * 2 ^ 8 + 3 * 2 ^ 16), BitVec.ofNat 64 (off % 4096 + cap.toNat * 4096)] }

/-- Discard a VF's stream and session keys (R393). -/
def Vf.dropKeys (v : Vf) : Vf := { v with keyed := false, sess := { Session.none_ with epoch := v.sess.epoch + 1 } }

/-- A locked or running interface enters ERROR (R393). -/
def State.enterError (s : State) (p off : Nat) (cap : Bool) : State :=
  (s.modPolder p (fun x => { x with suspended := true, vf := { x.vf.dropKeys with st := .error } })).errorNotice (p + 1) off cap

/-- The interface of a polder is locked or running. -/
def State.frozen (s : State) (p : Nat) : Bool := (s.polder? p).any (fun x => x.vf.st == .locked || x.vf.st == .run)

/-- A VF is reset; a locked or running interface enters ERROR first (R390). -/
def State.resetVf (s : State) (p : Nat) : State := (if s.frozen p then s.enterError p 0 false else s).resetPolder p
/-- VF reset, always granted; a function-level reset comes over the link and is no command, so that nothing answers it (R390). -/
def execVfReset (r : VfReset) (s : State) : Host.Outcome State Fault Refusal :=
  match r with
  | .command p => s.command (s.polder? p).isSome (fun s => s.resetVf p)
  | .functionLevel p => .next (if (s.polder? p).isSome then (s.resetVf p).bump else s)

/-! ### TEARDOWN (R388) -/

/-- The ranges of device memory that a polder's tables map. -/
def State.frames (s : State) (p : Nat) : List (Place × Nat) :=
  let x := s.xlat p
  let leaf := fun (l : S2Leaf) =>
    let a := bitsOf l.entry 12 44 * 4096
    match bitsOf l.entry 56 4 with
    | 0 => [(({ kind := 0, addr := a, ipa := 0 } : Place), levelSize l.level)]
    | 2 => (({ kind := 0, addr := a, ipa := 0 } : Place), 4096) ::
        (List.range (s.copyN a)).map (fun k => ({ kind := 0, addr := s.copyPa a k 0, ipa := 0 }, 65536))
    | _ => []
  let dws := fun (e : Word) =>
    ({ kind := 0, addr := dwsBack e, ipa := 0 }, 65536) ::
      (if bitsOf e 56 1 = 1 then [(({ kind := 3, addr := dwsPa e, ipa := 0 } : Place), 65536)] else [])
  x.leaves.flatMap leaf ++ x.s2dws.flatMap (fun q => dws q.2)

/-- Remove all work of a polder. -/
def State.purgeWork (s : State) (p : Nat) : State :=
  let ls := s.launchesOf p
  let mineB := fun (b : Nat) => ls.contains (s.block b).launch
  let gone := fun (g : Nat) => mineB (s.group g).blk && decide ((s.group g).blk ≠ 0)
  let copies := (s.cp.copy.filter (fun q => mineB q.2.blk)).map (·.1)
  let cores := ((s.work.blocks.filter (fun q => ls.contains q.2.launch)).map (fun q => q.2.core)).eraseDups
  let held := (s.ctl.queries.filter (fun q => gone q.grp)).flatMap (·.held)
  let s := copies.foldl State.discardCopy s
  let s := { s with
    work := { s.work with groups := s.work.groups.filter (fun q => !gone q.1), blocks := s.work.blocks.filter (fun q => !ls.contains q.2.launch),
                          clusters := s.work.clusters.filter (fun q => !ls.contains q.2.launch),
                          launches := s.work.launches.filter (fun q => q.2.polder != p), spawns := s.work.spawns.filter (fun q => !mineB q.2.blk) }
    cores := { s.cores with rings := s.cores.rings.filter (fun q => !mineB q.2.blk), convs := s.cores.convs.filter (fun q => !mineB q.2.blk),
                            matOps := s.cores.matOps.filter (fun q => !q.2.members.any gone),
                            moves := s.cores.moves.filter (fun m => !(if m.shared then mineB m.key else gone m.key)) }
    mems := { s.mems with det := s.mems.det.filter (fun d => match d.who with
      | .lane g _ => !gone g
      | .copy _ => true) }
    fe := { s.fe with pend := s.fe.pend.filter (fun c => !ls.contains (s.cluster c).launch),
                      pendBlk := s.fe.pendBlk.filter (fun b => !mineB b), cdFor := s.fe.cdFor.filter (fun q => !ls.contains (s.cluster q.1).launch),
                      nextLid := Map.erase s.fe.nextLid p, rr := s.fe.rr.filter (fun q => q.1 / 4 != p),
                      failed := s.fe.failed.filter (fun q => (s.queue (q.1 % 4096)).polder != p),
                      queue := s.fe.queue.filter (fun q => q.2.polder != p) }
    ctl := { s.ctl with queries := s.ctl.queries.filter (fun q => !gone q.grp) } }
  let s := s.holdCores held false
  cores.foldl State.drainSeen s

/-- Remove what the shared units hold of a polder. -/
def State.purgeUnits (s : State) (p : Nat) : State :=
  let fn := p + 1
  let cds := s.fnCds fn
  { s with
    tr := { s.tr with polder := Map.erase s.tr.polder p, walks := s.tr.walks.filter (fun q => q.2.polder != p),
                      tlb := s.tr.tlb.map (fun (q : Nat × List Cached) => (q.1, q.2.filter (fun c => c.polder != p))),
                      tables := s.tr.tables.map (fun (q : Nat × List Cached) => (q.1, q.2.filter (fun c => c.polder != p))),
                      faults := s.tr.faults.map (fun (q : Nat × List FaultReq) => (q.1, q.2.filter (fun f => f.polder != p))),
                      held := s.tr.held.filter (fun q => q.2.polder != p) }
    cp := { s.cp with colls := s.cp.colls.filter (fun q => q.2.polder != p) }
    cores := { s.cores with core := s.cores.core.map (fun (q : Nat × Core) => (q.1, { q.2 with staged := q.2.staged.filter (fun r => r.fn != fn) })),
                            part := s.cores.part.map (fun (q : Nat × Partition) => if cds.contains (q.1 / 128) then (q.1, { q.2 with tagged := false }) else q) }
    ctl := { s.ctl with fwd := s.ctl.fwd.filter (fun q => q.fn != fn), piece0 := Map.erase s.ctl.piece0 fn }
    tele := { s.tele with ctrBase := Map.erase s.tele.ctrBase fn, pennCtl := Map.erase s.tele.pennCtl fn, trBase := Map.erase s.tele.trBase fn,
                          trRd := Map.erase s.tele.trRd fn, trWr := Map.erase s.tele.trWr fn, penns := s.tele.penns.filter (fun q => q.fn != fn),
                          cdBuf := s.tele.cdBuf.map (fun (q : Nat × List PRec) => (q.1, q.2.filter (fun r => r.fn != fn))),
                          lost := s.tele.lost.filter (fun q => q.1 / 16 != fn) }
    trust := { s.trust with polder := Map.erase s.trust.polder p,
                            images := s.trust.images.filter (fun i => some i.1 != (s.polder? p).map (fun x => x.handle.toNat)) } }

/-- The end of a polder: its counters are swept, its work goes, its frames are zeroed, and its key is discarded. -/
def State.teardown (s : State) (p : Nat) : State :=
  let cds := s.fnCds (p + 1)
  let s := (s.worldSwitch (some p) cds).purgeWork p
  let s := (s.frames p).foldl (fun s r => s.zeroRange r.1 r.2) s
  s.purgeUnits p

/-- TEARDOWN, always granted. -/
def execTeardown (p : Nat) (s : State) : Host.Outcome State Fault Refusal := s.command (s.polder? p).isSome (fun s => s.teardown p)

/-! ### Queues (R331, R337) -/

/-- The queue that a 64-byte context describes. -/
def queueOfCtx (iqid : Nat) (ctx : List Byte) : Queue :=
  let f := fun (o n : Nat) => descField ctx o n
  let w := fun (o : Nat) => BitVec.ofNat 64 (f o 8)
  { Queue.none_ with
    st := .ready, polder := f 36 1, iqid := iqid, weight := f 35 1, cls := f 34 1, cplLog := f 33 1, cmdLog := f 32 1, cplProd := w 24,
    cplBase := w 16, cmdCons := w 8, cmdBase := w 0 }

/-- A context that breaks no rule of R331. -/
def okCtx (ctx : List Byte) : Bool :=
  let f := fun (o n : Nat) => descField ctx o n
  ctx.length == 64 && f 37 27 == 0 && decide (f 36 1 < 8) && decide (1 ≤ f 35 1) && decide (f 34 1 < 4) && decide (4 ≤ f 33 1) &&
  decide (f 33 1 ≤ 16) && decide (4 ≤ f 32 1) && decide (f 32 1 ≤ 16) && f 24 8 % 8 == 0 && f 16 8 % 4096 == 0 && f 8 8 % 8 == 0 &&
  f 0 8 % 4096 == 0

/-- Queue assign: the context is written, every index is zero, and the host gets the queue's handle (R387). -/
def execQueueAssign (q iqid : Nat) (ctx : List Byte) (s : State) : Host.Outcome State Fault Refusal :=
  let x := queueOfCtx iqid ctx
  let free := (s.queue q).st == .unassigned && !s.fe.queue.any (fun e => e.2.polder == x.polder && e.2.st != .unassigned && e.2.iqid == iqid)
  let h := s.trust.nextHnd
  if !s.open_ then .next s
  else if s.grants x.polder 0 && okCtx ctx && decide (q < 4096) && decide (iqid < 4096) && free then
    .next (({ s with trust := { s.trust with nextHnd := h + 1 } }.modQueue q (fun _ => { x with handle := h })).finishCmd .ok h).bump
  else .next (s.finishCmd .refused 0).bump

/-- Queue unassign: as a VF reset of the queue, then it is released. -/
def execQueueUnassign (q : Nat) (s : State) : Host.Outcome State Fault Refusal :=
  let x := s.queue q
  s.command (x.st != .unassigned && s.grants x.polder 0) (fun s => s.resetQueue true q)

/-- Queue reset by the trust root: a halted queue discards its commands and is ready, with zero indices; its running launches go on, and
their tokens come before those of later commands (R337) (log 112). -/
def execQueueReset (q : Nat) (s : State) : Host.Outcome State Fault Refusal :=
  s.command ((s.queue q).st == .halted) (fun s => s.modQueue q (fun x =>
    { x.fresh with tokens := x.tokens, lastLaunch := x.lastLaunch, lastPend := x.lastPend, lastStat := x.lastStat }))

/-! ### PAUSE and RESUME (R442) -/

/-- The live blocks of a polder are pre-empted. -/
def State.stopPolder (s : State) (p : Nat) : State := ((s.launchesOf p).flatMap s.blocksOf).foldl (State.stopBlock · false ·) s

/-- PAUSE. -/
def execPause (p : Nat) (s : State) : Host.Outcome State Fault Refusal :=
  s.command (s.grants p 1) (fun s => (s.modPolder p (fun x => { x with paused := true })).stopPolder p)

/-- The copy engines of a polder run again: suspended copies go on, a REDUCE that ended meanwhile is recorded (R379, R380). -/
def State.startEngines (s : State) (p : Nat) : State :=
  let s := s.modPolder p (fun x => { x with suspended := x.vf.st == .error })
  if (s.polder? p).any (fun x => x.suspended) then s
  else
    let mine := s.cp.copy.filter (fun q => s.copyPolder q.2 == p && q.2.started && !q.2.complete)
    let s := mine.foldl (fun s q =>
      if q.2.susp = 1 ∧ s.mayCopy q.2 then (s.modCopy q.1 (fun c => { c with susp := 0 })).soon (.copyChunkLanded q.1)
      else if q.2.kind = 6 ∧ q.2.susp = 3 then s.soon (.copyChunkLanded q.1) else s) s
    (s.cores.rings.filter (fun q => (s.launch (s.block q.2.blk).launch).polder == p)).foldl (fun s q =>
      s.soon (.watcherFetchEntry (q.1 / 16) (q.1 % 16))) s

/-- RESUME: placement resumes, a pre-emption that has not yet saved a block ends, and copies that a halt suspended run on. -/
def execResume (p : Nat) (s : State) : Host.Outcome State Fault Refusal :=
  s.command (s.grants p 2) (fun s =>
    let s := s.modPolder p (fun x => { x with paused := false })
    let bs := ((s.launchesOf p).flatMap s.blocksOf).filter (fun b => !(s.block b).alone)
    let s := if (s.polder? p).any (fun x => x.seized) then s else bs.foldl State.unstop s
    (s.startEngines p).seek)

/-! ### The debugger (R365, R379, R386) -/

/-- DEBUG_ATTACH: what the policy allows at most. -/
def execDebugAttach (p launch : Nat) (holdMask : BitVec 16) (engines memread : Bool) (s : State) : Host.Outcome State Fault Refusal :=
  let ok := (s.polder? p).any (fun x => x.policy.dbgBits.getLsbD 0 && holdMask &&& ~~~x.policy.holdMax == 0 &&
    (!engines || x.policy.dbgBits.getLsbD 2) && (!memread || x.policy.dbgBits.getLsbD 3))
  s.command ok (fun s =>
    let s := s.modPolder p (fun x => { x with attach := some (holdMask, engines, memread) })
    { s with work := { s.work with launches := s.work.launches.map (fun (l : Nat × Launch) =>
        if l.2.polder = p ∧ l.2.id.toNat = launch then (l.1, { l.2 with attach := true }) else l) } })

/-- A debug halt: a STOP of every lane of the polder; with `engines` its copies suspend; the attachment and the
policy as it now is must allow it (R379, R385, R386). -/
def execDebugHalt (p : Nat) (engines : Bool) (s : State) : Host.Outcome State Fault Refusal :=
  let ok := (s.polder? p).any (fun x => x.attach.any (fun a => !engines || a.2.1) && x.policy.dbgBits.getLsbD 0 &&
    (!engines || x.policy.dbgBits.getLsbD 2))
  s.command ok (fun s =>
    let bs := ((s.launchesOf p).flatMap s.blocksOf).filter (fun b => (s.block b).place != .sealed)
    let s := bs.foldl (fun s b => (s.block b).groups.foldl (fun s g => s.modLanes g (s.group g).present (fun _ y => y.stop)) s) s
    if engines then s.modPolder p (fun x => { x with suspended := true }) else s)

/-! ### Grants, EVICT and MIGRATE (R386, R388) -/

/-- COUNTER_GRANT. -/
def execCounterGrant (p : Nat) (groups : Word) (s : State) : Host.Outcome State Fault Refusal :=
  s.command (s.grants p 5 && (s.polder? p).any (fun x => groups &&& ~~~x.policy.ctrGrp == 0)) (fun s =>
    s.modPolder p (fun x => { x with ctrGrant := x.ctrGrant ||| groups }))
/-- TRACE_GRANT; the mode is the policy's. -/
def execTraceGrant (p : Nat) (s : State) : Host.Outcome State Fault Refusal :=
  s.command (s.grants p 6 && (s.polder? p).any (fun x => x.policy.trace != 0)) (fun s => s.modPolder p (fun x => { x with trace := true }))
/-- EVICT: the spec gives its grant and no effect on the device's state (log 19). -/
def execEvict (p : Nat) (s : State) : Host.Outcome State Fault Refusal := s.command (s.grants p 3) (fun s => s)
/-- The writable leaves of a polder's stage 2, as records of the dirty-page log. -/
def Xlat.writablePages (x : Xlat) : List Word :=
  (x.leaves.filter (fun l => perm2 l.entry .w)).map (fun l =>
    BitVec.ofNat 64 (4096 * l.page + (if l.level = 4 then 0 else if l.level = 3 then 2 else 3)))
/-- A round starts: the log is the ring's records, or, after a round that lost one, every writable page; `dirty` is cleared in its leaves, which
are invalidated (R361, R362). -/
def State.harvest (s : State) (p : Nat) : State :=
  let x := s.xlat p
  let log := if x.lost then x.writablePages else x.dlog
  let pages := log.flatMap (fun w => (List.range (if bitsOf w 0 2 = 1 then 16 else 1)).map (bitsOf w 12 44 + ·))
  let s := pages.foldl (fun s g => match (s.xlat p).s2find (4096 * g) with
    | some l => s.setLeaf p l (l.entry &&& ~~~0x200#64) true
    | none => s) s
  s.modXlat p (fun x => { x with roundLog := log, lost := x.dlogLost, dlog := [], dlogLost := false })
/-- MIGRATE: the tenant key goes to the destination's trust root, which the policy names (R388; log 19), with the final round's log: where a
record has been lost, every writable page is resent before the polder resumes there (R362). -/
def execMigrate (p : Nat) (digest : BitVec 256) (s : State) : Host.Outcome State Fault Refusal :=
  s.command (s.grants p 4 && (s.polder? p).any (fun x => x.policy.dests.contains digest)) (fun s =>
    let s := s.modXlat p (fun x => { x with lost := x.lost || x.dlogLost })
    let s := s.harvest p
    { s with trust := { s.trust with exported := (((s.polder? p).map (fun x => x.handle.toNat)).getD 0, digest) :: s.trust.exported } })

/-! ### Replacing a policy, RESIZE (R385, R418) -/

/-- A document replaces a polder's policy: it is right, of the same tenant key, and of a higher version. -/
def State.replaces (s : State) (p : Nat) (doc : List Byte) : Bool :=
  s.okPolicy doc && s.newer doc && (s.polder? p).any (fun x => (policyOf doc).pk == x.policy.pk)

/-- A policy update. -/
def execPolicyReplace (p : Nat) (doc : List Byte) (s : State) : Host.Outcome State Fault Refusal :=
  s.command (s.replaces p doc && (s.polder? p).any (fun x => (policyOf doc).cdCount == x.cds.length)) (fun s =>
    s.modPolder p (fun x => { x with policy := policyOf doc }))

/-- Nothing of a polder lies on some CDs (R418). -/
def State.unused (s : State) (p : Nat) (cds : List Nat) : Bool :=
  let x := s.xlat p
  (s.launchesOf p).all (fun l => (s.launch l).done) &&
  (s.queuesOf p).all (fun q => (s.queue q).st != .active && (s.queue q).st != .blocked) &&
  x.s2dws.all (fun e => !cds.contains (bitsOf e.2 57 3)) &&
  x.leaves.all (fun l => bitsOf l.entry 56 4 != 0 || !cds.contains (entryAddr l.entry / 2 ^ 38))

/-- Zero the DWS and the DRAM stack of a CD, apart from the majority copies placed on it. -/
def State.zeroCd (s : State) (cd : Nat) : State :=
  let keep := s.majRanges
  let mine := fun (a : Nat) => a / 2 ^ 38 == cd && !keep.any (fun r => decide (r.1 ≤ a) && decide (a < r.1 + r.2))
  { s with mems := { s.mems with
      dws := s.mems.dws.filter (fun c => c.1 / 2 ^ 30 != cd), poisonW := s.mems.poisonW.filter (fun q => q.1 * 8 / 2 ^ 30 != cd),
      dram := s.mems.dram.filter (fun c => !mine c.1), poisonD := s.mems.poisonD.filter (fun q => !mine (q.1 * 64)) } }

/-- RESIZE: to twice or half the size, with a new policy. -/
def execResize (p : Nat) (doc : List Byte) (s : State) : Host.Outcome State Fault Refusal :=
  let new := policyOf doc
  let cds := ((s.polder? p).map (·.cds)).getD []
  let n := cds.length
  let adopt := fun (s : State) (cds : List Nat) => s.modPolder p (fun x => { x with policy := new, cds := cds })
  if !s.open_ then .next s
  else if !s.replaces p doc then .next (s.finishCmd .refused 0)
  else if new.cdCount = 2 * n then
    let b := cds.headD 0 / (2 * n) * (2 * n)
    let more := ((List.range (2 * n)).map (b + ·)).filter (fun cd => !cds.contains cd)
    if more.all s.cdFree then .next (((adopt (s.worldSwitch none more) (cds ++ more)).finishCmd .ok 0).seek) else .next (s.finishCmd .noSpace 0)
  else if 2 * new.cdCount = n then
    let out := cds.drop (n / 2)
    if s.unused p out then .next ((adopt (out.foldl State.zeroCd (s.worldSwitch (some p) out)) (cds.take (n / 2))).finishCmd .ok 0)
    else .next (s.finishCmd .inUse 0)
  else .next (s.finishCmd .refused 0)

end Sys2Proof.Machine
end

