-- ==== Sys2Proof/Machine/Seizure.lean ====
section
/-! DEFINITION. Urgent seizure (R373 to R375), the end of a collective that waits too long (R379, R380), the moving of pages (R360)
and the dirty-page log (R361, R362). -/

namespace Sys2Proof.Machine

/-! ### Seizure (R373) -/

/-- The polders that exist. -/
def State.polders (s : State) : List Nat := s.trust.polder.map (·.1)
/-- The polders that the seizure in progress has stopped. -/
def State.seizedPolders (s : State) : List Nat := (s.trust.polder.filter (fun q => q.2.seized)).map (·.1)

/-- Every other resident polder's policy lets the class seize it, and the seizing polder holds a queue of the class (R386). -/
def State.maySeize (s : State) (p cls : Nat) : Bool :=
  (s.polder? p).any (fun x => !x.seized) && decide (cls < 4) && s.trust.seizure.isNone &&
  s.trust.polder.all (fun q => q.1 == p || q.2.policy.seizeBy.getLsbD cls) && (s.queuesOf p).any (fun q => (s.queue q).cls == cls)

/-- SEIZE: every launch of every other polder is pre-empted, and the further steps follow at their times. -/
def execSeize (p cls : Nat) (s : State) : Host.Outcome State Fault Refusal :=
  s.command (s.maySeize p cls) (fun s =>
    let t := s.ag.clock
    let others := s.polders.filter (fun q => q != p)
    let s := { s with trust := { s.trust with seizure := some { by_ := p, since := t, step := 1 } } }
    let s := others.foldl (fun s q => (s.modPolder q (fun x => { x with seized := true })).stopPolder q) s
    let base := (s.freeW 10).toNat % 2 ^ 44 * 4096
    (((s.atNs (t + 20000000) .seizePreciseStop).atNs (t + 50000000) .seizeReduceAbort).atNs (t + 150000000) (.seizeSeal base)).atNs
      (t + 2000000000) .seizeRelease)

/-- The seizure's next step. -/
def State.seizeStep (s : State) (n : Nat) : State :=
  { s with trust := { s.trust with seizure := s.trust.seizure.map (fun z => { z with step := n }) } }

/-- SEIZE_PRECISE_STOP (step 2): lanes that have not stopped are stopped precisely. -/
def execSeizePreciseStop (s : State) : Host.Outcome State Fault Refusal :=
  if s.trust.seizure.isNone then .next s
  else .next (((s.seizedPolders.flatMap s.launchesOf).flatMap s.blocksOf).foldl State.stopPrecisely (s.seizeStep 2))

/-- A round in flight is free of its local copy, which ends with a status. -/
def State.leaveRound (s : State) (h ck status : Nat) : State :=
  let free := fun (k : Coll) => { k with local_ := none, mine := [], data := [] }
  ({ s with cp := { s.cp with colls := Map.adjust s.cp.colls h free } } : State).endCopy ck status

/-- SEIZE_REDUCE_ABORT (step 3): a REDUCE of a seized polder that is still in flight completes with `PEER_RESET`, unless
an earlier event has decided its status (R380). -/
def execSeizeReduceAbort (s : State) : Host.Outcome State Fault Refusal :=
  if s.trust.seizure.isNone then .next s
  else
    let ps := s.seizedPolders
    .next ((s.cp.colls.filter (fun q => ps.contains q.2.polder)).foldl (fun s q => match q.2.local_ with
      | some ck => if (Map.find? s.cp.copy ck).any (fun c => c.status != 0) then s else s.leaveRound q.1 ck 6
      | none => s) (s.seizeStep 3))

/-! ### Sealed images (R374, R375) -/

/-- What a seal holds of a polder: its block images, its resident frames and its DWS stage-2 state. -/
def State.sealBody (s : State) (p : Nat) : List Byte :=
  let x := s.xlat p
  let blocks := ((s.launchesOf p).flatMap s.blocksOf).filter (fun b => (s.block b).place == .saved)
  let frames := x.s2dws.filter (fun e => okDws2 e.2 && bitsOf e.2 56 1 == 1)
  blocks.flatMap s.blockImage ++ frames.flatMap (fun e => bytesOf 8 e.1 ++ Mem.read s.mems.dws (dwsPa e.2) 65536) ++
  x.s2dws.flatMap (fun e => bytesOf 8 e.1 ++ bytesOf 8 e.2.toNat)

/-- A sealed image's 128-byte header. -/
def sealHeader (magic : Nat) (x : Polder) (seq len : Nat) : List Byte :=
  bytesOf 2 magic ++ zeros 2 ++ bytesOf 4 x.handle.toNat ++ bytesOf 8 seq ++ bytesOf 32 Config.identity.toNat ++
  bytesOf 32 x.policy.digest.toNat ++ bytesOf 8 len ++ zeros 40

/-- A body encrypted in units of 4 KiB, with the unit's index as tweak. -/
def sealUnits (key : Nat) (bs : List Byte) : List Byte :=
  (List.range ((bs.length + 4095) / 4096)).flatMap (fun i => Config.xts key i ((bs.drop (4096 * i)).take 4096))
/-- A sealed image: the header in the clear, the encrypted body, and the tag over both. -/
def sealed (magic : Nat) (x : Polder) (seq : Nat) (body : List Byte) : List Byte :=
  let front := sealHeader magic x seq body.length ++ sealUnits x.keyId body
  front ++ bytesOf 32 (Config.sealTag x.keyId front).toNat

/-- Seal one polder into host memory; where the next image goes. -/
def State.sealPolder (s : State) (p host : Nat) : State × Nat :=
  match s.polder? p with
  | none => (s, host)
  | some x =>
    let img := sealed 0x5345 x (x.sealSeq + 1) (s.sealBody p)
    let blocks := ((s.launchesOf p).flatMap s.blocksOf).filter (fun b => (s.block b).place == .saved)
    let s := blocks.foldl (fun s b => s.modBlock b (fun y => { y with place := .sealed })) s
    let s := s.modPolder p (fun x => { x with sealSeq := x.sealSeq + 1 })
    let s := { s with mems := { s.mems with host := Mem.write s.mems.host host img },
                      trust := { s.trust with
                        nextHnd := s.trust.nextHnd + 1,
                        images := (x.handle.toNat, s.trust.nextHnd, img) :: s.trust.images.filter (fun i => i.1 != x.handle.toNat) } }
    (s, host + (img.length + 4095) / 4096 * 4096)

/-- SEIZE_SEAL (step 4): every seized polder's blocks, resident frames and DWS state are sealed and written to host memory. -/
def execSeizeSeal (host : Nat) (s : State) : Host.Outcome State Fault Refusal :=
  if s.trust.seizure.isNone then .next s
  else .next (s.seizedPolders.foldl (fun (a : State × Nat) p => a.1.sealPolder p a.2) (s.seizeStep 4, host)).1

/-- SEIZE_DEMOTE_PAGE (step 5): a DRAM page of a seized polder is sealed to host memory under its key, with its IPA as tweak, and its
stage-2 entry becomes kind 3. -/
def execSeizeDemotePage (p ipa host : Nat) (s : State) : Host.Outcome State Fault Refusal :=
  let page := (s.xlat p).leafPage (ipa / 4096)
  match s.polder? p, (s.xlat p).s2find (4096 * page) with
  | some x, some l =>
    if !x.seized || !s.trust.seizure.any (fun z => decide (4 ≤ z.step)) || bitsOf l.entry 56 4 != 0 || bitsOf l.entry 7 1 != 0 then .next s
    else
      let n := levelSize l.level
      let a := entryAddr l.entry
      let k : Place := { kind := 0, addr := a, ipa := 0 }
      let d : Demoted := { host := host, cells := Mem.cut s.mems.dram a n 0, entry := l.entry,
                           sick := (List.range (n / 64)).filter (fun i => s.poisonAt { k with addr := a + 64 * i } 64) }
      let bs := Config.xts x.keyId (4096 * page) (Mem.read s.mems.dram a n)
      let s := { s with mems := { s.mems with host := Mem.write s.mems.host host bs } }
      .next (((s.zeroRange k n).seizeStep 5).modXlat p (fun t => { t with demoted := Map.insert t.demoted page d }) |>.setLeaf p l
        (BitVec.ofNat 64 (l.entry.toNat + 3 * 2 ^ 56)) false)
  | _, _ => .next s

/-- SEIZE_RELEASE (step 6): the seizing polder's launches may be placed. -/
def execSeizeRelease (s : State) : Host.Outcome State Fault Refusal :=
  .next ({ s with trust := { s.trust with seizure := none } } : State).seek

/-- The checks on a sealed image (R375): its header, its tag, the policy digest, and the latest sequence number; an image of another
device has no counterpart in this state (log 20). -/
def State.okSealed (s : State) (x : Polder) (img : List Byte) : Bool :=
  let n := img.length
  let f := fun (o k : Nat) => descField img o k
  f 0 2 == 0x5345 && zeroAt img 2 2 && zeroAt img 88 40 && f 4 4 == x.handle.toNat && f 8 8 == x.sealSeq && f 48 32 == x.policy.digest.toNat &&
  decide (160 ≤ n) && f (n - 32) 32 == (Config.sealTag x.keyId (img.take (n - 32))).toNat &&
  s.trust.images.any (fun i => i.1 == x.handle.toNat && i.2.2 == img)

/-- SEALED_IMAGE_RESTORE: a sealed image that passes every check brings its polder back; any other is refused whole. -/
def execSealedImageRestore (p : Nat) (img : List Byte) (s : State) : Host.Outcome State Fault Refusal :=
  s.command ((s.polder? p).any (fun x => s.okSealed x img)) (fun s =>
    let bs := ((s.launchesOf p).flatMap s.blocksOf).filter (fun b => (s.block b).place == .sealed)
    let s := bs.foldl (fun s b => s.modBlock b (fun y => { y with place := .saved })) s
    (s.modPolder p (fun x => { x with seized := false })).seek)

/-! ### Collectives (R379, R380) -/

/-- COLLECTIVE_TIMEOUT: a member has not contributed. The local copy ends with `TIMEOUT`, with `PEER_HALTED` when it is another member's
engines that are halted, which only its own package knows, or, while the local engines are halted, with `PEER_HALTED` when they resume. -/
def execCollectiveTimeout (h : Nat) (s : State) : Host.Outcome State Fault Refusal :=
  match Map.find? s.cp.colls h with
  | none => .next s
  | some k =>
    match k.local_ with
    | none => .next s
    | some ck =>
      if s.ag.clock < k.since + 1000000 * (if k.timeout = 0 then 1000 else k.timeout) ∨ !k.data.isEmpty ∨ k.peers.isEmpty then .next s
      else if (s.polder? k.polder).any (fun x => x.suspended) then .next (s.modCopy ck (fun c => { c with status := 7 }))
      else .next (s.leaveRound h ck (if s.choose 4 then 7 else 8)).bump

/-! ### Moving pages (R360) -/

/-- A new entry for a page that its move may write: right in form, of the same size, to a frame that is free. -/
def State.okMove (s : State) (p : Nat) (dws : Bool) (page : Nat) (e : Word) : Bool :=
  let x := s.xlat p
  if dws then
    let old := Map.get x.s2dws 0 page
    okDws2 e && okDws2 old && bitsOf e 57 3 == bitsOf old 57 3 && dwsBack e == dwsBack old &&
    (bitsOf e 56 1 == 0 || (!(x.residents (bitsOf e 57 3)).any (fun q => q.1 != page && q.2 == bitsOf e 2 14) &&
      !NatSet.mem s.mems.badFrm (16384 * bitsOf e 57 3 + bitsOf e 2 14)))
  else match x.s2find (4096 * page) with
    | some l =>
      let a := entryAddr e
      okS2 e && bitsOf e 6 1 == 1 && bitsOf e 7 1 == 0 && l.page == page && bitsOf l.entry 56 4 == 0 && bitsOf e 56 4 == 0 && a % levelSize l.level == 0 && s.dramFree a (levelSize l.level)
    | none => false

/-- The majority page of an intermediate page, if it is one: its descriptor. -/
def Xlat.majPage (x : Xlat) (page : Nat) : Option Nat :=
  (x.s2find (4096 * page)).bind (fun l => if bitsOf l.entry 56 4 = 2 then some (entryAddr l.entry) else none)
/-- Whether one physical copy of a majority page may move: the entry's bits 11:9 name the copy, and its address the new page, free and on the
copy's stack. -/
def State.okCopyMove (s : State) (desc : Nat) (e : Word) : Bool :=
  let k := bitsOf e 9 3
  let a := entryAddr e
  s.okDesc desc && decide (k < s.copyN desc) && !s.movingCopy desc k && a % 65536 == 0 && s.dramFree a 65536 &&
  a / 2 ^ 38 == bitsOf (s.copyWord desc k) 56 3
/-- The copy lands in its new page, and its address in the descriptor follows (R88, R360). -/
def State.moveCopy (s : State) (desc : Nat) (e : Word) : State :=
  let k := bitsOf e 9 3
  let a := entryAddr e
  let w := s.copyWord desc k
  (s.movePlace { kind := 0, addr := s.copyPa desc k 0, ipa := 0 } { kind := 0, addr := a, ipa := 0 } 65536).setCopyWord desc k
    (BitVec.ofNat 64 (bitsOf w 56 8 * 2 ^ 56 + a % 2 ^ 56))

/-- PAGE_MIGRATE: step 1 of a move, `mig` set and the page invalidated; the further steps follow as the invalidations complete (R360). A copy of
a majority page counts as missing until no write to it is on its way, and then moves at once. -/
def execPageMigrate (p : Nat) (dws : Bool) (page : Nat) (e : Word) (s : State) : Host.Outcome State Fault Refusal :=
  let x := s.xlat p
  let note := fun (s : State) (n : Nat) => s.modXlat p (fun x =>
    { x with migs := x.migs ++ [{ polder := p, dws := dws, page := page, entry := e, phase := 1, num := n }] })
  match if dws then none else x.majPage page, x.migs.find? (fun m => m.dws == dws && m.page == page) with
  | some desc, none => .next (if s.okCopyMove desc e then (note s 0).soon (.pageMigrate p dws page e) else s)
  | some desc, some m =>
    if m.entry != e then .next s
    else if s.cp.sent.any (fun q => q.desc == desc && q.k == bitsOf e 9 3 && q.reply.isNone) then .next (s.soon (.pageMigrate p dws page e))
    else .next ((s.moveCopy desc e).endMove p m)
  | none, some _ => .next s
  | none, none =>
    if !s.okMove p dws page e then .next s
    else
      let s := if dws then s.invalidate2 p [4] (some (page, 1)) true
        else match x.s2find (4096 * page) with
          | some l => s.setLeaf p l (l.entry ||| 0x80) true
          | none => s
      .next (note s (s.xlat p).issued2)

/-! ### The dirty-page log (R361, R362) -/

/-- DIRTY_LOG_HARVEST: a round starts; what the ring holds is kept as its log, with whether a record was lost, and the harvested leaves are
clean again. -/
def execDirtyLogHarvest (p : Nat) (s : State) : Host.Outcome State Fault Refusal :=
  .next (if (s.polder? p).isNone then s else s.harvest p)

end Sys2Proof.Machine
end

