-- ==== Sys2Proof/Machine/Interface.lean ====
section
/-! DEFINITION. Attestation and the interface lock: SPDM answers (R382, R383), TDISP requests (R390, R396, R397), the firmware's requests
to the trust root (R391 to R394, R407), and writes to frozen registers (R389 to R393). -/

namespace Sys2Proof.Machine

/-! ### Sessions (R382) -/

/-- A function's session. -/
def State.session (s : State) (fn : Nat) : Session :=
  if fn = 0 then s.trust.pfSess else ((s.polder? (fn - 1)).map (·.vf.sess)).getD Session.none_
/-- Change a function's session. -/
def State.modSession (s : State) (fn : Nat) (f : Session → Session) : State :=
  if fn = 0 then { s with trust := { s.trust with pfSess := f s.trust.pfSess } }
  else s.modPolder (fn - 1) (fun p => { p with vf := { p.vf with sess := f p.vf.sess } })
/-- A function whose DOE mailbox the trust root serves: the PF, and VFs of a device that is ready (R382, R412). -/
def State.hasDoe (s : State) (fn : Nat) : Bool := fn == 0 || (s.ctl.ready && decide (fn ≤ 8))
/-- A VF has a tenant; the trust root answers one that has none with errors alone. -/
def State.hasTenant (s : State) (fn : Nat) : Bool := fn == 0 || (s.polder? (fn - 1)).isSome

/-- An SPDM answer: its request's number and a body (log 8). -/
def State.spdm (s : State) (fn req : Nat) (body : List Byte) : State := s.respond fn (bytesOf 1 req ++ body)
/-- An SPDM error. -/
def State.spdmError (s : State) (fn : Nat) : State := s.respond fn [0x7F]

/-- A request on a function's DOE mailbox, answered when it is in order, else with an error. -/
def State.doe (s : State) (fn : Nat) (ok : Bool) (f : State → State) : Host.Outcome State Fault Refusal :=
  if !s.hasDoe fn then .next s else .next (if ok && s.hasTenant fn then f s else s.spdmError fn).bump

/-- A body that the spec does not lay out. -/
def State.body (s : State) (req : Nat) : List Byte := Config.spdmBody req s.ag.free

/-- GET_VERSION: negotiation starts afresh. -/
def execGetVersion (fn : Nat) (s : State) : Host.Outcome State Fault Refusal :=
  s.doe fn true (fun s => (s.modSession fn (fun x => { x with version := true, caps := false, algs := false })).spdm fn 1 (s.body 1))
/-- GET_CAPABILITIES. -/
def execGetCapabilities (fn : Nat) (s : State) : Host.Outcome State Fault Refusal :=
  s.doe fn (s.session fn).version (fun s => (s.modSession fn (fun x => { x with caps := true })).spdm fn 2 (s.body 2))
/-- NEGOTIATE_ALGORITHMS. -/
def execNegotiateAlgorithms (fn : Nat) (s : State) : Host.Outcome State Fault Refusal :=
  s.doe fn (s.session fn).caps (fun s => (s.modSession fn (fun x => { x with algs := true })).spdm fn 3 (s.body 3))
/-- GET_DIGESTS. -/
def execGetDigests (fn : Nat) (s : State) : Host.Outcome State Fault Refusal :=
  s.doe fn (s.session fn).algs (fun s => s.spdm fn 4 (bytesOf 32 (Config.shake256 (s.body 5)).toNat))
/-- GET_CERTIFICATE: the chain is in slot 0 (R381). -/
def execGetCertificate (fn slot off len : Nat) (s : State) : Host.Outcome State Fault Refusal :=
  s.doe fn ((s.session fn).algs && slot == 0) (fun s => s.spdm fn 5 (((Config.spdmBody 5 0).drop off).take len))
/-- CHALLENGE: signed with the identity key. -/
def execChallenge (fn : Nat) (nonce : BitVec 256) (s : State) : Host.Outcome State Fault Refusal :=
  s.doe fn (s.session fn).algs (fun s =>
    let body := bytesOf 32 nonce.toNat ++ s.body 6
    s.spdm fn 6 (body ++ Config.falconSign body))

/-- The tenant of a VF is authenticated on its DOE. -/
def State.tenant (s : State) (fn : Nat) : Bool := fn != 0 && (s.session fn).fin

/-- The bytes of the remap table. -/
def State.remapBytes (s : State) : List Byte :=
  s.rel.remap.flatMap (fun q => bytesOf 2 (q.2.exp + q.2.st * 2 ^ 14)) ++ s.rel.cdMap.flatMap (fun cd => bytesOf 1 cd)

/-- A measurement block (R383); none that a request may not read: blocks 7 and 8 are for a request inside the tenant's session. -/
def State.measurement (s : State) (fn idx : Nat) (secured : Bool) : Option (List Byte) :=
  let own := secured && s.tenant fn
  let vf := (s.polder? (fn - 1)).map (·.vf)
  match idx with
  | 1 | 2 | 4 => some (Config.measured idx)
  | 3 => some (match Map.find? s.ctl.fw s.ctl.active with
      | some img => bytesOf 32 (Config.shake256 img).toNat
      | none => Config.measured 3)
  | 5 => some (bytesOf 32 (Config.shake256 s.remapBytes).toNat ++ bytesOf 1 (s.ctl.failStep.getD 0) ++ Config.measured 5)
  | 6 => some (bytesOf 1 (s.trust.polder.any (fun q => q.2.test)).toNat)
  | 7 => if own then (s.polder? (fn - 1)).map (fun p => bytesOf 32 p.policy.digest.toNat) else none
  | 8 => if own then vf.map (fun v => if v.st = .unlocked then zeros 33 else bytesOf 1 v.st.code ++ bytesOf 32 v.digest.toNat) else none
  | _ => none

/-- GET_MEASUREMENTS of one block. -/
def execGetMeasurements (fn : Nat) (b : MeasBlock) (s : State) : Host.Outcome State Fault Refusal :=
  s.doe fn ((s.session fn).algs && (s.measurement fn b.idx b.secured).isSome) (fun s => s.spdm fn 7 ((s.measurement fn b.idx b.secured).getD []))
/-- KEY_EXCHANGE: the session is that of this exchange, with the device's fresh part. -/
def execKeyExchange (fn : Nat) (data : List Byte) (s : State) : Host.Outcome State Fault Refusal :=
  s.doe fn (s.session fn).algs (fun s => (s.modSession fn (fun x =>
    { x with keyed := true, fin := false, th := Config.shake256 (data ++ s.body 8) })).spdm fn 8 (s.body 8))
/-- FINISH: on a VF the requester proves the key that the policy holds, by a signature over the session's key exchange (R382). -/
def execFinish (fn : Nat) (data : List Byte) (s : State) : Host.Outcome State Fault Refusal :=
  let proved := fn == 0 || (s.polder? (fn - 1)).any (fun p => Config.falconVerify p.policy.pk (bytesOf 32 (s.session fn).th.toNat) data)
  s.doe fn ((s.session fn).keyed && proved) (fun s => (s.modSession fn (fun x => { x with fin := true })).spdm fn 9 (s.body 9))
/-- END_SESSION: the session's keys are discarded. -/
def execEndSession (fn : Nat) (s : State) : Host.Outcome State Fault Refusal :=
  s.doe fn (s.session fn).keyed (fun s =>
    (s.modSession fn (fun x => { x with keyed := false, fin := false, epoch := x.epoch + 1 })).spdm fn 10 [])
/-- VENDOR_DEFINED_REQUEST: IDE_KM keys the VF's selective stream inside its session (R389); a TDISP message that is none of those the
interface answers gets an error. -/
def execVendorDefinedRequest (fn : Nat) (ideKm : Bool) (_data : List Byte) (s : State) : Host.Outcome State Fault Refusal :=
  s.doe fn (s.tenant fn && ideKm) (fun s =>
    (s.modPolder (fn - 1) (fun p => { p with vf := { p.vf with keyed := true } })).spdm fn 11 (s.body 11))
/-- Every other request is answered with an SPDM error. -/
def execSpdmUnsupported (fn : Nat) (_code : Nat) (s : State) : Host.Outcome State Fault Refusal := s.doe fn false (fun s => s)

/-! ### TDISP requests, forwarded to box 0 (R390, R396, R397) -/

/-- Forward a request of a VF to control core 0, under the session it came in. The events of this section are requests inside the tenant's
session; one outside it is a SPDM_UNSUPPORTED. -/
def State.forward (s : State) (fn code piece : Nat) (report : Option (Nat × Nat × Nat) := none) : State :=
  let core := s.activeCore 0
  let seq := Map.get s.ctl.seqs 0 (4 * core) % 65536
  let f : Fwd := { seq := seq, fn := fn, epoch := (s.session fn).epoch, report := report }
  let s := { s with ctl := { s.ctl with fwd := f :: s.ctl.fwd } }
  s.post core 0 { seq := 0, fn := fn, length := 8, words := [BitVec.ofNat 64 (code + piece * 256)] }

/-- LOCK_INTERFACE. -/
def execLockInterface (vf : Nat) (s : State) : Host.Outcome State Fault Refusal := s.doe vf (s.tenant vf) (fun s => s.forward vf 1 0)
/-- START_INTERFACE. -/
def execStartInterface (vf : Nat) (s : State) : Host.Outcome State Fault Refusal := s.doe vf (s.tenant vf) (fun s => s.forward vf 2 0)
/-- STOP_INTERFACE. -/
def execStopInterface (vf : Nat) (s : State) : Host.Outcome State Fault Refusal := s.doe vf (s.tenant vf) (fun s => s.forward vf 3 0)
/-- GET_DEVICE_INTERFACE_STATE. -/
def execGetDeviceInterfaceState (vf : Nat) (s : State) : Host.Outcome State Fault Refusal :=
  s.doe vf (s.tenant vf) (fun s => s.forward vf 4 0)
/-- GET_DEVICE_INTERFACE_REPORT: the pieces that cover at most 64 of the 108 bytes from an offset are asked for. -/
def execGetDeviceInterfaceReport (vf off len : Nat) (s : State) : Host.Outcome State Fault Refusal :=
  let n := min (min len 64) (108 - off)
  s.doe vf (s.tenant vf && decide (n ≠ 0)) (fun s =>
    let s := if off < 64 then s.forward vf 5 0 (some (0, off, n)) else s
    if 64 < off + n then s.forward vf 5 1 (some (1, off, n)) else s)

/-- MBOX_MESSAGE_ARRIVAL: a message enters a box that receives it: boxes 0 and 3 of the active complex's cores 0 and 1, and boxes 1 and 2
of every core (R273, R408). -/
def execMboxMessageArrival (core box : Nat) (m : Msg) (s : State) : Host.Outcome State Fault Refusal :=
  let ok := decide (core < 4) && decide (m.length ≤ 64) && decide (m.fn ≤ 8) &&
    (box == 1 || box == 2 || (box == 0 && core == s.activeCore 0) || (box == 3 && core == s.activeCore 1))
  .next (if ok then s.post core box m else s)

/-! ### The firmware's requests (R391, R394) -/

/-- The base of a VF's BAR 0: the SR-IOV capability's VF BAR 0, and one BAR of 256 KiB for each VF (R391; log 16). -/
def State.bar0 (s : State) (fn : Nat) : Nat :=
  numOf ((List.range 8).map (fun i => Map.get s.trust.srIov 0 (0x24 + i))) / 16 * 16 + (fn - 1) * 0x40000

/-- The 328 bytes that a lock digest covers. -/
def State.lockBytes (s : State) (fn : Nat) (v : Vf) : List Byte :=
  (List.range 256).map (fun i => Map.get v.cfg 0 i &&& ~~~Config.statusBits i) ++ (List.range 64).map (fun i => Map.get s.trust.srIov 0 i) ++
  bytesOf 8 (s.bar0 fn)

/-- A 256-bit number in four words. -/
def words4 (d : BitVec 256) : List Word := (List.range 4).map (fun i => BitVec.ofNat 64 (d.toNat / 2 ^ (64 * i)))
/-- Reply words 5 and 6 of `IF_LOCK` and `IF_INFO`. -/
def State.ifWords (s : State) (fn : Nat) (p : Polder) : List Word :=
  [BitVec.ofNat 64 (s.bar0 fn), BitVec.ofNat 64 (p.vf.seq.toNat + p.handle.toNat * 2 ^ 32)]

/-- A request about a function's interface: with no polder behind it, the state is wrong (log 21). -/
def State.ifRequest (s : State) (core code fn : Nat) (f : Polder → State → State) : Host.Outcome State Fault Refusal :=
  match s.polder? (fn - 1) with
  | none => .next (s.ifReply core code 1 0 [])
  | some p => .next (f p s).bump

/-- Change a VF. -/
def State.modVf (s : State) (fn : Nat) (f : Vf → Vf) : State := s.modPolder (fn - 1) (fun p => { p with vf := f p.vf })

/-- `IF_LOCK`: an unlocked interface whose stream is keyed is frozen and digested. -/
def execIfLock (core fn : Nat) (s : State) : Host.Outcome State Fault Refusal :=
  s.ifRequest core 1 fn (fun p s =>
    if p.vf.st ≠ .unlocked then s.ifReply core 1 1 p.vf.st.code []
    else if !p.vf.keyed then s.ifReply core 1 2 0 []
    else
      let d := Config.shake256 (s.lockBytes fn p.vf)
      let v := { p.vf with st := .locked, digest := d, seq := p.vf.seq + 1 }
      (s.modVf fn (fun _ => v)).ifReply core 1 0 1 (words4 d ++ s.ifWords fn { p with vf := v }))

/-- `IF_START`. -/
def execIfStart (core fn : Nat) (s : State) : Host.Outcome State Fault Refusal :=
  s.ifRequest core 2 fn (fun p s =>
    if p.vf.st ≠ .locked then s.ifReply core 2 1 p.vf.st.code []
    else (s.modVf fn (fun v => { v with st := .run })).ifReply core 2 0 2 [])

/-- `IF_STOP`: from RUN or ERROR the VF is reset; it is unfrozen and its keys are discarded. The reply comes when the reset has
finished. -/
def execIfStop (core fn : Nat) (s : State) : Host.Outcome State Fault Refusal :=
  s.ifRequest core 3 fn (fun p s =>
    let p0 := fn - 1
    let reset := p.vf.st == .run || p.vf.st == .error
    let s := if reset then s.resetPolder p0 else s
    let s := s.modPolder p0 (fun x =>
      { x with suspended := if p.vf.st = .error then false else x.suspended,
               vf := { x.vf.dropKeys with st := .unlocked, stopping := x.vf.stopping ++ [core] } })
    s.stopDone p0)

/-- `IF_STATE`. -/
def execIfState (core fn : Nat) (s : State) : Host.Outcome State Fault Refusal :=
  s.ifRequest core 4 fn (fun p s => s.ifReply core 4 0 p.vf.st.code [])
/-- `IF_INFO`. -/
def execIfInfo (core fn : Nat) (s : State) : Host.Outcome State Fault Refusal :=
  s.ifRequest core 5 fn (fun p s => s.ifReply core 5 0 p.vf.st.code (words4 p.policy.digest ++ s.ifWords fn p))

/-- A request with a reserved bit set, an unknown code, or a function outside 1 to 8: `BAD_REQUEST`. -/
def execTrustRootBadRequest (core : Nat) (word0 : Word) (s : State) : Host.Outcome State Fault Refusal :=
  let fn := bitsOf word0 8 8
  let st := if fn = 0 then 0 else ((s.polder? (fn - 1)).map (·.vf.st.code)).getD 0
  .next (s.ifReply core (bitsOf word0 0 8) 3 st [])

/-- `COLL_CREATE`: a collective group of packages of the domain, with a timeout in range (R407). -/
def execCollCreate (core fn : Nat) (members : Word) (timeout : Nat) (s : State) : Host.Outcome State Fault Refusal :=
  let known := fun (i : Nat) => i == Config.package.toNat || (Map.find? s.fab.domain i).isSome
  let free := (List.range 65536).find? (fun h => (Map.find? s.cp.colls h).isNone)
  let st := ((s.polder? (fn - 1)).map (·.vf.st.code)).getD 0
  match s.polder? (fn - 1), free with
  | some _, some h =>
    if timeout ≤ 60000 ∧ (List.range 64).all (fun i => !members.getLsbD i || known i) then
      let k : Coll := { polder := fn - 1, members := members, timeout := timeout, local_ := none, since := 0, mine := [], data := [] }
      .next (({ s with cp := { s.cp with colls := Map.insert s.cp.colls h k } } : State).ifReply core 0x10 0 st [BitVec.ofNat 64 h])
    else .next (s.ifReply core 0x10 3 st [])
  | _, _ => .next (s.ifReply core 0x10 3 st [])

/-! ### Frozen registers and TLPs (R389 to R393) -/

/-- A write to a byte of a VF's configuration space, or of the PF's SR-IOV capability, at a configuration offset: it lands while nothing
that it belongs to is frozen; else every interface that froze it enters ERROR and the byte stays. -/
def execFrozenRegisterWrite (vf off : Nat) (cap : Bool) (x : Byte) (s : State) : Host.Outcome State Fault Refusal :=
  if cap then
    let at_ := off - Config.srIovAt.toNat
    if off < Config.srIovAt.toNat ∨ 64 ≤ at_ then .next s
    else
      let hit := s.polders.filter s.frozen
      let held := s.trust.polder.any (fun q => q.2.vf.st != .unlocked)
      let s := hit.foldl (fun s p => s.enterError p off true) s
      .next (if held then s else { s with trust := { s.trust with srIov := Map.put s.trust.srIov 0 at_ x } })
  else if vf < 1 ∨ 8 < vf ∨ 256 ≤ off then .next s
  else if s.frozen (vf - 1) then .next (s.enterError (vf - 1) off false)
  else .next (s.modVf vf (fun v => if v.st = .unlocked then { v with cfg := Map.put v.cfg 0 off x } else v))

/-- A TLP to a VF's BAR 0 outside its selective stream, or without the TEE bit: dropped and counted while the interface is locked or
running (R389). -/
def execIdeTlpDrop (vf : Nat) (s : State) : Host.Outcome State Fault Refusal :=
  .next (if decide (1 ≤ vf) && s.frozen (vf - 1) then s.dropWrite vf else s)

end Sys2Proof.Machine
end

