-- ==== Sys2Proof/Machine/Errors.lean ====
section
/-! DEFINITION. Reliability (R423 to R431): errors and their reports, scan rotation, retirement and repair, the error injector, and the
fatal error with its dump. Virtual channels at a hop (R420, R421). -/

namespace Sys2Proof.Machine

/-! ### Reports (R425) -/

/-- The words of a report. -/
def reportWords (r : Report) : List Word :=
  [BitVec.ofNat 64 (r.source % 256 + r.cls % 256 * 2 ^ 8 + r.cd % 8 * 2 ^ 16 + r.unit % 64 * 2 ^ 19 +
      (match r.polder with
       | some p => p % 8 * 2 ^ 28 + 2 ^ 31
       | none => 0)),
   BitVec.ofNat 64 r.addr, BitVec.ofNat 64 r.time, BitVec.ofNat 64 r.launch]

/-- Record a report and send it to box 3 of the active complex. -/
def State.reported (s : State) (r : Report) : State :=
  ({ s with ctl := { s.ctl with reports := (r :: s.ctl.reports).take 4096 } } : State).post (s.activeCore 1) 3
    { seq := 0, fn := 0, length := 32, words := reportWords r }

/-- ERROR_REPORT: the arbiter takes a report, unless a fatal error has stopped it (R431). -/
def execErrorReport (r : Report) (s : State) : Host.Outcome State Fault Refusal := .next (if s.ctl.arbDead then s else s.reported r)

/-- The polder that owns a CD. -/
def State.ownerOf (s : State) (cd : Nat) : Option Nat := (List.find? (fun (q : Nat × Polder) => q.2.cds.contains cd) s.trust.polder).map (·.1)

/-- A report of the present moment. -/
def State.mkReport (s : State) (cls source cd unit addr : Nat) (polder : Option Nat) : Report :=
  { cls := cls, source := source, cd := cd, unit := unit, polder := polder, addr := addr, time := s.ag.clock, launch := 0 }
/-- A unit of a CD is retired or repaired: a report of class 5 (R428). -/
def State.retired5 (s : State) (source cd unit addr : Nat) : State := s.next (.errorReport (s.mkReport 5 source cd unit addr (s.ownerOf cd)))

/-! ### Errors (R423, R424) -/

/-- Where an error lies: source code, CD, unit, physical address and owner. -/
def State.errorAt (s : State) (e : ErrTarget) : Nat × Nat × Nat × Nat × Option Nat :=
  let grp := fun (src g : Nat) =>
    let x := s.group g
    (src, x.cd, x.core % 32, 0, if x.system then none else some (s.polderOf g))
  match e with
  | .vreg g _ => grp 1 g
  | .otherReg g _ _ => grp 2 g
  | .tileEntry g _ => grp 3 g
  | .shared b _ => (4, (s.block b).core / 32, (s.block b).core % 32, 0, some (s.launch (s.block b).launch).polder)
  | .dws cd a => (5, cd, 0, a, s.ownerOf cd)
  | .spill g _ => grp 5 g
  | .dram a => (6, a / 2 ^ 38, 0, a, s.ownerOf (a / 2 ^ 38))
  | .fetchLine p _ => (7, p / 128, p / 4 % 32, 0, s.ownerOf (p / 128))
  | .link n => (8, 0, n, 0, none)
  | .anchor _ => (10, 0, 0, 0, none)

/-- Poison the unit that an uncorrectable error strikes. -/
def State.strike (s : State) (e : ErrTarget) : State :=
  match e with
  | .vreg g r => s.modGroup g (fun x => { x with poisonV := NatSet.add x.poisonV r })
  | .otherReg g c r => s.modGroup g (fun x => { x with poisonR := NatSet.add x.poisonR (4096 * c + r) })
  | .tileEntry g k => s.modGroup g (fun x => { x with poisonT := NatSet.add x.poisonT k })
  | .shared b o => s.modBlock b (fun x => { x with poison := NatSet.add x.poison (o / 8) })
  | .dws cd a => s.poisonPut { kind := 3, addr := cd * 2 ^ 30 + a % 2 ^ 30, ipa := 0 } 1
  | .spill g o => s.modGroup g (fun x => { x with poisonS := NatSet.add x.poisonS (o / 8) })
  | .dram a => s.poisonPut { kind := 0, addr := a, ipa := 0 } 1
  | .fetchLine p l => s.setPart p { s.part p with badL0 := NatSet.add (s.part p).badL0 l }
  | .link _ | .anchor _ => s

/-- A flit is sent again (R405). -/
def State.flitRetry (s : State) (link : Nat) : State :=
  { s with fab := { s.fab with retries := Map.put s.fab.retries 0 link (Map.get s.fab.retries 0 link + 1) } }

/-- Errors of a DRAM row: within 24 h 8 corrected ones, or one that no code corrects, ask for its repair (R428; log 154). -/
def State.rowError (s : State) (a n : Nat) : State :=
  let ts := List.replicate n s.ag.clock ++ s.lastDay (Map.get s.rel.rowErrs [] (a / 2048))
  { s with rel := { s.rel with rowErrs := Map.insert s.rel.rowErrs (a / 2048) ts } }

/-- An error that no code corrects: its unit is poisoned and reported; a line is fetched again, a flit sent again, and one in the anchor
die's own structures is fatal (R129, R405, R431). -/
def State.uncorrectable (s : State) (e : ErrTarget) : State :=
  let (src, cd, unit, addr, owner) := s.errorAt e
  match e with
  | .fetchLine .. => s.strike e
  | .link n => s.flitRetry n
  | .anchor _ => s.next (.fatalError (s.mkReport 6 src cd unit addr owner))
  | .dram a => ((s.strike e).rowError a 8).next (.errorReport (s.mkReport 1 src cd unit addr owner))
  | _ => (s.strike e).next (.errorReport (s.mkReport 1 src cd unit addr owner))

/-- A corrected error: counted, and written back. -/
def State.corrected (s : State) (e : ErrTarget) : State :=
  let s := s.count instDev 0x0700 1
  match e with
  | .dram a => s.rowError a 1
  | _ => s

/-- UNCORRECTABLE_ERROR. -/
def execUncorrectableError (e : ErrTarget) (s : State) : Host.Outcome State Fault Refusal := .next (s.uncorrectable e)
/-- CORRECTED_ERROR. -/
def execCorrectedError (e : ErrTarget) (s : State) : Host.Outcome State Fault Refusal := .next (s.corrected e)

/-- A store that the patrol reads. -/
def patrolled : ErrTarget → Bool
  | .shared .. | .dws .. | .dram _ => true
  | _ => false
/-- PATROL_READ: a word of shared memory, the DWS or the DRAM is found right, corrected, or poisoned (R424). -/
def execPatrolRead (e : ErrTarget) (s : State) : Host.Outcome State Fault Refusal :=
  if !patrolled e then .next s
  else match (s.freeW 11).toNat % 3 with
    | 0 => .next s.bump
    | 1 => .next ((s.corrected e).count instDev 0x0702 1).bump
    | _ => .next (s.uncorrectable e).bump

/-! ### The remap table and retirement (R415, R416, R428) -/

/-- The physical unit among some that holds an exposed number. -/
def holderOf (m : Map Remap) (base n exp : Nat) : Option Nat :=
  (List.find? (fun (q : Nat × Remap) => decide (base ≤ q.1) && decide (q.1 < base + n) && q.2.st == 0 && q.2.exp == exp) m).map (·.1)
/-- A spare among them. -/
def spareOf (m : Map Remap) (base n : Nat) : Option Nat :=
  (List.find? (fun (q : Nat × Remap) => decide (base ≤ q.1) && decide (q.1 < base + n) && q.2.st == 1) m).map (·.1)

/-- Retire the unit that holds an exposed number: a spare takes the number, or it is withdrawn. -/
def retireUnit (m : Map Remap) (base n exp : Nat) : Map Remap :=
  match holderOf m base n exp with
  | none => m
  | some k =>
    let out := Map.insert m k { st := 2, exp := 0 }
    match spareOf m base n with
    | some j => Map.insert out j { st := 0, exp := exp }
    | none => out

/-- ENGINE_RETIRE: a copy engine's number goes to the CD's spare engine, or is withdrawn; its copies run on another engine. -/
def execEngineRetire (cd engine : Nat) (s : State) : Host.Outcome State Fault Refusal :=
  let base := 1024 + 16 * cd
  match holderOf s.rel.remap base 16 engine with
  | none => .next s
  | some _ =>
    let m := retireUnit s.rel.remap base 16 engine
    let s := { s with rel := { s.rel with remap := m } }
    let s := if (holderOf m base 16 engine).isNone then { s with cp := { s.cp with engDead := NatSet.add s.cp.engDead (16 * cd + engine) } } else s
    .next (s.retired5 2 cd engine 0)

/-! ### Scan rotation (R426, R427) -/

/-- The exposed cores of a CD, in increasing number. -/
def State.exposed (s : State) (cd : Nat) : List Nat :=
  (List.range 32).filter (fun u => (holderOf s.rel.remap (64 * cd) 64 u).isSome)
/-- The core that a CD drains next. -/
def State.nextScan (s : State) (core : Nat) : Nat :=
  let cd := core / 32
  let us := s.exposed cd
  32 * cd + (((us.find? (fun u => decide (core % 32 < u))).orElse (fun _ => us.head?)).getD (core % 32))

/-- A drained core starts its scan, of 12 µs. -/
def State.startScan (s : State) (core : Nat) : State :=
  (s.modCore core (fun c => { c with draining := false, scanning := true, scanBegan := s.ag.clock })).atNs (s.ag.clock + 12000)
    (.scanComplete core (s.choose (2 ^ 30 + 2)))

/-- SCAN_DRAIN_START: the CD's next core is drained every 125 µs, unless a seizure suspends drains; a core that is being drained and
holds no block any more is scanned. -/
def execScanDrainStart (core : Nat) (s : State) : Host.Outcome State Fault Refusal :=
  let empty := fun (s : State) => (s.heldBlocks core).isEmpty
  if (s.core core).draining then .next (if empty s then (s.startScan core).bump else s)
  else
    let s := s.atNs (s.ag.clock + 125000) (.scanDrainStart (s.nextScan core))
    if s.trust.seizure.isSome || (s.core core).scanning || !(s.exposed (core / 32)).contains (core % 32) then .next s
    else
      let bs := (s.heldBlocks core).map (·.1)
      let s := s.modCore core (fun c => { c with draining := true })
      let s := bs.foldl (fun s b => s.stopBlock true b) s
      .next (if empty s then (s.startScan core).bump else s.atNs (s.ag.clock + 1000000) (.scanDrainTimeout core))

/-- SCAN_DRAIN_TIMEOUT: a drain that has not completed within 1 ms is given up, and its blocks run on. -/
def execScanDrainTimeout (core : Nat) (s : State) : Host.Outcome State Fault Refusal :=
  if !(s.core core).draining then .next s
  else
    let s := s.modCore core (fun c => { c with draining := false })
    let bs := ((s.heldBlocks core).filter (fun q => q.2.alone && s.placesWork (s.launch q.2.launch).polder &&
      q.2.stopBy == 0)).map (·.1)
    .next (bs.foldl State.unstop s).seek

/-- The launches that ran on a core since the start of its last passed scan. -/
def State.ranSince (s : State) (core : Nat) : List Nat :=
  (s.work.launches.filter (fun l => l.2.ranOn.any (fun r => r.1 == core && (r.2 == 0 || decide ((s.core core).lastPass < r.2))))).map (·.1)
/-- The launches whose tokens wait to be certified. -/
def State.certifyAll (s : State) : State :=
  ((s.work.launches.filter (fun l => l.2.tokened && l.2.provision && !l.2.certified)).map (·.1)).foldl (fun s l => s.soon (.scanCertifyRecord l)) s

/-- A failed scan of a core whose polder's injector strikes registers may come from the injector (R422). -/
def State.injected (s : State) (cd : Nat) : Bool :=
  ((s.ownerOf cd).bind s.polder?).any (fun p => p.test && p.injCtl.getLsbD 0 && p.injCtl.getLsbD 1) && s.choose (2 ^ 30 + 3)

/-- SCAN_COMPLETE: a passed scan certifies what ran before it; a failed one makes every launch suspect that ran on the core since its last
passed scan began, and retires the core, unless the injector caused it. -/
def execScanComplete (core : Nat) (passed : Bool) (s : State) : Host.Outcome State Fault Refusal :=
  if !(s.core core).scanning then .next s
  else
    let cd := core / 32
    let s := s.next (.errorReport (s.mkReport (if passed then 3 else 4) 9 cd (core % 32) 0 (s.ownerOf cd)))
    if passed then
      let s := s.modCore core (fun c => { c with scanning := false, lastPass := c.scanBegan })
      .next ((s.count instDev 0x0703 1).certifyAll).seek
    else
      let s := (s.ranSince core).foldl (fun s l => s.modLaunch l (fun x => { x with suspect := true })) s
      let s := s.modCore core (fun c => { c with scanning := false })
      if s.injected cd then .next s.certifyAll.seek.bump
      else
        let s := { s with rel := { s.rel with remap := retireUnit s.rel.remap (64 * cd) 64 (core % 32) } }
        .next ((s.retired5 9 cd (core % 32) 0).certifyAll).seek.bump

/-! ### Repair (R428) -/

/-- DRAM_ROW_REPAIR: a row's contents, poison with them, are on a spare row; no address changes. -/
def execDramRowRepair (stack row spare : Nat) (s : State) : Host.Outcome State Fault Refusal :=
  if 8 ≤ stack then .next s
  else
    let s := { s with mems := { s.mems with rowMap := Map.insert s.mems.rowMap (stack * 2 ^ 32 + row) spare },
                      rel := { s.rel with rowErrs := Map.erase s.rel.rowErrs (stack * 2 ^ 27 + row) } }
    .next (s.retired5 6 stack 0 (stack * 2 ^ 38 + row * 2048))
/-- DRAM_LAYER_FAIL: the layer is marked failed, and the stack runs on. -/
def execDramLayerFail (stack layer : Nat) (s : State) : Host.Outcome State Fault Refusal :=
  if 8 ≤ stack ∨ 8 ≤ layer then .next s
  else .next (({ s with mems := { s.mems with layers := NatSet.add s.mems.layers (8 * stack + layer) } } : State).retired5 6 stack 0 0)

/-- The ordinary pages that lie on a stack. -/
def State.pagesOn (s : State) (stack : Nat) : List (Nat × Nat) :=
  s.tr.polder.flatMap (fun q =>
    (q.2.leaves.filterMap (fun l =>
      let a := entryAddr l.entry
      if bitsOf l.entry 56 4 = 0 ∧ a / 2 ^ 38 = stack then some (a, levelSize l.level) else none)) ++
    (q.2.s2dws.filterMap (fun e => if bitsOf e.2 56 1 = 0 ∧ dwsBack e.2 / 2 ^ 38 = stack then some (dwsBack e.2, 65536) else none)))
/-- DRAM_STACK_FAIL: majority copies on the stack are failed, ordinary pages poisoned, and phases that are now short of copies end
(R97, R103). -/
def execDramStackFail (stack : Nat) (s : State) : Host.Outcome State Fault Refusal :=
  if 8 ≤ stack then .next s
  else
    let descs := s.tr.polder.flatMap (fun q => q.2.majDesc.map (·.2))
    let s := { s with mems := { s.mems with deadStk := NatSet.add s.mems.deadStk stack } }
    let s := descs.foldl (fun s d => (List.range (s.copyN d)).foldl (fun s k =>
      if bitsOf (s.copyWord d k) 56 3 = stack then s.setCopySt d k 1 else s) s) s
    let s := (s.pagesOn stack).foldl (fun s r => s.poisonPut { kind := 0, addr := r.1, ipa := 0 } r.2) s
    .next (s.shortCells.retired5 6 stack 0 0)

/-- DWS_FRAME_RETIRE: what the frame holds moves to another, the frame is unusable, and the owner's window shrinks by one free frame. -/
def execDwsFrameRetire (cd frame dest : Nat) (s : State) : Host.Outcome State Fault Refusal :=
  if 8 ≤ cd ∨ 16384 ≤ frame ∨ NatSet.mem s.mems.badFrm (16384 * cd + frame) then .next s
  else
    let done := fun (s : State) =>
      ({ s with mems := { s.mems with badFrm := NatSet.add s.mems.badFrm (16384 * cd + frame) } } : State).retired5 5 cd 0 (cd * 2 ^ 30 + frame * 65536)
    match s.ownerOf cd with
    | none => .next (done s)
    | some p =>
      let res := (s.xlat p).residents cd
      let ok := decide (dest < 16384) && dest != frame && !res.any (fun q => q.2 == dest) && !NatSet.mem s.mems.badFrm (16384 * cd + dest)
      let s := match res.find? (fun q => q.2 == frame) with
        | some q =>
          let e := Map.get (s.xlat p).s2dws 0 q.1
          if ok then
            let e' := withFrame e true dest
            (s.movePlace { kind := 3, addr := dwsPa e, ipa := 0 } { kind := 3, addr := dwsPa e', ipa := 0 } 65536).setDws2 p q.1 e' false
          else s.evictFrame p q.1
        | none => s
      let out := ((s.xlat p).freeFrames.filter (fun f => (s.xlat p).frameCd f == cd)).getLast?
      let s := match out with
        | some f => s.modXlat p (fun x => { x with window := NatSet.del x.window f })
        | none => s
      .next (done s)

/-- LINK_LANE_SPARE: one of a link's two spare lanes takes a lane's place. -/
def execLinkLaneSpare (link lane : Nat) (s : State) : Host.Outcome State Fault Refusal :=
  let used := (s.fab.lanesBad.filter (fun q => q.1 / 4096 == link)).length
  if 2 ≤ used ∨ 4096 ≤ lane ∨ NatSet.mem s.fab.lanesBad (4096 * link + lane) then .next s
  else .next (({ s with fab := { s.fab with lanesBad := NatSet.add s.fab.lanesBad (4096 * link + lane) } } : State).next
    (.errorReport (s.mkReport 5 8 0 link 0 none)))
/-- FLIT_CRC_RETRY: a flit whose CRC fails is sent again (R405). -/
def execFlitCrcRetry (link : Nat) (s : State) : Host.Outcome State Fault Refusal :=
  .next (s.flitRetry link)
/-- FABRIC_PORT_RETIRE: a port that has failed three retrainings is retired, and its traffic goes through the others. -/
def execFabricPortRetire (port : Nat) (s : State) : Host.Outcome State Fault Refusal :=
  if 16 ≤ port ∨ !(s.fab.portUp.getD port false) then .next s
  else .next (({ s with fab := { s.fab with portUp := s.fab.portUp.set port false, retrain := s.fab.retrain.set port 3 } } : State).next
    (.errorReport (s.mkReport 5 8 0 port 0 none)))
/-- HOST_LINK_DOWN: traffic continues on the other link (R404). -/
def execHostLinkDown (link : Nat) (s : State) : Host.Outcome State Fault Refusal :=
  .next { s with fab := { s.fab with hostUp := s.fab.hostUp.set link false } }

/-! ### Virtual channels (R420, R421) -/

/-- A channel's weight. -/
def weightOf (w : Word) (ch : Nat) : Nat := max 1 (bitsOf w (8 * (ch - 2)) 8)
/-- A channel has a flit ready and a free slot. -/
def Hop.may (h : Hop) (ch : Nat) : Bool := decide (0 < h.ready.getD ch 0) && decide (0 < h.credits.getD ch 0)

/-- The grant of the weighted round-robin: the channel, and the turn after it. A turn takes its weight when it begins. -/
def Hop.robin (w : Word) : Nat → Hop → Option (Nat × Hop)
  | 0, _ => none
  | n + 1, h =>
    let h := if h.used = 0 then { h with quota := weightOf w h.turn } else h
    if h.may h.turn && decide (h.used < h.quota) then some (h.turn, { h with used := h.used + 1 })
    else Hop.robin w n { h with turn := if h.turn = 4 then 2 else h.turn + 1, used := 0 }

/-- The channel that an arbiter grants. -/
def Hop.pick (w : Word) (h : Hop) : Option (Nat × Hop) :=
  if h.may 0 then some (0, h)
  else match (List.range 5).find? (fun ch => h.may ch && decide (256 ≤ h.passed.getD ch 0)) with
    | some ch => some (ch, h)
    | none => if h.may 1 then some (1, h) else Hop.robin w 4 h

/-- The counters after a grant. -/
def Hop.grant (h : Hop) (ch : Nat) : Hop :=
  { h with ready := h.ready.set ch (h.ready.getD ch 0 - 1), credits := h.credits.set ch (h.credits.getD ch 0 - 1),
           passed := (List.range 5).map (fun c => if c != ch && h.may c then h.passed.getD c 0 + 1 else 0), granted := ch :: h.granted.take 1023 }

/-- HOP_ARBITRATION: one flit or beat is granted; then the receiver may report a slot freed in each channel, and the hop arbitrates in
its next cycle while it has something ready. -/
def execHopArbitration (k : Nat) (s : State) : Host.Outcome State Fault Refusal :=
  let h := Map.get s.fab.hops Hop.idle k
  let h := match h.pick s.fab.weights with
    | some (ch, h') => h'.grant ch
    | none => h
  let h := { h with credits := (List.range 5).map (fun c => if h.credits.getD c 0 < 8 ∧ s.choose (2 ^ 30 + 16 + c) then h.credits.getD c 0 + 1
                                                          else h.credits.getD c 0) }
  let s := { s with fab := { s.fab with hops := Map.insert s.fab.hops k h } }
  .next (if h.ready.any (fun n => decide (0 < n)) then s.after 1 (.hopArbitration k) else s).bump

/-- `qos_weights`: a reserved bit drops the write. -/
def execQosWeights (x : Word) (s : State) : Host.Outcome State Fault Refusal :=
  .next (if bitsOf x 24 40 = 0 then { s with fab := { s.fab with weights := x } } else s)

/-! ### The error injector (R422, R429, R430) -/

/-- A write to an injector register: dropped and counted in a polder that is not flagged for test. -/
def State.injWrite (s : State) (vf : Nat) (ok : Bool) (f : Polder → Polder) : Host.Outcome State Fault Refusal :=
  s.vfWrite vf (ok && (s.polder? (vf - 1)).any (fun p => p.test)) (fun p s => s.modPolder p f)

/-- `inj_seed`. -/
def execInjSeed (vf : Nat) (x : Word) (s : State) : Host.Outcome State Fault Refusal :=
  s.injWrite vf true (fun p => { p with injSeed := if x = 0 then injSeed0 else x })
/-- `inj_rate`. -/
def execInjRate (vf : Nat) (x : Word) (s : State) : Host.Outcome State Fault Refusal :=
  s.injWrite vf (bitsOf x 32 32 == 0) (fun p => { p with injRate := x })
/-- `inj_ctl`, whose bits 7:6 read as zero (R5); the count of injected errors starts afresh. -/
def execInjCtl (vf : Nat) (x : Word) (s : State) : Host.Outcome State Fault Refusal :=
  s.injWrite vf (bitsOf x 10 54 == 0) (fun p => { p with injCtl := x &&& ~~~0xC0, injCount := 0 })

/-- What a read of an injector register at an offset of a VF's BAR 0 gives: zero in a polder that is not flagged for test. -/
def State.readInjReg (s : State) (vf off : Nat) : Word :=
  match s.polder? (vf - 1) with
  | some p => if !p.test then 0 else match off with
    | 0x30100 => p.injSeed
    | 0x30108 => p.injRate
    | 0x30110 => p.injCtl
    | 0x30118 => p.injCount
    | _ => 0
  | none => 0

/-- One step of the generator. -/
def injStep (x : Word) : Word :=
  let x := x ^^^ (x <<< 13)
  let x := x ^^^ (x >>> 7)
  x ^^^ (x <<< 17)

/-- The bit of `inj_ctl` that enables a store. -/
def enabledBy : ErrTarget → Option Nat
  | .vreg .. | .otherReg .. => some 1
  | .shared .. => some 2
  | .dws .. | .spill .. => some 3
  | .dram _ => some 4
  | .link _ => some 5
  | _ => none
/-- A store whose code corrects two bits. -/
def corrects2 : ErrTarget → Bool
  | .vreg .. | .dram _ => true
  | _ => false
/-- The write of a code word is dropped: what the unit holds is what it held before, free to this step. -/
def State.dropWord (s : State) (e : ErrTarget) : State :=
  let bytes := fun (n : Nat) => (List.range n).map s.freeByte
  match e with
  | .vreg g r => s.modGroup g (fun x => x.putV r (BitVec.allOnes 32) (fun l => s.freeW (2 ^ 26 + l)))
  | .otherReg g 1 r => s.modGroup g (fun x => x.putS r (s.freeW (2 ^ 26)))
  | .otherReg g 2 r => s.modGroup g (fun x => x.putP r (BitVec.allOnes 32) (fun l => s.choose (2 ^ 26 + l)))
  | .otherReg g 3 r => s.modGroup g (fun x => x.putJ r ((s.freeW (2 ^ 26)).setWidth 32))
  | .otherReg g _ r => s.modGroup g (fun x => x.putB r (BitVec.ofNat 256 (numOf (bytes 32))))
  | .shared b o => s.modBlock b (fun x => { x with shared := Mem.write x.shared (o / 8 * 8) (bytes 8) })
  | .dws cd a => s.writeAt { kind := 3, addr := cd * 2 ^ 30 + a % 2 ^ 30 / 8 * 8, ipa := 0 } (bytes 8)
  | .spill g o => s.modGroup g (fun x => { x with spill := Mem.write x.spill (o / 8 * 8) (bytes 8) })
  | .dram a => s.writeAt { kind := 0, addr := a / 64 * 64, ipa := 0 } (bytes 64)
  | _ => s

/-- What an injected error of a kind does: it is handled as a real one. -/
def State.inject (s : State) (kind : Nat) (e : ErrTarget) : State :=
  match e, kind with
  | .link n, _ => s.flitRetry n
  | _, 0 => s.corrected e
  | _, 1 => if corrects2 e then s.corrected e else s.uncorrectable e
  | _, 2 => s.uncorrectable e
  | _, _ => s.dropWord e

/-- ERROR_INJECT_STEP: an eligible event of a polder flagged for test. -/
def execErrorInjectStep (vf : Nat) (e : ErrTarget) (s : State) : Host.Outcome State Fault Refusal :=
  match s.polder? (vf - 1) with
  | none => .next s
  | some p =>
    let (_, _, _, _, owner) := s.errorAt e
    let mine := match e with
      | .link _ => true
      | _ => owner == some (vf - 1)
    let on := p.injCtl.getLsbD 0 && (enabledBy e).any (fun k => p.injCtl.getLsbD k)
    if vf = 0 || !p.test || !on || !mine then .next s
    else
      let x := injStep p.injSeed
      let s := s.modPolder (vf - 1) (fun p => { p with injSeed := x })
      if bitsOf x 32 32 < p.injRate.toNat then
        .next ((s.modPolder (vf - 1) (fun p => { p with injCount := p.injCount + 1 })).inject (bitsOf p.injCtl 8 2) e).bump
      else .next s

/-! ### Fatal errors and the dump (R431) -/

/-- `dump_base`. -/
def execDumpBase (x : Word) (s : State) : Host.Outcome State Fault Refusal := .next { s with rel := { s.rel with dumpBase := x } }

/-- The device section of a dump: the last reports, the remap table and the counter totals. -/
def State.dumpDevice (s : State) : List Byte :=
  (s.ctl.reports.flatMap (fun r => (reportWords r).flatMap (fun w => bytesOf 8 w.toNat))) ++ s.remapBytes ++
  (s.tele.counters.flatMap (fun q => bytesOf 8 q.1 ++ bytesOf 4 q.2.toNat))
/-- The section of a polder: its block images, its rings' states and its reports, sealed. -/
def State.dumpPolder (s : State) (p : Nat) (x : Polder) : List Byte :=
  let blocks := ((s.launchesOf p).flatMap s.blocksOf)
  let rings := s.cores.rings.filter (fun q => blocks.contains q.2.blk)
  let body := blocks.flatMap (fun b => s.blockImage b) ++ rings.flatMap (fun q => s.ringImage q.2) ++
    ((s.ctl.reports.filter (fun r => r.polder == some p)).flatMap (fun r => (reportWords r).flatMap (fun w => bytesOf 8 w.toNat)))
  sealed 0x5344 x (x.sealSeq + 1) body
/-- Write the sections that fit, and mark those that do not. -/
def dumpSections (room : Nat) : List (List Byte) → Nat → List Byte × Nat
  | [], _ => ([], 0)
  | d :: ds, i =>
    if d.length ≤ room then
      let r := dumpSections (room - d.length) ds (i + 1)
      (d ++ r.1, r.2)
    else
      let r := dumpSections room ds (i + 1)
      (r.1, r.2 + 2 ^ i)
/-- The dump: a header of 128 bytes with the clock, the fatal report, the number of sections and a mask of those left out. -/
def State.dump (s : State) (r : Report) : State :=
  let size := bitsOf s.rel.dumpBase 0 12 * 2 ^ 20
  if size = 0 then s
  else
    let secs := s.dumpDevice :: s.trust.polder.map (fun q => s.dumpPolder q.1 q.2)
    let out := dumpSections (size - 128) secs 0
    let head := bytesOf 2 0x4455 ++ bytesOf 2 1 ++ zeros 4 ++ bytesOf 8 s.ag.clock ++ (reportWords r).flatMap (fun w => bytesOf 8 w.toNat) ++
      bytesOf 8 secs.length ++ bytesOf 8 out.2 ++ zeros 64
    { s with mems := { s.mems with host := Mem.write s.mems.host (bitsOf s.rel.dumpBase 12 44 * 4096) (head ++ out.1) },
             trust := { s.trust with polder := s.trust.polder.map (fun (q : Nat × Polder) => (q.1, { q.2 with sealSeq := q.2.sealSeq + 1 })) } }

/-- FATAL_ERROR: the arbiter takes no further event, the dump is written, and the device accepts no command until a cold reset. -/
def execFatalError (r : Report) (s : State) : Host.Outcome State Fault Refusal :=
  if s.ctl.arbDead then .next s
  else
    let s := (s.reported r).dump r
    .next { s with ctl := { s.ctl with arbDead := true, ready := false } }

end Sys2Proof.Machine
end

