-- ==== Sys2Proof/Machine/Bringup.lean ====
section
/-! DEFINITION. Resets and bring-up (R412), the control complexes' update and takeover (R408 to R410), and power and cooling (R413, R414). -/

namespace Sys2Proof.Machine

/-! ### The complexes (R408 to R410) -/

/-- The complex that is not active. -/
def State.standby (s : State) : Nat := 1 - s.ctl.active

/-- The firmware image of a complex; the empty one stands for the factory's. -/
def State.fwOf (s : State) (c : Nat) : List Byte := Map.get s.ctl.fw [] c

/-- A complex boots an image: its SRAM holds it, and its cores start (R410, R412). -/
def State.boot (s : State) (c : Nat) (image : List Byte) : State :=
  let bytes := Mem.write [] 0 (image.take sramSize)
  { s with
    mems := if c = 0 then { s.mems with sramA := bytes } else { s.mems with sramB := bytes }
    ctl := { s.ctl with fw := if image.isEmpty then Map.erase s.ctl.fw c else Map.insert s.ctl.fw c image,
                        stopped := NatSet.del (NatSet.del s.ctl.stopped (2 * c)) (2 * c + 1) }
    work := { s.work with groups := Map.insert (Map.insert s.work.groups (2 * c + 1) (Group.control (2 * c))) (2 * c + 2) (Group.control (2 * c + 1)) } }

/-- Boxes 0, 1 and 3 of a table of the mailboxes move from each core of complex c to the core of the same number in the other. -/
def moveBoxes {α : Type} (c : Nat) (m : Map α) : Map α :=
  let owned := fun (k : Nat) => k % 4 != 2
  let from_ := fun (k : Nat) => k / 8 == c
  let dest := fun (k : Nat) => if from_ k then k % 8 + 8 * (1 - c) else k
  (m.filter (fun q => !owned q.1 || from_ q.1)).foldl (fun (t : Map α) q => Map.insert t (if owned q.1 then dest q.1 else q.1) q.2) []

/-- The ownership of the boxes moves to the standby complex: what is queued stays queued (R410). -/
def State.takeover (s : State) : State :=
  let c := s.ctl.active
  let s := { s with
    ctl := { s.ctl with active := 1 - c, updating := false, boxes := moveBoxes c s.ctl.boxes, waiting := moveBoxes c s.ctl.waiting,
                        seqs := moveBoxes c s.ctl.seqs, tableVer := s.ctl.mirrored.getD s.ctl.tableVer, mirrored := none }
    trust := { s.trust with polder := s.trust.polder.map (fun (q : Nat × Polder) =>
      (q.1, { q.2 with vf := { q.2.vf with stopping := q.2.vf.stopping.map (fun k => k % 2 + 2 * (1 - c)) } })) } }
  (s.wake (2 * (1 - c) + 1)).wake (2 * (1 - c) + 2)

/-- STANDBY_TAKEOVER: the standby complex takes over when one of its cores runs and either an update's table has been accepted or a core of
the active complex has stopped (R272, R410). -/
def execStandbyTakeover (s : State) : Host.Outcome State Fault Refusal :=
  let able := s.coreRuns (2 * s.standby) || s.coreRuns (2 * s.standby + 1)
  let due := (s.ctl.updating && s.ctl.mirrored.isSome) || !s.coreRuns (2 * s.ctl.active) || !s.coreRuns (2 * s.ctl.active + 1)
  .next (if able && due && !s.ctl.arbDead then s.takeover else s)

/-- LIVE_UPDATE: an image that verifies is loaded into the standby complex, which boots (R410). -/
def execLiveUpdate (image : List Byte) (s : State) : Host.Outcome State Fault Refusal :=
  s.command (Config.fwGood image && !s.ctl.updating) (fun s =>
    let s := s.boot s.standby image
    { s with ctl := { s.ctl with updating := true, mirrored := none } })

/-- The version of the state table of the standby's own firmware (R409). -/
def State.ownTable (s : State) : Nat × Nat := if (s.fwOf s.standby).isEmpty then s.ctl.tableVer else Config.fwTable (s.fwOf s.standby)

/-- STATE_TABLE_IMPORT: the importing complex accepts a table of its own major version and of no later minor one. In an update it then takes
over; a refused table ends the update, the importing complex stays standby, and the old complex resumes and reports it (R409, R410). -/
def execStateTableImport (major minor : Nat) (s : State) : Host.Outcome State Fault Refusal :=
  let own := s.ownTable
  .next (if major = own.1 ∧ minor ≤ own.2 then
      let s := { s with ctl := { s.ctl with mirrored := some (major, minor) } }
      if s.ctl.updating then s.takeoverSoon else s
    else if s.ctl.updating then ({ s with ctl := { s.ctl with updating := false } } : State).finishCmd .refused 0
    else s)

/-! ### Resets (R412) -/

/-- A cold reset: what outlives it is the remap table and the map of CDs in fuses, the memories of the host and of peers, the trust root's
counts of handles and keys with the images it has sealed, and the world outside. -/
def State.cold (s : State) : State :=
  let r := State.reset
  { r with
    ag := { r.ag with cycle := s.ag.cycle, inputs := s.ag.inputs, free := s.ag.free + 1, nextId := s.ag.nextId }
    mems := { r.mems with host := s.mems.host, peer := s.mems.peer, rowMap := s.mems.rowMap, badFrm := s.mems.badFrm }
    trust := { r.trust with nextHnd := s.trust.nextHnd, keyDraws := s.trust.keyDraws, images := s.trust.images }
    ctl := { r.ctl with fw := s.ctl.fw }
    rel := { r.rel with remap := s.rel.remap, cdMap := s.rel.cdMap } }

/-- Bring-up has stopped at a step: what later steps would have started does not run, and the PF answers only SPDM. -/
def State.stopAt (s : State) (step : Nat) : State :=
  { s with
    ctl := { s.ctl with ready := false, failStep := some step }
    work := if step ≤ 4 then { s.work with groups := [] } else s.work
    fab := { s.fab with domain := if step ≤ 7 then [] else s.fab.domain }
    ag := { s.ag with atClock := [] } }

/-- COLD_RESET: bring-up from its first step; it stops at a step that fails. -/
def execColdReset (failStep : Option Nat) (s : State) : Host.Outcome State Fault Refusal :=
  let t := s.cold
  let t := (t.boot 0 (t.fwOf 0)).boot 1 (t.fwOf 1)
  match failStep with
  | some k => .next (if 1 ≤ k ∧ k ≤ 8 then t.stopAt k else t)
  | none => .next t

/-- WARM_RESET of the PF: every polder is torn down, then the steps from 4 on are repeated. After a dump the device waits for a cold
reset (R431). -/
def execWarmReset (s : State) : Host.Outcome State Fault Refusal :=
  if s.ctl.arbDead then .next s
  else
    let s := (s.trust.polder.map (·.1)).foldl State.teardown s
    let s := (s.boot 0 (s.fwOf 0)).boot 1 (s.fwOf 1)
    .next { s with
      ctl := { s.ctl with active := 0, boxes := [], waiting := [], seqs := [], updating := false, mirrored := none, fwd := [], piece0 := [], queries := [],
                          ready := true, failStep := none }
      fab := { s.fab with hostUp := [true, true], domain := State.reset.fab.domain, weights := State.reset.fab.weights }
      rel := { s.rel with dumpBase := 0, pwrCap := 0 } }

/-! ### Power and cooling (R413, R414) -/

/-- `pwr_cap`: a reserved bit drops the write. -/
def execPwrCap (x : Word) (s : State) : Host.Outcome State Fault Refusal :=
  .next (if bitsOf x 16 48 = 0 then { s with rel := { s.rel with pwrCap := x } } else s)

/-- The cap in watts (R413). -/
def State.watts (s : State) : Nat :=
  let w := s.rel.pwrCap.toNat
  if w = 0 then 3200 else min 3200 (max 1600 w)

/-- The matrix engines issue in one cycle of 16 fewer. -/
def State.stepDown (s : State) : State := { s with rel := { s.rel with matLimit := max 1 (s.rel.matLimit - 1) } }

/-- POWER_CAP_EXCEEDED: power has been above the cap for 10 ms, and the manager begins to limit the matrix engines. -/
def execPowerCapExceeded (s : State) : Host.Outcome State Fault Refusal := .next ({ s with rel := { s.rel with overCap := true } } : State).stepDown
/-- POWER_STEP_DOWN: power is still above the cap after another 1 ms. -/
def execPowerStepDown (s : State) : Host.Outcome State Fault Refusal := .next (if s.rel.overCap then s.stepDown else s)
/-- POWER_STEP_UP: power has been 5 % under the cap for 10 ms, and the matrix engines issue in one cycle of 16 more. -/
def execPowerStepUp (s : State) : Host.Outcome State Fault Refusal :=
  .next { s with rel := { s.rel with overCap := false, matLimit := min 16 (s.rel.matLimit + 1) } }

/-- THERMAL_THROTTLE: a stack's refresh doubles above 85 °C, and at a junction of 105 °C the arithmetic clock falls by another 5 % until the
junction has cooled. -/
def execThermalThrottle (stack junction temp : Nat) (s : State) : Host.Outcome State Fault Refusal :=
  .next { s with rel := { s.rel with
    refresh2 := if 8 ≤ stack then s.rel.refresh2 else if 85 < temp then NatSet.add s.rel.refresh2 stack else NatSet.del s.rel.refresh2 stack,
    clkSteps := if 105 ≤ junction then min 19 (s.rel.clkSteps + 1) else 0 } }

end Sys2Proof.Machine
end

