-- ==== Sys2Proof/Machine/Uniform.lean ====
section
/-! DEFINITION. Uniform instructions and special registers (R29, R169 to R173, R271). -/

namespace Sys2Proof.Machine

/-- A uniform result. -/
def sres (d : BitVec 8) (v : Word) : Res := { s := [(d.toNat, v)] }

/-- `uadd` (R169). -/
def execUadd (h : Hdr) (sub : Bool) (d a : BitVec 8) (b : USrc) (s : State) : Host.Outcome State Fault Refusal :=
  s.compute h (.uadd h sub d a b) (fun s x _ =>
    let p := s.getS x a.toNat
    let q := s.uVal x b
    sres d (if sub then p - q else p + q))
/-- The product forms of `umul`. -/
def umul64 (mode : BitVec 4) (p q : Word) : Word :=
  match mode.toNat with
  | 0 => p * q
  | 1 => BitVec.ofNat 64 (p.toNat * q.toNat / 2 ^ 64)
  | _ => BitVec.ofInt 64 (p.toInt * q.toInt / ((2 ^ 64 : Nat) : Int))
/-- `umul`. -/
def execUmul (h : Hdr) (mode : BitVec 4) (d a : BitVec 8) (b : USrc) (s : State) : Host.Outcome State Fault Refusal :=
  s.compute h (.umul h mode d a b) (fun s x _ => sres d (umul64 mode (s.getS x a.toNat) (s.uVal x b)))
/-- `utern`. -/
def execUtern (h : Hdr) (d a : BitVec 8) (b : USrc) (c : BitVec 7) (table : BitVec 8) (s : State) :
    Host.Outcome State Fault Refusal :=
  s.compute h (.utern h d a b c table) (fun s x _ => sres d (tern64 table (s.getS x a.toNat) (s.uVal x b) (s.getS x c.toNat)))
/-- The shifts of R159 at 64 bits. -/
def ushift64 (mode : BitVec 4) (p q : Word) : Word :=
  BitVec.ofNat 64 (match mode.toNat with
    | 0 => shlE 64 p.toNat q.toNat
    | 1 => shrE 64 p.toNat q.toNat
    | 2 => sarE 64 p.toNat q.toNat
    | 3 => rotlE 64 p.toNat q.toNat
    | _ => rotrE 64 p.toNat q.toNat)
/-- `ushift`. -/
def execUshift (h : Hdr) (mode : BitVec 4) (d a : BitVec 8) (b : USrc) (s : State) : Host.Outcome State Fault Refusal :=
  s.compute h (.ushift h mode d a b) (fun s x _ => sres d (ushift64 mode (s.getS x a.toNat) (s.uVal x b)))
/-- `ucmp`. -/
def execUcmp (h : Hdr) (cond : BitVec 3) (sgn : Bool) (d a : BitVec 8) (b : USrc) (s : State) : Host.Outcome State Fault Refusal :=
  s.compute h (.ucmp h cond sgn d a b) (fun s x _ =>
    let num := fun (w : Word) => if sgn then w.toInt else (w.toNat : Int)
    sres d (if condHolds cond (num (s.getS x a.toNat)) (num (s.uVal x b)) then 1 else 0))
/-- `umov` (R170). -/
def execUmov (h : Hdr) (d a : BitVec 8) (s : State) : Host.Outcome State Fault Refusal :=
  s.compute h (.umov h d a) (fun s x _ => sres d (s.getS x a.toNat))
/-- `umov.sx`. -/
def execUmovSx (h : Hdr) (d : BitVec 8) (imm : BitVec 32) (s : State) : Host.Outcome State Fault Refusal :=
  s.compute h (.umovSx h d imm) (fun _ _ _ => sres d (imm.signExtend 64))
/-- `umov.zx`. -/
def execUmovZx (h : Hdr) (d : BitVec 8) (imm : BitVec 32) (s : State) : Host.Outcome State Fault Refusal :=
  s.compute h (.umovZx h d imm) (fun _ _ _ => sres d (imm.setWidth 64))
/-- `umov.hi`. -/
def execUmovHi (h : Hdr) (d : BitVec 8) (imm : BitVec 32) (s : State) : Host.Outcome State Fault Refusal :=
  s.compute h (.umovHi h d imm) (fun s x _ => sres d (imm ++ (s.getS x d.toNat).setWidth 32))
/-- The lowest lane of a mask. -/
def lowest (m : LaneMask) : Nat := (lanesOf m).headD 0
/-- `umov.v`: the value of the lowest lane of the executing set. -/
def execUmovV (h : Hdr) (d a : BitVec 8) (s : State) : Host.Outcome State Fault Refusal :=
  s.compute h (.umovV h d a) (fun s x m => sres d (s.getV x a.toNat (lowest m)))
/-- `upred.set` (R171). -/
def execUpredSet (h : Hdr) (d a : BitVec 8) (s : State) : Host.Outcome State Fault Refusal :=
  s.compute h (.upredSet h d a) (fun s x _ =>
    let v := s.getS x a.toNat
    { p := [(d.toNat, fun l => v.getLsbD l)] })
/-- `upred.get`. -/
def execUpredGet (h : Hdr) (d a : BitVec 8) (s : State) : Host.Outcome State Fault Refusal :=
  s.compute h (.upredGet h d a) (fun s x _ => sres d ((s.getP x a.toNat).setWidth 64))
/-- `upred.nz`. -/
def execUpredNz (h : Hdr) (d a : BitVec 8) (s : State) : Host.Outcome State Fault Refusal :=
  s.compute h (.upredNz h d a) (fun s x _ =>
    let v := s.getS x a.toNat
    { p := [(d.toNat, fun _ => decide (v ≠ 0))] })

/-! ### Special registers (R29) -/

/-- What a special register reads as in a lane (R29, R172). -/
def State.special (s : State) (x : Group) (n : BitVec 8) (l : Nat) : Word :=
  let b := s.block x.blk
  let y := x.lane l
  match n.toNat with
  | 0x00 => BitVec.ofNat 64 l
  | 0x01 => BitVec.ofNat 64 (l / 4)
  | 0x02 => BitVec.ofNat 64 x.gid
  | 0x03 => b.id.setWidth 64
  | 0x04 => (s.cluster b.cluster).id.setWidth 64
  | 0x05 => (s.launch b.launch).id.setWidth 64
  | 0x06 => (s.cluster b.cluster).lineage
  | 0x07 => BitVec.ofNat 64 ((s.launch b.launch).polder % 8)
  | 0x08 => BitVec.ofNat 64 s.ag.clock
  | 0x09 => BitVec.ofNat 64 b.rank
  | 0x10 => y.trapCause.setWidth 64
  | 0x11 => y.trapPc
  | 0x12 => y.trapAddr
  | 0x18 => y.fpStatus.setWidth 64
  | _ => y.fpMode.setWidth 64

/-- The registers that only system mode reads (R172). -/
def readNeedsSystem (n : BitVec 8) : Bool := n == 0x10 || n == 0x12
/-- The registers that only system mode writes (R29). -/
def writeNeedsSystem (n : BitVec 8) : Bool := n == 0x10 || n == 0x12

/-- `sreg` (R172). -/
def execSreg (h : Hdr) (d selr : BitVec 8) (s : State) : Host.Outcome State Fault Refusal :=
  s.perform h (.sreg h d selr) (fun x g m s =>
    if readNeedsSystem selr && !x.system then s.trapAll g m .priv (fun _ => 0)
    else (s.give g h m (latency (.sreg h d selr)) { v := [(d.toNat, fun l => s.special x selr l)] }).advance g m)
/-- `sreg.u`: the value that the lowest lane sees. -/
def execSregU (h : Hdr) (d selr : BitVec 8) (s : State) : Host.Outcome State Fault Refusal :=
  s.perform h (.sregU h d selr) (fun x g m s =>
    if readNeedsSystem selr && !x.system then s.trapAll g m .priv (fun _ => 0)
    else (s.give g h m (latency (.sregU h d selr)) (sres d (s.special x selr (lowest m)))).advance g m)

/-- A lane with a special register written; bits above its width are ignored (R29, R271). -/
def Lane.setSpecial (y : Lane) (n : BitVec 8) (v : Word) : Lane :=
  match n.toNat with
  | 0x10 => { y with trapCause := v.setWidth 32 }
  | 0x11 => { y with trapPc := v }
  | 0x12 => { y with trapAddr := v }
  | 0x18 => { y with fpStatus := v.setWidth 5 }
  | 0x19 => { y with fpMode := v.setWidth 2 }
  | _ => y
/-- `sset` (R29, R271). -/
def execSset (h : Hdr) (selr : BitVec 8) (a : Src) (s : State) : Host.Outcome State Fault Refusal :=
  s.perform h (.sset h selr a) (fun x g m s =>
    if writeNeedsSystem selr && !x.system then s.trapAll g m .priv (fun _ => 0)
    else (s.modLanes g m (fun l y => y.setSpecial selr (s.srcVal x a l))).advance g m)

end Sys2Proof.Machine
end

