-- ==== Sys2Proof/Machine/Memory.lean ====
section
/-! DEFINITION. Loads, stores, atomics, fences, records and the spill stack (R33 to R37, R195 to R203). -/

namespace Sys2Proof.Machine

/-! ### Records and addresses (R33 to R36) -/

/-- The fields of a buffer record. -/
def recBase (b : BitVec 256) : Word := b.extractLsb' 0 64
/-- `stride`. -/
def recStride (b : BitVec 256) : Nat := (b.extractLsb' 64 32).toNat
/-- `extent`. -/
def recExtent (b : BitVec 256) : Nat := (b.extractLsb' 96 32).toNat
/-- `swizzle`. -/
def recSwizzle (b : BitVec 256) : Word := (b.extractLsb' 128 16).setWidth 64
/-- `space`. -/
def recSpace (b : BitVec 256) : Nat := (b.extractLsb' 144 4).toNat
/-- `oob_trap`. -/
def recTraps (b : BitVec 256) : Bool := b.getLsbD 148
/-- A record that traps whenever it is used (R33). -/
def recBad (b : BitVec 256) : Bool := decide (1 < recSpace b) || decide (b.extractLsb' 149 107 ≠ 0)

/-- Lanes of a mask whose record, as each reads it (R134), passes a test. -/
def State.recLanes (s : State) (x : Group) (m : LaneMask) (rc : Nat) (ok : BitVec 256 → Bool) : LaneMask :=
  m &&& maskOf (fun l => ok (s.getB x rc l))
/-- A record that an access to a space may use. -/
def recFits (sp : Nat) (b : BitVec 256) : Bool := !recBad b && decide (recSpace b = sp)

/-- What an access of one lane comes to before it is made. -/
inductive Reach where
  | trap (c : Cause) (addr : Word)
  | none_                          -- out of bounds without a trap, or a helper lane whose element faults
  | park (pages : List Nat)        -- the intermediate frames of its range
  | at_ (va : Nat) (bytes : List Nat)
  deriving DecidableEq, Repr

/-- The element index and its address, when it is in bounds (R34). -/
def elemAddr (b : BitVec 256) (i : Word) (off : BitVec 24) : Word × Option Word :=
  let e := i + off.signExtend 64
  let x := e ^^^ recSwizzle b
  if 0 ≤ e.toInt ∧ e.toInt < recExtent b ∧ 0 ≤ x.toInt ∧ x.toInt < recExtent b then
    (e, some (recBase b + BitVec.ofNat 64 (x.toNat * recStride b)))
  else (e, none)

/-- The translations of the DWS pages that a range touches, each with the lowest byte of the range in it (R36, R356). -/
def State.dwsRange (s : State) (p cd a w : Nat) (needs : List Need) : List (Nat × Except XFault Place) :=
  (unitsOf a w 65536).map (fun pg =>
    let va := max a (pg * 65536)
    (va, needs.foldl (fun r n =>
      match r with
      | .error f => if f.serv then (match s.dws cd p va n (some cd) with
          | .error f' => .error (if f'.serv then f else f')
          | .ok _ => .error f) else .error f
      | .ok _ => s.dws cd p va n (some cd)) (s.dws cd p va (needs.headD .r) (some cd))))

/-- A lane's access: bounds, alignment, allocation and translation, in the order of R34 to R36. -/
def State.reach (s : State) (x : Group) (g : Nat) (l : Nat) (b : BitVec 256) (i : Word) (off : BitVec 24) (w : Nat)
    (needs : List Need) : Reach :=
  let helper := (x.lane l).helper
  let no := fun (c : Cause) (a : Word) => if helper then Reach.none_ else Reach.trap c a
  match elemAddr b i off with
  | (e, none) => if recTraps b then no .bounds e else .none_
  | (_, some a) =>
    if a.toNat % min w 8 ≠ 0 then no .align a
    else if recSpace b = 0 then
      if (s.block x.blk).sharedSz < a.toNat + w then no .bounds a
      else .at_ a.toNat ((List.range w).map (a.toNat + ·))
    else if 2 ^ 40 ≤ a.toNat then no .dwsUnserviceable a
    else
      let rs := s.dwsRange (s.polderOf g) x.cd a.toNat w needs
      match rs.find? (fun q => match q.2 with
          | .error f => !f.serv
          | .ok _ => false) with
      | some q => no .dwsUnserviceable (BitVec.ofNat 64 q.1)
      | none =>
        if rs.any (fun q => match q.2 with
            | .error _ => true
            | .ok _ => false) then
          if helper then .none_
          else .park (rs.map (fun q => match q.2 with
            | .error f => f.page
            | .ok k => k.ipa / 65536))
        else .at_ a.toNat ((List.range w).map (fun i =>
          let v := a.toNat + i
          match rs.find? (fun q => decide (q.1 / 65536 = v / 65536)) with
          | some (_, .ok k) => k.ipa / 65536 * 65536 + v % 65536
          | _ => 0))

/-- An access that one lane makes. -/
structure Touch where
  lane  : Nat
  va    : Nat
  bytes : List Nat
  deriving DecidableEq, Repr

/-- The accesses of one instruction, sorted by what they come to. -/
structure Reached where
  traps : List (Nat × Cause × Word)
  parks : List (Nat × List Nat)
  touch : List Touch
  deriving DecidableEq, Repr

/-- The mask of a list of lanes. -/
def maskL (ls : List Nat) : LaneMask := maskOf (fun l => ls.contains l)
/-- The mask of accesses. -/
def touched (ts : List Touch) : LaneMask := maskL (ts.map (·.lane))

/-- The accesses of the lanes of a mask, each through the record and the index as it reads them. -/
def State.reachAll (s : State) (x : Group) (g : Nat) (m : LaneMask) (a : MAddr) (w : Nat) (needs : List Need) :
    Reached :=
  let rs := (lanesOf m).map (fun l => (l, s.reach x g l (s.getB x a.rc.toNat l) (s.ixVal x a.ix l) a.off w needs))
  { traps := rs.filterMap (fun q => match q.2 with
      | .trap c v => some (q.1, c, v)
      | _ => none),
    parks := rs.filterMap (fun q => match q.2 with
      | .park ps => some (q.1, ps)
      | _ => none),
    touch := rs.filterMap (fun q => match q.2 with
      | .at_ va bs => some { lane := q.1, va := va, bytes := bs }
      | _ => none) }

/-! ### The conflict detector and poison (R74, R75, R376) -/

/-- The first byte of an access that conflicts with another open region (R75). -/
def State.clashOf (s : State) (g sp : Nat) (t : Touch) (write atom : Bool) : Option Nat :=
  (t.bytes.zipIdx.find? (fun q => (s.conflict (.lane g t.lane) sp (s.detKey g sp) q.1 1 write atom).isSome)).map (fun q => t.va + q.2)
/-- Record an access in its lane's region; helper lanes are not recorded. -/
def State.recordTouch (s : State) (g sp : Nat) (t : Touch) (write atom : Bool) : State :=
  if (s.lane g t.lane).helper then s
  else t.bytes.foldl (fun s a => s.record (.lane g t.lane) sp (s.detKey g sp) a 1 write atom) s
/-- Turn the accesses that conflict into traps. -/
def State.screen (s : State) (g sp : Nat) (write : Touch → Bool) (atom : Bool) (r : Reached) : Reached :=
  let clash := fun (t : Touch) => if (s.lane g t.lane).helper then none else s.clashOf g sp t (write t) atom
  { r with traps := r.traps ++ r.touch.filterMap (fun t => (clash t).map (fun a => (t.lane, .mmConflict, BitVec.ofNat 64 a))),
           touch := r.touch.filter (fun t => (clash t).isNone) }
/-- An access that reads poison: a byte that the lane does not itself hold buffered. -/
def State.touchPoison (s : State) (g sp : Nat) (t : Touch) : Bool :=
  t.bytes.any (fun a => ((s.group g).buffered t.lane sp a).isNone && s.spacePoison g sp a 1)

/-- The physical address that a report names: a DWS byte's place, 0 elsewhere. -/
def State.reportAddr (s : State) (g sp : Nat) (t : Touch) : Nat :=
  if sp = 1 then ((s.dwsHome (s.polderOf g) (t.bytes.headD 0)).map (·.addr)).getD 0 else 0

/-! ### Port cycles (R36, R226) -/

/-- Banks of the 8-byte words of an access. -/
def Touch.words (t : Touch) : List Nat := (t.bytes.map (· / 8)).eraseDups
/-- The cycles of a shared access: the most lanes on one bank, one word counted once for a read. -/
def bankCycles (read : Bool) (ts : List Touch) : Nat :=
  let ws := ts.flatMap Touch.words
  let ws := if read then ws.eraseDups else ws
  (List.range 32).foldl (fun n b => max n (ws.filter (fun w => w % 32 == b)).length) 0
/-- The 128-byte lines of an access. -/
def touchLines (ts : List Touch) : List Nat := (ts.flatMap (fun t => t.bytes.map (· / 128))).eraseDups
/-- Keep the memory port busy, and count (R433); the cycles beyond the first. A spill stack outside its cache moves by lines, as
the DWS does. -/
def State.memPort (s : State) (g sp : Nat) (read byLine : Bool) (ts : List Touch) : Nat × State :=
  let n := if byLine then (touchLines ts).length else bankCycles read ts
  let part := (s.group g).part
  let p := s.part part
  let s := s.setPart part { p with busyMem := max p.busyMem (s.ag.cycle + n) }
  let s := if sp = 0 then (s.count part 0x0100 1).count part 0x0101 n else if sp = 1 then s.count part 0x0102 n else s
  let s := if sp = 1 then ts.foldl (fun s t => s.startWalk (s.polderOf g) (s.group g).cd (.lane g (bit1 t.lane)) true t.va) s else s
  (n - 1, s)
/-- The latency of a read of a space (R226). -/
def readLatency (sp extra : Nat) : Nat := if sp = 1 then near 11 180 else near 0 24 + extra
/-- The latency of an atomic. -/
def atomLatency (sp extra : Nat) : Nat := if sp = 1 then near 12 220 else near 2 40 + extra

/-! ### The end of an access -/

/-- The pages of the lanes that a service includes: in lane order, while they number at most 32 (R358). -/
def servicePages (parks : List (Nat × List Nat)) : List Nat :=
  parks.foldl (fun ps q =>
    let u := (ps ++ q.2).eraseDups
    if u.length ≤ 32 then u else ps) []

/-- Lanes that trap take their traps, lanes whose lines fault park, and their request joins the service of their CD (R53,
R358). -/
def State.settle (s : State) (g : Nat) (r : Reached) : State :=
  let s := if r.traps.any (fun q => q.2.1 == Cause.mmConflict) then s.count (s.group g).part 0x0104 1 else s
  let s := r.traps.foldl (fun s q => s.trap g q.1 q.2.1 q.2.2) s
  if r.parks.isEmpty then s
  else
    let m := maskL (r.parks.map (·.1))
    let s := s.queueService (s.group g).cd { polder := s.polderOf g, who := .lane g m, pages := servicePages r.parks, dws := true }
    (s.park g m).count (s.group g).part 0x0103 1

/-- Lanes that read poison consume it (R376). -/
def State.consumeTouch (s : State) (g sp : Nat) (ts : List Touch) : State :=
  match ts with
  | [] => s
  | t :: _ =>
    s.consume g (touched ts) (if sp = 2 then 4 else 1) (if sp = 0 then 4 else 5)
      (fun l => BitVec.ofNat 64 (((ts.find? (fun t => t.lane == l)).map (·.va)).getD 0)) (s.reportAddr g sp t)

/-- At a forced boundary a parked lane's restart PC is its own instruction, which has not performed (R53, R56). -/
def State.restartParked (s : State) (g : Nat) (r : Reached) : State :=
  s.modLanes g (maskL (r.parks.map (·.1))) (fun _ y => y.restartAt y.pc)

/-! ### `ld` and `st` (R196 to R198) -/

/-- A loaded value of at most 8 bytes, extended and written under R106 (R196). -/
def extendLoad (t : Ty) (bs : List Byte) : Word :=
  let n := if t.lane32 then 32 else 64
  if t == .log6x10 then BitVec.ofNat 64 (numOf bs % 2 ^ 60) else if t == .i32 || t == .i64 then BitVec.ofNat 64 (wrapTo n (signedOf (8 * bs.length) (numOf bs))) else BitVec.ofNat 64 (numOf bs)
/-- The value of register i of a load. -/
def loadWord (t : Ty) (bs : List Byte) (i : Nat) : Word :=
  if bs.length ≤ 8 then extendLoad t bs else wordOf ((bs.drop (8 * i)).take 8)
/-- The registers of a load whose lanes hold bytes; other lanes read zero (R33). -/
def loadRes (t : Ty) (d w : Nat) (got : List (Nat × List Byte)) : Res :=
  { v := (List.range (max 1 (w / 8))).map (fun i => (d + i, fun l =>
      match got.find? (fun q => q.1 == l) with
      | some q => loadWord t q.2 i
      | none => 0)) }
/-- The bytes that a lane stores: the low bytes of its register, or its pair or quad. -/
def State.storeBytes (s : State) (x : Group) (d w l : Nat) : List Byte :=
  if w ≤ 8 then bytesOf w (s.getV x d l).toNat
  else (List.range (w / 8)).flatMap (fun i => bytesOf 8 (s.getV x (d + i) l).toNat)

/-- An ordered access ends its lanes' regions; an acquire of shared bytes is also one of the chunks whose bits it read (R66, R79). -/
def State.acquire (s : State) (g sp : Nat) (order : BitVec 2) (m : LaneMask) (ts : List Touch) (got : List (Nat × List Byte)) : State :=
  let s := s.sync g m
  if sp = 0 ∧ (order = 1 ∨ order = 3) then
    s.ackChunks (s.group g).blk (ts.flatMap (fun t => t.bytes.zip (((got.find? (fun q => q.1 == t.lane)).map (·.2)).getD [])))
  else s

/-- `ld`. -/
def execLd (h : Hdr) (t : Ty) (sp : BitVec 2) (d : BitVec 8) (a : MAddr) (s : State) : Host.Outcome State Fault Refusal :=
  s.perform h (.ld h t sp d a) (fun x g m s =>
    let fit := s.recLanes x m a.rc.toNat (recFits sp.toNat)
    let s := s.trapAll g (m &&& ~~~fit) .illegalEncoding (fun _ => 0)
    if fit = 0 then s
    else
      let w := widthBytes a.width
      let atom := decide (a.scope ≠ 0)
      let k := sp.toNat
      let r := s.screen g k (fun _ => false) atom (s.reachAll x g fit a w [.r])
      let sick := r.touch.filter (fun t => s.touchPoison g k t)
      let good := r.touch.filter (fun t => !s.touchPoison g k t)
      let ok := fit &&& ~~~(maskL (r.traps.map (·.1)) ||| maskL (r.parks.map (·.1)) ||| touched sick)
      let got := good.map (fun t => (t.lane, t.bytes.map (s.laneByte g t.lane k)))
      let (extra, s) := s.memPort g k true (decide (k = 1)) good
      let s := good.foldl (fun s t => s.recordTouch g k t false atom) s
      let s := if a.order = 0 then s else s.acquire g k a.order ok good got
      let s := if ok = 0 then s else s.give g h ok (readLatency k extra) (loadRes t d.toNat w got)
      ((s.advance g ok).settle g r).consumeTouch g k sick)

/-- Hold stores in the region store buffer (R57). -/
def State.bufferAll (s : State) (g sp : Nat) (ts : List Touch) (data : Nat → List Byte) : State :=
  let s := s.bufferRoom g ((touchLines ts).map (fun q => (sp, q)))
  let gen := (s.xlat (s.polderOf g)).gen
  ts.foldl (fun s t => s.modGroup g (fun x =>
    (t.bytes.zip (data t.lane)).zipIdx.foldl (fun x (q : (Nat × Byte) × Nat) =>
      x.bufferStore t.lane sp q.1.1 q.1.2 ((t.va + q.2) / 65536) gen
        (ts.any (fun u => decide (t.lane < u.lane) && u.bytes.contains q.1.1))) x)) s

/-- A store of a lane performed at the memory. -/
def State.performStore (s : State) (g sp : Nat) (t : Touch) (bs : List Byte) : State := s.storeSpace g sp (t.bytes.headD 0) bs

/-- A release write of 8 bytes to shared memory is a publish when it meets a notify word (R215). -/
def State.maybePublish (s : State) (g sp : Nat) (order : BitVec 2) (t : Touch) (bs : List Byte) : State :=
  if sp = 0 ∧ (order = 2 ∨ order = 3) ∧ bs.length = 8 then s.publish g (t.bytes.headD 0) (wordOf bs) else s

/-- `st`. A `rel` or `ar` store is performed at the memory in its own step, before any later load of its lane (log 142). -/
def execSt (h : Hdr) (t : Ty) (sp : BitVec 2) (d : BitVec 8) (a : MAddr) (s : State) : Host.Outcome State Fault Refusal :=
  s.perform h (.st h t sp d a) (fun x g m s =>
    let fit := s.recLanes x m a.rc.toNat (recFits sp.toNat)
    let s := s.trapAll g (m &&& ~~~fit) .illegalEncoding (fun _ => 0)
    if fit = 0 then s
    else
      let w := widthBytes a.width
      let atom := decide (a.scope ≠ 0)
      let k := sp.toNat
      let r := s.screen g k (fun _ => true) atom (s.reachAll x g (fit &&& ~~~x.helpers) a w [.w])
      let ok := fit &&& ~~~(maskL (r.traps.map (·.1)) ||| maskL (r.parks.map (·.1)))
      let data := fun l => s.storeBytes x d.toNat w l
      let (_, s) := s.memPort g k false (decide (k = 1)) r.touch
      let s := r.touch.foldl (fun s t => s.recordTouch g k t true atom) s
      let s :=
        if a.order = 0 then s.bufferAll g k r.touch data
        else
          let s := r.touch.foldl (fun s t => (s.performStore g k t (data t.lane)).maybePublish g k a.order t (data t.lane)) s
          (s.sync g ok).restartParked g r
      (s.advance g ok).settle g r)

/-! ### `atom`, `cas` and `fence` (R199 to R201) -/

/-- The operation of an `atom`. -/
def atomOp (t : Ty) (op : BitVec 4) (x y : Nat) : Nat :=
  let num := fun n => if t.isSigned then signedOf t.width n else (n : Int)
  match op.toNat with
  | 0 => if t.isFloat then ((Fmt.of t).add 0 ((Fmt.of t).read x) ((Fmt.of t).read y)).1 else (x + y) % 2 ^ t.width
  | 1 => wrapTo t.width ((x : Int) - (y : Int))
  | 2 => if t.isFloat then ((Fmt.of t).minmax false false x y).1 else if num y < num x then y else x
  | 3 => if t.isFloat then ((Fmt.of t).minmax true false x y).1 else if num x < num y then y else x
  | 4 => x &&& y
  | 5 => x ||| y
  | 6 => x ^^^ y
  | _ => y

/-- What the read-modify-writes of one instruction come to: the bytes that lanes read, the lanes that conflict with the byte's
address, and those that read poison. -/
structure RmwDone where
  got   : List (Nat × List Byte)
  clash : List (Nat × Nat)
  sick  : List Touch
  deriving DecidableEq, Repr

/-- The read-modify-writes of one instruction, lane after lane, each screened and performed at its turn (R37, R72, R75): what each
lane reads and, where it writes, what it leaves. -/
def State.rmw (s : State) (g sp w : Nat) (order : BitVec 2) (f : Nat → Nat → Option Nat) : List Touch → State × RmwDone
  | [] => (s, { got := [], clash := [], sick := [] })
  | t :: ts =>
    let old := (List.range w).map (fun i => s.spaceByte g sp (t.bytes.headD 0 + i))
    let new := f t.lane (numOf old)
    match s.clashOf g sp t new.isSome true with
    | some a =>
      let r := s.rmw g sp w order f ts
      (r.1, { r.2 with clash := (t.lane, a) :: r.2.clash })
    | none =>
      if s.touchPoison g sp t then
        let r := s.rmw g sp w order f ts
        (r.1, { r.2 with sick := t :: r.2.sick })
      else
        let s := s.recordTouch g sp t new.isSome true
        let s := match new with
          | some v => (s.performStore g sp t (bytesOf w v)).maybePublish g sp order t (bytesOf w v)
          | none => s
        let r := s.rmw g sp w order f ts
        (r.1, { r.2 with got := (t.lane, old) :: r.2.got })

/-- A read-modify-write instruction of lanes that reach one space; helper lanes and lanes out of bounds receive zero. -/
def State.atomic (s : State) (h : Hdr) (x : Group) (g : Nat) (m : LaneMask) (t : Ty) (sp : Nat) (d : Nat) (a : MAddr)
    (f : Nat → Nat → Option Nat) : State :=
  let w := widthBytes a.width
  let r := s.reachAll x g (m &&& ~~~x.helpers) a w [.r, .w]
  let (s, done) := s.rmw g sp w a.order f r.touch
  let r := { r with traps := r.traps ++ done.clash.map (fun q => (q.1, .mmConflict, BitVec.ofNat 64 q.2)) }
  let sick := done.sick
  let got := done.got
  let ok := m &&& ~~~(maskL (r.traps.map (·.1)) ||| maskL (r.parks.map (·.1)) ||| touched sick)
  let (extra, s) := s.memPort g sp false (decide (sp = 1)) (r.touch.filter (fun t => got.any (fun q => q.1 == t.lane)))
  let s := (if a.order = 0 then s else s.acquire g sp a.order ok r.touch got).restartParked g r
  let s := if ok = 0 then s else s.give g h ok (atomLatency sp extra) (loadRes t d w got)
  ((s.advance g ok).settle g r).consumeTouch g sp sick

/-- `atom`. -/
def execAtom (h : Hdr) (t : Ty) (op : BitVec 4) (d d2 : BitVec 8) (a : MAddr) (s : State) : Host.Outcome State Fault Refusal :=
  s.perform h (.atom h t op d d2 a) (fun x g m s =>
    let new := fun l old => some (atomOp t op old (elemU t (s.getV x d2.toNat l) 0))
    let sh := s.recLanes x m a.rc.toNat (recFits 0)
    let dws := s.recLanes x m a.rc.toNat (recFits 1)
    let s := s.trapAll g (m &&& ~~~(sh ||| dws)) .illegalEncoding (fun _ => 0)
    let s := if sh = 0 then s else s.atomic h x g sh t 0 d.toNat a new
    if dws = 0 then s else s.atomic h x g dws t 1 d.toNat a new)

/-- `cas`. -/
def execCas (h : Hdr) (t : Ty) (sp : BitVec 2) (d d2 nv : BitVec 8) (a : MAddr) (s : State) : Host.Outcome State Fault Refusal :=
  s.perform h (.cas h t sp d d2 nv a) (fun x g m s =>
    let new := fun l old => if old = elemU t (s.getV x d2.toNat l) 0 then some (elemU t (s.getV x nv.toNat l) 0) else none
    let fit := s.recLanes x m a.rc.toNat (recFits sp.toNat)
    let s := s.trapAll g (m &&& ~~~fit) .illegalEncoding (fun _ => 0)
    if fit = 0 then s else s.atomic h x g fit t sp.toNat d.toNat a new)

/-- A fence that acquires has ordered before it every landed chunk whose chunk-map bit its block can read set (R71, R79). -/
def State.fenceChunks (s : State) (blk : Nat) : State :=
  s.ackChunks blk ((s.block blk).shared.map (fun c => (c.1, c.2)))
/-- `fence`: the stores of its lanes have committed at the boundary; its lanes' regions close (R66, R71). -/
def execFence (h : Hdr) (scope : BitVec 3) (order : BitVec 2) (s : State) : Host.Outcome State Fault Refusal :=
  s.act h (.fence h scope order) (fun x g m s =>
    let s := if order = 0 then s else s.sync g m
    if order.getLsbD 0 then s.fenceChunks x.blk else s)

/-! ### Records (R202) -/

/-- `rec.set`. -/
def execRecSet (h : Hdr) (rc : BitVec 4) (k : BitVec 7) (s : State) : Host.Outcome State Fault Refusal :=
  s.compute h (.recSet h rc k) (fun s x _ =>
    let w := fun i => s.getS x (k.toNat + i)
    { b := [(rc.toNat, w 3 ++ w 2 ++ w 1 ++ w 0)] })
/-- `rec.set.base`. -/
def execRecSetBase (h : Hdr) (rc : BitVec 4) (a : BitVec 8) (s : State) : Host.Outcome State Fault Refusal :=
  s.compute h (.recSetBase h rc a) (fun s x _ =>
    { b := [(rc.toNat, (s.getB x rc.toNat).extractLsb' 64 192 ++ s.getS x a.toNat)] })
/-- `rec.set.adv`. -/
def execRecSetAdv (h : Hdr) (rc : BitVec 4) (a : BitVec 8) (s : State) : Host.Outcome State Fault Refusal :=
  s.compute h (.recSetAdv h rc a) (fun s x _ =>
    let b := s.getB x rc.toNat
    { b := [(rc.toNat, b.extractLsb' 64 192 ++ (recBase b + s.getS x a.toNat))] })
/-- `rec.get`. -/
def execRecGet (h : Hdr) (rc : BitVec 4) (k : BitVec 7) (s : State) : Host.Outcome State Fault Refusal :=
  s.compute h (.recGet h rc k) (fun s x _ =>
    let b := s.getB x rc.toNat
    { s := (List.range 4).map (fun i => (k.toNat + i, b.extractLsb' (64 * i) 64)) })

/-! ### The spill stack (R28, R203) -/

/-- The frame offset of a `spill` or `fill`, after the adjustment of `fill.pop`. -/
def frameOff (s95 : Word) (off : BitVec 24) (pop : Bool) (w : Nat) : Word :=
  s95 + off.signExtend 64 - (if pop then BitVec.ofNat 64 (32 * w) else 0)
/-- The trap that a frame takes, if any. -/
def frameTrap (x : Group) (o : Word) (w : Nat) : Option Cause :=
  if o.toNat % min w 8 ≠ 0 then some .align
  else if o.toInt < 0 ∨ (x.spillSz : Int) < o.toInt + 32 * w then some .bounds
  else none
/-- The bytes of a lane's part of a frame. -/
def frameTouch (o : Word) (w l : Nat) : Touch :=
  { lane := l, va := o.toNat + w * l, bytes := (List.range w).map (o.toNat + w * l + ·) }

/-- Whether an access to the spill stack misses its cache: the device's choice (R28, R226). -/
def State.spillMiss (s : State) (k : Nat) : Bool := s.choose (2 ^ 30 + k)
/-- The frame of a group's spill stack, when a miss finds it not resident: the lanes park (R53, R359). -/
def State.spillAway (s : State) (x : Group) (g : Nat) : Option Nat :=
  x.spillAt.bind (fun f =>
    let e := Map.get (s.xlat (s.polderOf g)).s2dws 0 f
    if s.spillMiss 0 && okDws2 e && decide (bitsOf e 56 1 = 0) then some f else none)
/-- What a frame's access to the spill stack comes to when its page is away. -/
def parkedOn (m : LaneMask) (f : Nat) : Reached := { traps := [], parks := (lanesOf m).map (fun l => (l, [f])), touch := [] }

/-- `spill`. -/
def execSpill (h : Hdr) (push : Bool) (d : BitVec 8) (width : BitVec 4) (off : BitVec 24) (s : State) :
    Host.Outcome State Fault Refusal :=
  s.perform h (.spill h push d width off) (fun x g m s =>
    let w := widthBytes width
    let o := frameOff (s.getS x 95) off false w
    match frameTrap x o w, s.spillAway x g with
    | some c, _ => s.trapAll g m c (fun _ => o)
    | none, some f => s.settle g (parkedOn m f)
    | none, none =>
      let ts := (lanesOf (m &&& ~~~x.helpers)).map (frameTouch o w)
      let (_, s) := s.memPort g 2 false (s.spillMiss 0) ts
      let s := s.bufferAll g 2 ts (fun l => s.storeBytes x d.toNat w l)
      let s := if push then s.give g h m 4 { s := [(95, s.getS x 95 + BitVec.ofNat 64 (32 * w))] } else s
      s.advance g m)

/-- `fill`. -/
def execFill (h : Hdr) (pop : Bool) (d : BitVec 8) (width : BitVec 4) (off : BitVec 24) (s : State) :
    Host.Outcome State Fault Refusal :=
  s.perform h (.fill h pop d width off) (fun x g m s =>
    let w := widthBytes width
    let o := frameOff (s.getS x 95) off pop w
    match frameTrap x o w, s.spillAway x g with
    | some c, _ => s.trapAll g m c (fun _ => o)
    | none, some f => s.settle g (parkedOn m f)
    | none, none =>
      let ts := (lanesOf m).map (frameTouch o w)
      let sick := ts.filter (fun t => s.touchPoison g 2 t)
      let good := ts.filter (fun t => !s.touchPoison g 2 t)
      let ok := touched good
      let miss := s.spillMiss 0
      let (extra, s) := s.memPort g 2 true miss good
      let got := good.map (fun t => (t.lane, t.bytes.map (s.laneByte g t.lane 2)))
      let r := loadRes .u64 d.toNat w got
      let r := if pop then { r with s := [(95, s.getS x 95 - BitVec.ofNat 64 (32 * w))] } else r
      let s := if ok = 0 then s else s.give g h ok (if miss then readLatency 1 0 else readLatency 0 extra) r
      (s.advance g ok).consumeTouch g 2 sick)

end Sys2Proof.Machine
end

