-- ==== Sys2Proof/Machine/Dispatch.lean ====
section
/-! DEFINITION. One arm for every instruction: the call of its meaning. -/

namespace Sys2Proof.Machine

/-- What an instruction does at a state. The bundle that issues it stands in `s.ag.cur`. -/
def exec (i : Instr) (s : State) : Host.Outcome State Fault Refusal :=
  match i with
  | .bra h loff slot => Sys2Proof.Machine.execBra h loff slot s
  | .brx h lr => Sys2Proof.Machine.execBrx h lr s
  | .brxU h lr => Sys2Proof.Machine.execBrxU h lr s
  | .call h lr loff slot => Sys2Proof.Machine.execCall h lr loff slot s
  | .callR h lr tr => Sys2Proof.Machine.execCallR h lr tr s
  | .ret h lr => Sys2Proof.Machine.execRet h lr s
  | .exit h => Sys2Proof.Machine.execExit h s
  | .joinEnrol h jn => Sys2Proof.Machine.execJoinEnrol h jn s
  | .joinWait h jn => Sys2Proof.Machine.execJoinWait h jn s
  | .joinLeave h jn => Sys2Proof.Machine.execJoinLeave h jn s
  | .yield h => Sys2Proof.Machine.execYield h s
  | .nop h => Sys2Proof.Machine.execNop h s
  | .trap h code => Sys2Proof.Machine.execTrap h code s
  | .brk h id => Sys2Proof.Machine.execBrk h id s
  | .plop h d a b c table => Sys2Proof.Machine.execPlop h d a b c table s
  | .lmaskEvery h d a => Sys2Proof.Machine.execLmaskEvery h d a s
  | .lmaskSome h d a => Sys2Proof.Machine.execLmaskSome h d a s
  | .lmaskAlike h d a => Sys2Proof.Machine.execLmaskAlike h d a s
  | .lmaskBits h d a => Sys2Proof.Machine.execLmaskBits h d a s
  | .lmaskCount h d a => Sys2Proof.Machine.execLmaskCount h d a s
  | .lmaskRank h d a => Sys2Proof.Machine.execLmaskRank h d a s
  | .sleep h a imm => Sys2Proof.Machine.execSleep h a imm s
  | .iadd h t sat d a b => Sys2Proof.Machine.execIadd h t sat d a b s
  | .isub h t sat d a b => Sys2Proof.Machine.execIsub h t sat d a b s
  | .imul h t sat d a b => Sys2Proof.Machine.execImul h t sat d a b s
  | .imulh h t d a b => Sys2Proof.Machine.execImulh h t d a b s
  | .imad h t sat d a b c => Sys2Proof.Machine.execImad h t sat d a b c s
  | .imin h t d a b => Sys2Proof.Machine.execImin h t d a b s
  | .imax h t d a b => Sys2Proof.Machine.execImax h t d a b s
  | .iabs h t sat d a => Sys2Proof.Machine.execIabs h t sat d a s
  | .icmp h t cond any d a b => Sys2Proof.Machine.execIcmp h t cond any d a b s
  | .shl h t d a b => Sys2Proof.Machine.execShl h t d a b s
  | .shr h t d a b => Sys2Proof.Machine.execShr h t d a b s
  | .sar h t d a b => Sys2Proof.Machine.execSar h t d a b s
  | .rot h t right d a b => Sys2Proof.Machine.execRot h t right d a b s
  | .tern h d a b c table => Sys2Proof.Machine.execTern h d a b c table s
  | .popc h t d a => Sys2Proof.Machine.execPopc h t d a s
  | .clz h t d a => Sys2Proof.Machine.execClz h t d a s
  | .ctz h t d a => Sys2Proof.Machine.execCtz h t d a s
  | .brev h t d a => Sys2Proof.Machine.execBrev h t d a s
  | .bfx h t d a b => Sys2Proof.Machine.execBfx h t d a b s
  | .bfi h t d a b c => Sys2Proof.Machine.execBfi h t d a b c s
  | .bsRead h t peek d a b => Sys2Proof.Machine.execBsRead h t peek d a b s
  | .bsFill h d a k => Sys2Proof.Machine.execBsFill h d a k s
  | .bsSeek h mode d a => Sys2Proof.Machine.execBsSeek h mode d a s
  | .sel h d a b k neg => Sys2Proof.Machine.execSel h d a b k neg s
  | .mov h d a => Sys2Proof.Machine.execMov h d a s
  | .movi h t d imm => Sys2Proof.Machine.execMovi h t d imm s
  | .moviHi h d imm => Sys2Proof.Machine.execMoviHi h d imm s
  | .lea h d a b sh => Sys2Proof.Machine.execLea h d a b sh s
  | .leaPc h d b sh => Sys2Proof.Machine.execLeaPc h d b sh s
  | .uadd h sub d a b => Sys2Proof.Machine.execUadd h sub d a b s
  | .umul h mode d a b => Sys2Proof.Machine.execUmul h mode d a b s
  | .utern h d a b c table => Sys2Proof.Machine.execUtern h d a b c table s
  | .ushift h mode d a b => Sys2Proof.Machine.execUshift h mode d a b s
  | .ucmp h cond sgn d a b => Sys2Proof.Machine.execUcmp h cond sgn d a b s
  | .umov h d a => Sys2Proof.Machine.execUmov h d a s
  | .umovSx h d imm => Sys2Proof.Machine.execUmovSx h d imm s
  | .umovZx h d imm => Sys2Proof.Machine.execUmovZx h d imm s
  | .umovHi h d imm => Sys2Proof.Machine.execUmovHi h d imm s
  | .umovV h d a => Sys2Proof.Machine.execUmovV h d a s
  | .upredSet h d a => Sys2Proof.Machine.execUpredSet h d a s
  | .upredGet h d a => Sys2Proof.Machine.execUpredGet h d a s
  | .upredNz h d a => Sys2Proof.Machine.execUpredNz h d a s
  | .sreg h d selr => Sys2Proof.Machine.execSreg h d selr s
  | .sregU h d selr => Sys2Proof.Machine.execSregU h d selr s
  | .fadd h t r d a b ma mb => Sys2Proof.Machine.execFadd h t r d a b ma mb s
  | .fmul h t r d a b ma mb => Sys2Proof.Machine.execFmul h t r d a b ma mb s
  | .ffma h t r d a b c ma mb mc => Sys2Proof.Machine.execFfma h t r d a b c ma mb mc s
  | .fmin h t nan d a b ma mb => Sys2Proof.Machine.execFmin h t nan d a b ma mb s
  | .fmax h t nan d a b ma mb => Sys2Proof.Machine.execFmax h t nan d a b ma mb s
  | .fcmp h t cond any d a b ma mb => Sys2Proof.Machine.execFcmp h t cond any d a b ma mb s
  | .fclass h t d a ma => Sys2Proof.Machine.execFclass h t d a ma s
  | .fcvt h t x part r d a ma => Sys2Proof.Machine.execFcvt h t x part r d a ma s
  | .icvt h t x part r d a => Sys2Proof.Machine.execIcvt h t x part r d a s
  | .fcvti h t x part r d a ma => Sys2Proof.Machine.execFcvti h t x part r d a ma s
  | .frcp h t r d a ma => Sys2Proof.Machine.execFrcp h t r d a ma s
  | .frsq h t r d a ma => Sys2Proof.Machine.execFrsq h t r d a ma s
  | .fsqrt h t r d a ma => Sys2Proof.Machine.execFsqrt h t r d a ma s
  | .fdiv h t r d a b ma mb => Sys2Proof.Machine.execFdiv h t r d a b ma mb s
  | .fex2 h t r d a ma => Sys2Proof.Machine.execFex2 h t r d a ma s
  | .flg2 h t r d a ma => Sys2Proof.Machine.execFlg2 h t r d a ma s
  | .fsin h t r d a ma => Sys2Proof.Machine.execFsin h t r d a ma s
  | .fcos h t r d a ma => Sys2Proof.Machine.execFcos h t r d a ma s
  | .xlane h t d a b ma => Sys2Proof.Machine.execXlane h t d a b ma s
  | .qx h mode d a => Sys2Proof.Machine.execQx h mode d a s
  | .fold h t op sat r d a ma => Sys2Proof.Machine.execFold h t op sat r d a ma s
  | .scan h t op excl r d a ma => Sys2Proof.Machine.execScan h t op excl r d a ma s
  | .pack h t x part r d a b ma mb => Sys2Proof.Machine.execPack h t x part r d a b ma mb s
  | .fscale h t r d a b ma => Sys2Proof.Machine.execFscale h t r d a b ma s
  | .frnd h t ix r d a ma => Sys2Proof.Machine.execFrnd h t ix r d a ma s
  | .ld h t sp d m => Sys2Proof.Machine.execLd h t sp d m s
  | .st h t sp d m => Sys2Proof.Machine.execSt h t sp d m s
  | .atom h t op d d2 m => Sys2Proof.Machine.execAtom h t op d d2 m s
  | .cas h t sp d d2 nv m => Sys2Proof.Machine.execCas h t sp d d2 nv m s
  | .fence h scope order => Sys2Proof.Machine.execFence h scope order s
  | .recSet h rec k => Sys2Proof.Machine.execRecSet h rec k s
  | .recSetBase h rec a => Sys2Proof.Machine.execRecSetBase h rec a s
  | .recSetAdv h rec a => Sys2Proof.Machine.execRecSetAdv h rec a s
  | .recGet h rec k => Sys2Proof.Machine.execRecGet h rec k s
  | .spill h push d width off => Sys2Proof.Machine.execSpill h push d width off s
  | .fill h pop d width off => Sys2Proof.Machine.execFill h pop d width off s
  | .barInit h acct d n e => Sys2Proof.Machine.execBarInit h acct d n e s
  | .barArrive h group d n => Sys2Proof.Machine.execBarArrive h group d n s
  | .barWait h n p => Sys2Proof.Machine.execBarWait h n p s
  | .barTest h par d n p => Sys2Proof.Machine.execBarTest h par d n p s
  | .tagWaitany h clr d a => Sys2Proof.Machine.execTagWaitany h clr d a s
  | .tagWaitall h clr d a => Sys2Proof.Machine.execTagWaitall h clr d a s
  | .tagFirst h clr d a => Sys2Proof.Machine.execTagFirst h clr d a s
  | .tagRead h d a => Sys2Proof.Machine.execTagRead h d a s
  | .tagReadSt h d a => Sys2Proof.Machine.execTagReadSt h d a s
  | .tagClear h a => Sys2Proof.Machine.execTagClear h a s
  | .cmapWait h d a b => Sys2Proof.Machine.execCmapWait h d a b s
  | .cmapTest h d a b => Sys2Proof.Machine.execCmapTest h d a b s
  | .ringBind h d a b n => Sys2Proof.Machine.execRingBind h d a b n s
  | .ringUnbind h d a => Sys2Proof.Machine.execRingUnbind h d a s
  | .dwsPin h d a n => Sys2Proof.Machine.execDwsPin h d a n s
  | .dwsUnpin h d a n => Sys2Proof.Machine.execDwsUnpin h d a n s
  | .dwsAlloc h d n => Sys2Proof.Machine.execDwsAlloc h d n s
  | .dwsFree h d a => Sys2Proof.Machine.execDwsFree h d a s
  | .mma h f => Sys2Proof.Machine.execMma h f s
  | .mmaBatch h f => Sys2Proof.Machine.execMmaBatch h f s
  | .mfence h => Sys2Proof.Machine.execMfence h s
  | .mwait h tile => Sys2Proof.Machine.execMwait h tile s
  | .mwaitAll h => Sys2Proof.Machine.execMwaitAll h s
  | .accPut h t tile src => Sys2Proof.Machine.execAccPut h t tile src s
  | .accGet h t d tile => Sys2Proof.Machine.execAccGet h t d tile s
  | .accZero h t tile => Sys2Proof.Machine.execAccZero h t tile s
  | .convDecl h g d c k => Sys2Proof.Machine.execConvDecl h g d c k s
  | .convDeclFree h d c => Sys2Proof.Machine.execConvDeclFree h d c s
  | .convRead h d c => Sys2Proof.Machine.execConvRead h d c s
  | .fmtw h mode d a imm => Sys2Proof.Machine.execFmtw h mode d a imm s
  | .spawn h trp d k => Sys2Proof.Machine.execSpawn h trp d k s
  | .spawnWait h d a => Sys2Proof.Machine.execSpawnWait h d a s
  | .qrunCount h d n => Sys2Proof.Machine.execQrunCount h d n s
  | .qrunStop h d n => Sys2Proof.Machine.execQrunStop h d n s
  | .qrunStep h d n => Sys2Proof.Machine.execQrunStep h d n s
  | .qrunResume h d n => Sys2Proof.Machine.execQrunResume h d n s
  | .qrunKill h d n => Sys2Proof.Machine.execQrunKill h d n s
  | .qrunRead h d n sv => Sys2Proof.Machine.execQrunRead h d n sv s
  | .qrunWrite h d n sv => Sys2Proof.Machine.execQrunWrite h d n sv s
  | .qterm h code => Sys2Proof.Machine.execQterm h code s
  | .preDone h => Sys2Proof.Machine.execPreDone h s
  | .preWait h d => Sys2Proof.Machine.execPreWait h d s
  | .rgn h => Sys2Proof.Machine.execRgn h s
  | .dikeOpen h sr loff slot => Sys2Proof.Machine.execDikeOpen h sr loff slot s
  | .dikeClose h => Sys2Proof.Machine.execDikeClose h s
  | .icinv h scope => Sys2Proof.Machine.execIcinv h scope s
  | .ctrRead h d selr => Sys2Proof.Machine.execCtrRead h d selr s
  | .eret h => Sys2Proof.Machine.execEret h s
  | .eretNext h => Sys2Proof.Machine.execEretNext h s
  | .sset h selr a => Sys2Proof.Machine.execSset h selr a s
  | .halt h => Sys2Proof.Machine.execHalt h s
  | .haltStop h => Sys2Proof.Machine.execHaltStop h s
  | .mboxRecv h nb d k box => Sys2Proof.Machine.execMboxRecv h nb d k box s
  | .mboxSend h nb d a k => Sys2Proof.Machine.execMboxSend h nb d a k s
  | .partitionIssueCycle part => Sys2Proof.Machine.execPartitionIssueCycle part s
  | .passedOverOverride grp => Sys2Proof.Machine.execPassedOverOverride grp s
  | .bundlePromotion grp pc => Sys2Proof.Machine.execBundlePromotion grp pc s
  | .yieldWindowEnd grp lane => Sys2Proof.Machine.execYieldWindowEnd grp lane s
  | .sleepDeadline grp lane => Sys2Proof.Machine.execSleepDeadline grp lane s
  | .resultWriteback grp id => Sys2Proof.Machine.execResultWriteback grp id s
  | .unhandledTrapInstant launch cause => Sys2Proof.Machine.execUnhandledTrapInstant launch cause s
  | .poisonConsumedInstant launch => Sys2Proof.Machine.execPoisonConsumedInstant launch s
  | .lineParityRefetch grp lanes pc => Sys2Proof.Machine.execLineParityRefetch grp lanes pc s
  | .compactorMoveStart shared key base => Sys2Proof.Machine.execCompactorMoveStart shared key base s
  | .compactorMoveEnd shared key => Sys2Proof.Machine.execCompactorMoveEnd shared key s
  | .matrixOpComplete op => Sys2Proof.Machine.execMatrixOpComplete op s
  | .faultServiceComplete cd => Sys2Proof.Machine.execFaultServiceComplete cd s
  | .watcherFetchEntry core slot => Sys2Proof.Machine.execWatcherFetchEntry core slot s
  | .copy c => Sys2Proof.Machine.execCopy c s
  | .copy2d c => Sys2Proof.Machine.execCopy2d c s
  | .gather c => Sys2Proof.Machine.execGather c s
  | .scatter c => Sys2Proof.Machine.execScatter c s
  | .fillEntry c => Sys2Proof.Machine.execFillEntry c s
  | .chain c => Sys2Proof.Machine.execChain c s
  | .reduce c => Sys2Proof.Machine.execReduce c s
  | .majSt c => Sys2Proof.Machine.execMajSt c s
  | .majLd c => Sys2Proof.Machine.execMajLd c s
  | .copyChunkLanded c => Sys2Proof.Machine.execCopyChunkLanded c s
  | .copyComplete c => Sys2Proof.Machine.execCopyComplete c s
  | .majCellAnswer c k => Sys2Proof.Machine.execMajCellAnswer c k s
  | .majCellTimerExpiry c => Sys2Proof.Machine.execMajCellTimerExpiry c s
  | .majCopyWriteReceived c k => Sys2Proof.Machine.execMajCopyWriteReceived c k s
  | .majorityScrub desc cell => Sys2Proof.Machine.execMajorityScrub desc cell s
  | .spawnAnswer req => Sys2Proof.Machine.execSpawnAnswer req s
  | .blockPlacement cluster cd cores starts => Sys2Proof.Machine.execBlockPlacement cluster cd cores starts s
  | .headWaitExpiry cluster cd => Sys2Proof.Machine.execHeadWaitExpiry cluster cd s
  | .earlySuccessorDisplace blk => Sys2Proof.Machine.execEarlySuccessorDisplace blk s
  | .displacePreciseStop blk => Sys2Proof.Machine.execDisplacePreciseStop blk s
  | .tokenWrite q => Sys2Proof.Machine.execTokenWrite q s
  | .scanCertifyRecord launch => Sys2Proof.Machine.execScanCertifyRecord launch s
  | .launch q => Sys2Proof.Machine.execLaunch q s
  | .wait q => Sys2Proof.Machine.execWait q s
  | .nopCommand q => Sys2Proof.Machine.execNopCommand q s
  | .badCommand q => Sys2Proof.Machine.execBadCommand q s
  | .waitPoll q => Sys2Proof.Machine.execWaitPoll q s
  | .commandRead q => Sys2Proof.Machine.execCommandRead q s
  | .invalidationComplete polder => Sys2Proof.Machine.execInvalidationComplete polder s
  | .walkComplete w => Sys2Proof.Machine.execWalkComplete w s
  | .faultAnswerTimeout polder idx => Sys2Proof.Machine.execFaultAnswerTimeout polder idx s
  | .pageMigrate polder dws page entry => Sys2Proof.Machine.execPageMigrate polder dws page entry s
  | .preemption launch cores => Sys2Proof.Machine.execPreemption launch cores s
  | .preemptLaneStop grp lane => Sys2Proof.Machine.execPreemptLaneStop grp lane s
  | .blockResume blk core start => Sys2Proof.Machine.execBlockResume blk core start s
  | .seizePreciseStop => Sys2Proof.Machine.execSeizePreciseStop s
  | .seizeReduceAbort => Sys2Proof.Machine.execSeizeReduceAbort s
  | .seizeSeal hostBase => Sys2Proof.Machine.execSeizeSeal hostBase s
  | .seizeRelease => Sys2Proof.Machine.execSeizeRelease s
  | .collectiveTimeout handle => Sys2Proof.Machine.execCollectiveTimeout handle s
  | .ifLock core fn => Sys2Proof.Machine.execIfLock core fn s
  | .ifStart core fn => Sys2Proof.Machine.execIfStart core fn s
  | .ifStop core fn => Sys2Proof.Machine.execIfStop core fn s
  | .ifState core fn => Sys2Proof.Machine.execIfState core fn s
  | .ifInfo core fn => Sys2Proof.Machine.execIfInfo core fn s
  | .collCreate core fn members timeout => Sys2Proof.Machine.execCollCreate core fn members timeout s
  | .trustRootBadRequest core word0 => Sys2Proof.Machine.execTrustRootBadRequest core word0 s
  | .mboxMessageArrival core box m => Sys2Proof.Machine.execMboxMessageArrival core box m s
  | .errorReport r => Sys2Proof.Machine.execErrorReport r s
  | .scanDrainStart core => Sys2Proof.Machine.execScanDrainStart core s
  | .scanDrainTimeout core => Sys2Proof.Machine.execScanDrainTimeout core s
  | .scanComplete core passed => Sys2Proof.Machine.execScanComplete core passed s
  | .hopArbitration hop => Sys2Proof.Machine.execHopArbitration hop s
  | .fatalError r => Sys2Proof.Machine.execFatalError r s
  | .standbyTakeover => Sys2Proof.Machine.execStandbyTakeover s
  | .counterSweep fn => Sys2Proof.Machine.execCounterSweep fn s
  | .pennantRecord part => Sys2Proof.Machine.execPennantRecord part s
  | .halyardRecordWrite cd => Sys2Proof.Machine.execHalyardRecordWrite cd s
  | .majorityRegionDeclare polder va pages n ipas frames => Sys2Proof.Machine.execMajorityRegionDeclare polder va pages n ipas frames s
  | .majorityRegionWithdraw polder va pages => Sys2Proof.Machine.execMajorityRegionWithdraw polder va pages s
  | .stackRebuild desc k cell => Sys2Proof.Machine.execStackRebuild desc k cell s
  | .cmdNotify vf vqid p => Sys2Proof.Machine.execCmdNotify vf vqid p s
  | .cplConsume vf vqid p => Sys2Proof.Machine.execCplConsume vf vqid p s
  | .majQuery vf x => Sys2Proof.Machine.execMajQuery vf x s
  | .s1Root vf x => Sys2Proof.Machine.execS1Root vf x s
  | .dwsRoot vf x => Sys2Proof.Machine.execDwsRoot vf x s
  | .dwsLen vf x => Sys2Proof.Machine.execDwsLen vf x s
  | .invGlobalRange vf x => Sys2Proof.Machine.execInvGlobalRange vf x s
  | .invDwsRange vf x => Sys2Proof.Machine.execInvDwsRange vf x s
  | .invAllStage1 vf x => Sys2Proof.Machine.execInvAllStage1 vf x s
  | .invQueueTable vf x => Sys2Proof.Machine.execInvQueueTable vf x s
  | .faultRing vf x => Sys2Proof.Machine.execFaultRing vf x s
  | .faultResume vf x => Sys2Proof.Machine.execFaultResume vf x s
  | .dirtyLogHarvest polder => Sys2Proof.Machine.execDirtyLogHarvest polder s
  | .pause polder => Sys2Proof.Machine.execPause polder s
  | .resume polder => Sys2Proof.Machine.execResume polder s
  | .seize polder cls => Sys2Proof.Machine.execSeize polder cls s
  | .seizeDemotePage polder ipa hostAddr => Sys2Proof.Machine.execSeizeDemotePage polder ipa hostAddr s
  | .sealedImageRestore polder image => Sys2Proof.Machine.execSealedImageRestore polder image s
  | .debugHalt polder engines => Sys2Proof.Machine.execDebugHalt polder engines s
  | .create doc size test => Sys2Proof.Machine.execCreate doc size test s
  | .teardown polder => Sys2Proof.Machine.execTeardown polder s
  | .vfReset polder => Sys2Proof.Machine.execVfReset polder s
  | .queueAssign q iqid ctx => Sys2Proof.Machine.execQueueAssign q iqid ctx s
  | .queueUnassign q => Sys2Proof.Machine.execQueueUnassign q s
  | .queueReset q => Sys2Proof.Machine.execQueueReset q s
  | .evict polder => Sys2Proof.Machine.execEvict polder s
  | .migrate polder digest => Sys2Proof.Machine.execMigrate polder digest s
  | .debugAttach polder launch holdMask engines memread => Sys2Proof.Machine.execDebugAttach polder launch holdMask engines memread s
  | .counterGrant polder groups => Sys2Proof.Machine.execCounterGrant polder groups s
  | .traceGrant polder => Sys2Proof.Machine.execTraceGrant polder s
  | .resize polder doc => Sys2Proof.Machine.execResize polder doc s
  | .policyReplace polder doc => Sys2Proof.Machine.execPolicyReplace polder doc s
  | .getVersion fn => Sys2Proof.Machine.execGetVersion fn s
  | .getCapabilities fn => Sys2Proof.Machine.execGetCapabilities fn s
  | .negotiateAlgorithms fn => Sys2Proof.Machine.execNegotiateAlgorithms fn s
  | .getDigests fn => Sys2Proof.Machine.execGetDigests fn s
  | .getCertificate fn slot off len => Sys2Proof.Machine.execGetCertificate fn slot off len s
  | .challenge fn nonce => Sys2Proof.Machine.execChallenge fn nonce s
  | .getMeasurements fn idx => Sys2Proof.Machine.execGetMeasurements fn idx s
  | .keyExchange fn data => Sys2Proof.Machine.execKeyExchange fn data s
  | .finish fn data => Sys2Proof.Machine.execFinish fn data s
  | .endSession fn => Sys2Proof.Machine.execEndSession fn s
  | .vendorDefinedRequest fn ideKm data => Sys2Proof.Machine.execVendorDefinedRequest fn ideKm data s
  | .spdmUnsupported fn code => Sys2Proof.Machine.execSpdmUnsupported fn code s
  | .lockInterface vf => Sys2Proof.Machine.execLockInterface vf s
  | .startInterface vf => Sys2Proof.Machine.execStartInterface vf s
  | .stopInterface vf => Sys2Proof.Machine.execStopInterface vf s
  | .getDeviceInterfaceState vf => Sys2Proof.Machine.execGetDeviceInterfaceState vf s
  | .getDeviceInterfaceReport vf off len => Sys2Proof.Machine.execGetDeviceInterfaceReport vf off len s
  | .frozenRegisterWrite vf off cap x => Sys2Proof.Machine.execFrozenRegisterWrite vf off cap x s
  | .ideTlpDrop vf => Sys2Proof.Machine.execIdeTlpDrop vf s
  | .uncorrectableError e => Sys2Proof.Machine.execUncorrectableError e s
  | .correctedError e => Sys2Proof.Machine.execCorrectedError e s
  | .patrolRead e => Sys2Proof.Machine.execPatrolRead e s
  | .engineRetire cd engine => Sys2Proof.Machine.execEngineRetire cd engine s
  | .dramRowRepair stack row spare => Sys2Proof.Machine.execDramRowRepair stack row spare s
  | .dramLayerFail stack layer => Sys2Proof.Machine.execDramLayerFail stack layer s
  | .dramStackFail stack => Sys2Proof.Machine.execDramStackFail stack s
  | .dwsFrameRetire cd frame dest => Sys2Proof.Machine.execDwsFrameRetire cd frame dest s
  | .linkLaneSpare link lane => Sys2Proof.Machine.execLinkLaneSpare link lane s
  | .flitCrcRetry link => Sys2Proof.Machine.execFlitCrcRetry link s
  | .fabricPortRetire port => Sys2Proof.Machine.execFabricPortRetire port s
  | .hostLinkDown link => Sys2Proof.Machine.execHostLinkDown link s
  | .qosWeights x => Sys2Proof.Machine.execQosWeights x s
  | .injSeed vf x => Sys2Proof.Machine.execInjSeed vf x s
  | .injRate vf x => Sys2Proof.Machine.execInjRate vf x s
  | .injCtl vf x => Sys2Proof.Machine.execInjCtl vf x s
  | .errorInjectStep vf e => Sys2Proof.Machine.execErrorInjectStep vf e s
  | .dumpBase x => Sys2Proof.Machine.execDumpBase x s
  | .coldReset failStep => Sys2Proof.Machine.execColdReset failStep s
  | .warmReset => Sys2Proof.Machine.execWarmReset s
  | .liveUpdate image => Sys2Proof.Machine.execLiveUpdate image s
  | .stateTableImport major minor => Sys2Proof.Machine.execStateTableImport major minor s
  | .pwrCap x => Sys2Proof.Machine.execPwrCap x s
  | .powerCapExceeded => Sys2Proof.Machine.execPowerCapExceeded s
  | .powerStepDown => Sys2Proof.Machine.execPowerStepDown s
  | .powerStepUp => Sys2Proof.Machine.execPowerStepUp s
  | .thermalThrottle stack junction temp => Sys2Proof.Machine.execThermalThrottle stack junction temp s
  | .corePowerGate cd cluster => Sys2Proof.Machine.execCorePowerGate cd cluster s
  | .ctrBase fn x => Sys2Proof.Machine.execCtrBase fn x s
  | .pennantCtl vf x => Sys2Proof.Machine.execPennantCtl vf x s
  | .traceBase fn x => Sys2Proof.Machine.execTraceBase fn x s
  | .traceRd fn x => Sys2Proof.Machine.execTraceRd fn x s
  | .registerWriteOther fn => Sys2Proof.Machine.execRegisterWriteOther fn s
  | .peerGlobalRequest pkg polder write va data => Sys2Proof.Machine.execPeerGlobalRequest pkg polder write va data s

end Sys2Proof.Machine
end

