-- ==== Sys2Proof/Machine/Step.lean ====
section
/-! DEFINITION. One step of the device: it performs one issued instruction, one event of an engine or one input from outside,
or it advances the clock. -/

namespace Sys2Proof.Machine

/-- One step. -/
def step (s : State) : Host.Outcome State Fault Refusal :=
  match s.take with
  | .issue b s =>
    match s.issue b with
    | .run i s => exec i s
    | .done s => .next s
  | .run i s => exec i s
  | .tick s => .next s

/-- The state with an instruction where the next step fetches it. -/
def State.withFetchWord (s : State) (_nbits w : Nat) : State := s.place w

end Sys2Proof.Machine
end

