-- ==== Sys2Proof/Safety.lean ====
section
/-! DEFINITION. The vocabulary of claims: when an issued instruction runs, what it leaves alone, and where its results are. -/

namespace Sys2Proof.Machine

/-! ### When an instruction runs -/

/-- The executing set of an issued instruction (R137), after the pennant sampler has looked at it (R436). -/
abbrev State.running (s : State) (h : Hdr) (i : Instr) : LaneMask := (s.tag h i).execSet h i

/-- The group of the bundle that issues. -/
abbrev State.here (s : State) : Group := s.group s.ag.cur.grp

/-- An issued instruction runs: its group exists, its executing set is not empty, checks 5 to 7 of R142 pass, and no register
that it reads is poisoned (R376). -/
abbrev Runs (s : State) (h : Hdr) (i : Instr) : Prop :=
  (Map.find? s.work.groups s.ag.cur.grp).isSome = true ∧
  s.running h i ≠ 0 ∧
  (s.tag h i).early h i (s.tag h i).src = none ∧
  (s.tag h i).src.readsPoison h i (s.running h i) = none

/-! ### What is left alone -/

/-- Memories, translation, copies, queues, trust root, control complexes, fabric and reliability are as before. -/
structure SameDevice (s t : State) : Prop where
  mems  : t.mems = s.mems
  tr    : t.tr = s.tr
  cp    : t.cp = s.cp
  fe    : t.fe = s.fe
  trust : t.trust = s.trust
  ctl   : t.ctl = s.ctl
  fab   : t.fab = s.fab
  rel   : t.rel = s.rel

/-- Every counter and trace register is as before; a pennant may have been taken. -/
structure SameTele (s t : State) : Prop where
  counters : t.tele.counters = s.tele.counters
  swept    : t.tele.swept = s.tele.swept
  ctrBase  : t.tele.ctrBase = s.tele.ctrBase
  pennCtl  : t.tele.pennCtl = s.tele.pennCtl
  trBase   : t.tele.trBase = s.tele.trBase
  trRd     : t.tele.trRd = s.tele.trRd
  trWr     : t.tele.trWr = s.tele.trWr
  cdBuf    : t.tele.cdBuf = s.tele.cdBuf
  lost     : t.tele.lost = s.tele.lost

/-- Rings, convergence registers and the units of the cores are as before. -/
structure SameCores (s t : State) : Prop where
  core   : t.cores.core = s.cores.core
  rings  : t.cores.rings = s.cores.rings
  convs  : t.cores.convs = s.cores.convs
  matOps : t.cores.matOps = s.cores.matOps
  moves  : t.cores.moves = s.cores.moves
  stale  : t.cores.stale = s.cores.stale

/-- Blocks, clusters and launches are as before, and so is every other group. -/
structure SameWork (s t : State) (g : Nat) : Prop where
  groups   : ∀ k, k ≠ g → t.group k = s.group k
  blocks   : t.work.blocks = s.work.blocks
  clusters : t.work.clusters = s.work.clusters
  launches : t.work.launches = s.work.launches
  spawns   : t.work.spawns = s.work.spawns

/-- Time and everything outside one group are as before. -/
structure OnlyGroup (s t : State) (g : Nat) : Prop where
  device : SameDevice s t
  tele   : SameTele s t
  cores  : SameCores s t
  work   : SameWork s t g
  cycle  : t.ag.cycle = s.ag.cycle
  clock  : t.ag.clock = s.ag.clock

/-- A group's place, declared counts, rejoin masks, tiles, spill stack and buffered stores are as before. -/
structure SameGroup (x y : Group) : Prop where
  blk      : y.blk = x.blk
  gid      : y.gid = x.gid
  part     : y.part = x.part
  slot     : y.slot = x.slot
  system   : y.system = x.system
  started  : y.started = x.started
  retired  : y.retired = x.retired
  nregs    : y.nregs = x.nregs
  ntiles   : y.ntiles = x.ntiles
  spillSz  : y.spillSz = x.spillSz
  spillAt  : y.spillAt = x.spillAt
  lines    : y.lines = x.lines
  regBase  : y.regBase = x.regBase
  j        : y.j = x.j
  tile     : y.tile = x.tile
  tileFmt  : y.tileFmt = x.tileFmt
  waits    : y.waits = x.waits
  buf      : y.buf = x.buf
  spill    : y.spill = x.spill
  poisonT  : y.poisonT = x.poisonT
  poisonS  : y.poisonS = x.poisonS

/-- Registers other than the named ones hold what they held: `V r l` names vector register r in lane l, `S r` a uniform
register, `P r l` bit l of a predicate register, `B r` a record. -/
structure SameRegs (x y : Group) (V : Nat → Nat → Prop) (S : Nat → Prop) (P : Nat → Nat → Prop) (B : Nat → Prop) : Prop where
  v : ∀ r l, l < 32 → ¬ V r l → Map.get y.v 0 (32 * r + l) = Map.get x.v 0 (32 * r + l)
  s : ∀ r, ¬ S r → Map.get y.s 0 r = Map.get x.s 0 r
  p : ∀ r l, l < 32 → ¬ P r l → (Map.get y.p 0 r).getLsbD l = (Map.get x.p 0 r).getLsbD l
  b : ∀ r, ¬ B r → Map.get y.b 0 r = Map.get x.b 0 r

/-- No register. -/
abbrev noReg : Nat → Prop := fun _ => False
/-- No register of a lane. -/
abbrev noReg2 : Nat → Nat → Prop := fun _ _ => False

/-- A lane of the executing set `m` does what `F` says; the other lanes of the bundle go on at the next instruction, and no
other lane moves (R127, R137). -/
def LanesMove (s t : State) (m : LaneMask) (F : Nat → Lane → Lane) : Prop :=
  ∀ l, l < s.here.lanes.length →
    (t.group s.ag.cur.grp).lane l =
      if m.getLsbD l then F l (s.here.lane l) else if s.ag.cur.lanes.getLsbD l then (s.here.lane l).advance else s.here.lane l

/-- A lane that goes on at the next instruction. -/
abbrev justAdvance : Nat → Lane → Lane := fun _ y => y.advance

/-- What an instruction that writes registers and goes on leaves alone: everything outside its group, everything in its group
but the named registers and its lanes, which move as `F` says. -/
structure Computes (s t : State) (m : LaneMask) (F : Nat → Lane → Lane) (V : Nat → Nat → Prop) (S : Nat → Prop)
    (P : Nat → Nat → Prop) (B : Nat → Prop) : Prop where
  outside : OnlyGroup s t s.ag.cur.grp
  inside  : SameGroup s.here (t.group s.ag.cur.grp)
  regs    : SameRegs s.here (t.group s.ag.cur.grp) V S P B
  lanes   : LanesMove s t m F

/-! ### Where results are -/

/-- A result is on its way to the writes `ws` (R133): a pending instruction that counts on the flag of the header holds them,
and the event that writes them falls due after the latency. -/
def Pends (s t : State) (h : Hdr) (i : Instr) (ws : RegWrite → Prop) : Prop :=
  ∃ p ∈ (t.group s.ag.cur.grp).pending, p.flag = s.flagOf h ∧ (∀ w, w ∈ p.writes ↔ ws w) ∧
    (s.ag.cycle + latency i, .resultWriteback s.ag.cur.grp p.id) ∈ t.ag.atCycle

/-- Vector register `d` receives `val l` in each lane l of the executing set: at once with `lf` = 0, by a result on its way with
`lf` = 1; nothing else is written. -/
structure VecResult (s t : State) (h : Hdr) (i : Instr) (F : Nat → Lane → Lane) (d : BitVec 8) (val : Nat → Word) : Prop where
  now   : h.lf = false → ∀ l, (s.running h i).getLsbD l → Map.get (t.group s.ag.cur.grp).v 0 (32 * d.toNat + l) = val l
  later : h.lf = true → Pends s t h i (fun w => w.cls = .v ∧ w.idx = d.toNat ∧ (s.running h i).getLsbD w.lane ∧
            w.value = (val w.lane).toNat ∧ w.raced = false)
  frame : Computes s t (s.running h i) F (fun r l => h.lf = false ∧ r = d.toNat ∧ (s.running h i).getLsbD l) noReg noReg2 noReg

/-- Uniform register `d` receives a value. -/
structure UniResult (s t : State) (h : Hdr) (i : Instr) (d : BitVec 8) (val : Word) : Prop where
  now   : h.lf = false → Map.get (t.group s.ag.cur.grp).s 0 d.toNat = val
  later : h.lf = true → Pends s t h i (fun w => w = { cls := .s, idx := d.toNat, lane := 0, value := val.toNat, raced := false })
  frame : Computes s t (s.running h i) justAdvance noReg2 (fun r => h.lf = false ∧ r = d.toNat) noReg2 noReg

/-- Predicate register `d` receives `val l` in each lane l of the executing set; a write to p7 is discarded (R26). -/
structure PredResult (s t : State) (h : Hdr) (i : Instr) (F : Nat → Lane → Lane) (d : BitVec 8) (val : Nat → Bool) : Prop where
  now   : h.lf = false → d.toNat ≠ 7 → ∀ l, (s.running h i).getLsbD l →
            (Map.get (t.group s.ag.cur.grp).p 0 d.toNat).getLsbD l = val l
  later : h.lf = true → Pends s t h i (fun w => w.cls = .p ∧ w.idx = d.toNat ∧ (s.running h i).getLsbD w.lane ∧
            w.value = (val w.lane).toNat ∧ w.raced = false)
  frame : Computes s t (s.running h i) F noReg2 noReg (fun r l => h.lf = false ∧ r = d.toNat ∧ r ≠ 7 ∧ (s.running h i).getLsbD l) noReg

/-- The instruction runs to a next state in which vector register `d` has received, in each lane of the executing set, a value
that `R` allows there. `R` is given the state and the group whose registers are read. -/
def GivesVec (s : State) (h : Hdr) (i : Instr) (d : BitVec 8) (R : State → Group → Nat → Word → Prop) : Prop :=
  ∃ t val, exec i s = .next t ∧ VecResult s t h i justAdvance d val ∧
    ∀ l, (s.running h i).getLsbD l → R (s.tag h i) (s.tag h i).src l (val l)

/-- The same for a uniform register; `R` is also given the executing set. -/
def GivesUni (s : State) (h : Hdr) (i : Instr) (d : BitVec 8) (R : State → Group → LaneMask → Word → Prop) : Prop :=
  ∃ t val, exec i s = .next t ∧ UniResult s t h i d val ∧ R (s.tag h i) (s.tag h i).src (s.running h i) val

/-- The same for a predicate register. -/
def GivesPred (s : State) (h : Hdr) (i : Instr) (d : BitVec 8) (R : State → Group → LaneMask → Nat → Bool → Prop) : Prop :=
  ∃ t val, exec i s = .next t ∧ PredResult s t h i justAdvance d val ∧
    ∀ l, (s.running h i).getLsbD l → R (s.tag h i) (s.tag h i).src (s.running h i) l (val l)

/-- The same for a vector register whose values come with floating-point flags, which the lane's `fp.status` gains (R110). -/
def GivesFp (s : State) (h : Hdr) (i : Instr) (d : BitVec 8) (R : State → Group → Nat → Word × FpFlags → Prop) : Prop :=
  ∃ (t : State) (val : Nat → Word × FpFlags), exec i s = .next t ∧
    VecResult s t h i (fun l y => ({ y with fpStatus := y.fpStatus ||| (val l).2 } : Lane).advance) d (fun l => (val l).1) ∧
    ∀ l, (s.running h i).getLsbD l → R (s.tag h i) (s.tag h i).src l (val l)

/-! ### What a value is -/

/-- Every element of a value stands in a relation, and the bits above the last element are zero (R105, R106). -/
def ByElem (t : Ty) (w : Word) (R : Nat → Nat → Prop) : Prop :=
  (∀ k, k < t.count → R k (elemU t w k)) ∧ w.toNat < 2 ^ (t.width * t.count)

/-- A number of one element holds an exact integer: saturated to the limits of the type, or modulo 2^w (R157). -/
def Fits (t : Ty) (sat : Bool) (r : Int) (n : Nat) : Prop :=
  n < 2 ^ t.width ∧ ((2 ^ t.width : Nat) : Int) ∣ (n : Int) - (if sat then min (max r (tyMin t)) (tyMax t) else r)

/-- Every element of a value is that of an operation made for it alone, and a flag is raised when any element raises it (R110,
R114). -/
def EachElem (t : Ty) (v : Word × FpFlags) (f : Nat → Nat × FpFlags) : Prop :=
  ByElem t v.1 (fun k n => n = (f k).1 % 2 ^ t.width) ∧
  ∀ b, v.2.getLsbD b = true ↔ ∃ k, k < t.count ∧ (f k).2.getLsbD b = true

/-- The index that three bits form in a truth table (R155, R160). -/
def tableIx (a b c : Bool) : Nat := a.toNat + 2 * b.toNat + 4 * c.toNat

/-- What lane l of a group reads of a special register (R29). -/
def SpecialValue (s : State) (x : Group) (l : Nat) (selr : BitVec 8) (w : Word) : Prop :=
  (selr = 0x00 → w.toNat = l) ∧ (selr = 0x01 → w.toNat = l / 4) ∧ (selr = 0x02 → w.toNat = x.gid % 2 ^ 64) ∧
  (selr = 0x03 → w.toNat = (s.block x.blk).id.toNat) ∧ (selr = 0x04 → w.toNat = (s.cluster (s.block x.blk).cluster).id.toNat) ∧
  (selr = 0x05 → w.toNat = (s.launch (s.block x.blk).launch).id.toNat) ∧
  (selr = 0x06 → w = (s.cluster (s.block x.blk).cluster).lineage) ∧
  (selr = 0x07 → w.toNat = (s.launch (s.block x.blk).launch).polder % 8) ∧ (selr = 0x08 → w.toNat = s.ag.clock % 2 ^ 64) ∧
  (selr = 0x09 → w.toNat = (s.block x.blk).rank % 2 ^ 64) ∧ (selr = 0x10 → w.toNat = (x.lane l).trapCause.toNat) ∧
  (selr = 0x11 → w = (x.lane l).trapPc) ∧ (selr = 0x12 → w = (x.lane l).trapAddr) ∧
  (selr = 0x18 → w.toNat = (x.lane l).fpStatus.toNat) ∧ (selr = 0x19 → w.toNat = (x.lane l).fpMode.toNat)

/-- A PC that a lane may transfer to (R38, R147): below 2^56, at slot 0 to 4 of a line. -/
abbrev OkTarget (t : Word) : Prop := t.toNat < 2 ^ 56 ∧ t.toNat / 8 % 8 = 0 ∧ t.toNat % 8 ≤ 4

/-- The target of the relative form of a transfer at a PC (R147). -/
abbrev IsRelTarget (pc : Word) (loff : BitVec 32) (slot : BitVec 3) (t : Word) : Prop :=
  ((2 ^ 64 : Nat) : Int) ∣ (t.toNat : Int) - (((pc.toNat / 64 * 64 : Nat) : Int) + 64 * loff.toInt + (slot.toNat : Int))

/-- Between two states a lane has taken a trap at its PC (R363 to R365): its trap registers are written, and it stands at the
handler, or is TRAPPED where it was because no handler takes the trap or a debugger holds it. -/
structure TakesTrap (s t : State) (g l code : Nat) (addr : Word) : Prop where
  cause     : (t.lane g l).trapCause = BitVec.ofNat 32 code
  pc        : (t.lane g l).trapPc = (s.lane g l).pc
  addr      : (t.lane g l).trapAddr = addr
  handled   : s.holdsTrap g code = false → (s.lane g l).inHandler = false →
                ∀ p, (s.launch (s.launchOf g)).kernel.handler = some p → (t.lane g l).pc = p ∧ (t.lane g l).inHandler = true
  unhandled : s.holdsTrap g code = false →
                ((s.launch (s.launchOf g)).kernel.handler = none ∨ (s.lane g l).inHandler = true) →
                (t.lane g l).wait = .trapped ∧ (t.lane g l).pc = (s.lane g l).pc ∧
                ((s.group g).system = false → ∃ n, (n, .unhandledTrapInstant (s.launchOf g) code) ∈ t.ag.atCycle)
  held      : s.holdsTrap g code = true →
                (t.lane g l).wait = .trapped ∧ (t.lane g l).heldTrap = true ∧ (t.lane g l).pc = (s.lane g l).pc

/-! ### Memory -/

/-- Every byte of every memory is as before. -/
structure SameBytes (s t : State) : Prop where
  dram   : t.mems.dram = s.mems.dram
  dws    : t.mems.dws = s.mems.dws
  host   : t.mems.host = s.mems.host
  peer   : t.mems.peer = s.mems.peer
  sramA  : t.mems.sramA = s.mems.sramA
  sramB  : t.mems.sramB = s.mems.sramB
  shared : ∀ b, (t.block b).shared = (s.block b).shared
  spill  : ∀ g, (t.group g).spill = (s.group g).spill

/-- Where a byte of a lane's space is held: shared memory of a block, a physical place of the DWS, the spill stack of a group. -/
def State.byteHome (s : State) (g sp a : Nat) : Nat × Nat × Nat :=
  match sp with
  | 0 => (0, (s.group g).blk, a)
  | 1 => match s.dwsHome (s.polderOf g) a with
    | some k => (1 + k.kind, k.addr, 0)
    | none => (9, a, 0)
  | _ => (10, g, a)

/-- The state that an issued instruction works on: the bundle's other lanes have gone on (R137), but for helper lanes that skip it
beside its executing set (R17, log 143), and with a forced boundary the buffered stores of its lanes have committed (R56). -/
def State.entered (s : State) (h : Hdr) (i : Instr) : State :=
  let k := (s.tag h i).beside h i
  let m := s.running h i ||| k
  let q := ((s.tag h i).advance s.ag.cur.grp (s.ag.cur.lanes &&& ~~~m)).keepBeside i (s.running h i) k
  if isBoundary i then q.boundary s.ag.cur.grp m else q

/-- What lane l's access through a record comes to, from the state that the instruction works on. -/
abbrev State.reaches (s : State) (h : Hdr) (i : Instr) (l : Nat) (a : MAddr) (needs : List Need) : Reach :=
  let e := s.entered h i
  e.reach (s.tag h i).src s.ag.cur.grp l (e.getB (s.tag h i).src a.rc.toNat l) (e.ixVal (s.tag h i).src a.ix l) a.off
    (widthBytes a.width) needs

/-- The lanes `m` may access memory through a record: as each lane of the executing set reads it, it is of the space `sp` (R33,
R134), each lane of `m` finds its bytes or is out of bounds
without a trap (R33 to R36), no access conflicts with another open region (R75), and none that reads meets poison (R376). -/
def Accesses (s : State) (h : Hdr) (i : Instr) (m : LaneMask) (sp : Nat) (a : MAddr) (needs : List Need) (reads write : Bool) : Prop :=
  let e := s.entered h i
  (∀ l, (s.running h i).getLsbD l → recFits sp (e.getB (s.tag h i).src a.rc.toNat l) = true) ∧
  ∀ l, m.getLsbD l → s.reaches h i l a needs = .none_ ∨
    ∃ va bs, s.reaches h i l a needs = .at_ va bs ∧
      e.clashOf s.ag.cur.grp sp { lane := l, va := va, bytes := bs } write (decide (a.scope ≠ 0)) = none ∧
      (reads = true → e.touchPoison s.ag.cur.grp sp { lane := l, va := va, bytes := bs } = false)

/-- The store buffer of a group's partition has room for lines (R57): the new ones among them fit its 64. -/
def State.hasRoom (s : State) (g : Nat) (lines : List (Nat × Nat)) : Prop :=
  let need := (lines.filter (fun q => !(s.group g).bufLines.contains q)).length
  need = 0 ∨ s.partLines (s.group g).part + need ≤ 64

/-- A result of several registers is given to the executing set after a latency that depends on the memory: register `d + j` of
lane l receives `val l j`, for j below `n`. -/
def GivenRegs (s t : State) (h : Hdr) (m : LaneMask) (d n : Nat) (val : Nat → Nat → Word) : Prop :=
  (h.lf = false → ∀ l j, m.getLsbD l → j < n → Map.get (t.group s.ag.cur.grp).v 0 (32 * (d + j) + l) = val l j) ∧
  (h.lf = true → m ≠ 0 → ∃ p ∈ (t.group s.ag.cur.grp).pending, p.flag = s.flagOf h ∧
    (∃ n, (n, .resultWriteback s.ag.cur.grp p.id) ∈ t.ag.atCycle) ∧
    ∀ l j, m.getLsbD l → j < n → ({ cls := .v, idx := d + j, lane := l, value := (val l j).toNat, raced := false } : RegWrite) ∈ p.writes)

/-- A uniform result is given after the instruction's latency. -/
def GivenUni (s t : State) (h : Hdr) (i : Instr) (d : BitVec 8) (val : Word) : Prop :=
  (h.lf = false → Map.get (t.group s.ag.cur.grp).s 0 d.toNat = val) ∧
  (h.lf = true → Pends s t h i (fun w => w = { cls := .s, idx := d.toNat, lane := 0, value := val.toNat, raced := false }))

/-- The lanes `m` go on at the next instruction. -/
def Gone (s t : State) (m : LaneMask) : Prop :=
  ∀ l, m.getLsbD l → (t.lane s.ag.cur.grp l).pc = nextPc (s.lane s.ag.cur.grp l).pc

/-- The lanes that a wait of an instruction holds: the named ones, and the helper lanes that skip it beside them (R17, log 143). -/
def State.besides (s : State) (i : Instr) (m : LaneMask) : LaneMask :=
  match hdrOf i with
  | some h => m ||| (s.tag h i).beside h i
  | none => m

/-- The lanes `m` wait at the instruction, with the operand values that it read. -/
def Held (s t : State) (m : LaneMask) (w : WaitState) (i : Instr) (ops : List Word) : Prop :=
  (∀ l, m.getLsbD l → (t.lane s.ag.cur.grp l).wait = w ∧ (t.lane s.ag.cur.grp l).pc = (s.lane s.ag.cur.grp l).pc) ∧
  ∃ q ∈ (t.group s.ag.cur.grp).waits, q.instr = i ∧ q.lanes = s.besides i m ∧ q.ops = ops ∧
    ∀ l, m.getLsbD l → (t.lane s.ag.cur.grp l).waitId = q.id

/-- The lanes `m` wait for an answer that another unit gives after a latency, the instruction's own unless another is named. -/
def Answered (s t : State) (h : Hdr) (m : LaneMask) (w : WaitState) (i : Instr) (d : BitVec 8) (val : Word)
    (lat : Nat := latency i) : Prop :=
  Held s t m w i [] ∧
  ∃ p ∈ (t.group s.ag.cur.grp).pending, p.writes = [{ cls := .s, idx := d.toNat, lane := 0, value := val.toNat, raced := false }] ∧
    p.flag = (if h.lf then s.flagOf h else 15) ∧ (s.ag.cycle + lat, .resultWriteback s.ag.cur.grp p.id) ∈ t.ag.atCycle

/-- The executing lanes are lanes of the group that have not left it, its block exists (a control core has none), the group as it
stood before the clock (R27) is of the same place, and the next identity is unused in it. -/
structure Live (s : State) (m : LaneMask) : Prop where
  place   : s.src.blk = s.here.blk ∧ s.src.core = s.here.core ∧ s.src.part = s.here.part ∧ s.src.cd = s.here.cd ∧
              s.src.system = s.here.system
  lanes   : ∀ l, m.getLsbD l → l < s.here.lanes.length ∧ (s.here.lane l).left = false
  block   : s.here.system = false → (Map.find? s.work.blocks s.here.blk).isSome = true
  waits   : ∀ w ∈ s.here.waits, w.id ≠ s.ag.nextId
  pending : ∀ p ∈ s.here.pending, p.id ≠ s.ag.nextId
  ids     : ∀ y ∈ s.here.lanes, y.waitId ≠ s.ag.nextId

/-- The state in which the event arbiter takes the query of an issued `qrun` or `qterm`: its lanes wait (R255, R256). -/
def State.asking (s : State) (h : Hdr) (i : Instr) : State :=
  ((s.entered h i).hold s.ag.cur.grp (s.running h i) .spawnwait i []).2

/-- The query of an issued instruction with its operand words. -/
def State.queryOf (s : State) (h : Hdr) (i : Instr) (ops : List Word) : Query :=
  { grp := s.ag.cur.grp, blk := s.here.blk, wait := s.ag.nextId, lanes := s.running h i, instr := i, ops := ops, held := [] }

/-- The event arbiter takes a query at once: none waits, 200 ns have passed since the last, and no compactor move runs (R261). -/
def ArbiterFree (s : State) : Prop :=
  s.ctl.queries = [] ∧ s.ctl.arbDead = false ∧ s.ctl.arbAt ≤ s.ag.clock ∧ s.cores.moves = []

/-- A stage-2 tree as the trust root builds it: each table lies above the one that names it, and below the next free one. -/
def Xlat.Ordered (x : Xlat) : Prop :=
  Map.sorted x.s2tab = true ∧ x.s2root % 4096 = 0 ∧ x.s2root < x.s2next ∧ x.s2next % 4096 = 0 ∧ x.s2next < 2 ^ 55 ∧
    ∀ q ∈ x.s2tab, q.1 < x.s2next ∧ ∀ level t, s2Step q.2 level = some (.inl t) → q.1 / 4096 * 4096 < t ∧ t < x.s2next

/-- VF `p + 1` takes register writes: it has a polder and its interface is not in ERROR (R393). -/
def VfLive (s : State) (p : Nat) : Prop := p < 8 ∧ ∃ x, s.polder? p = some x ∧ x.vf.st ≠ .error

/-- A write that a function's registers do not take is dropped and counted (R333, R353, R393). -/
def Dropped (s t : State) (fn : Nat) : Prop :=
  t.work = s.work ∧ t.tr = s.tr ∧ t.fe = s.fe ∧ t.mems = s.mems ∧ t.trust = s.trust ∧ t.rel = s.rel ∧
    Map.get t.tele.counters 0 (instFn fn * 65536 + 0x502) = Map.get s.tele.counters 0 (instFn fn * 65536 + 0x502) + 1

/-- A host command (R386): granted, it has its effect and answers OK; otherwise it has none and answers REFUSED. -/
def Commanded (s : State) (i : Instr) (granted : Prop) (effect : State → Prop) : Prop :=
  s.open_ = true → ∃ u, exec i s = .next u ∧
    (granted → effect u ∧ u.trust.responses.head? = some (0, bytesOf 4 0 ++ bytesOf 4 0)) ∧
    (¬ granted → u.work = s.work ∧ u.tr = s.tr ∧ u.fe = s.fe ∧ u.mems = s.mems ∧ u.trust.polder = s.trust.polder ∧
      u.trust.responses.head? = some (0, bytesOf 4 1 ++ bytesOf 4 0))

/-- A block of a launch of polder p. -/
def OfPolder (s : State) (p b : Nat) : Prop :=
  (Map.find? s.work.blocks b).isSome = true ∧ ∃ l, Map.find? s.work.launches (s.block b).launch = some l ∧ l.polder = p

/-- A lane that a pre-emption has asked to stop (R59, R60): at once, at the forced boundary where it waits, or at its next one. -/
def AskedToStop (s t : State) (g l : Nat) (safe : Bool) : Prop :=
  (t.lane g l).pc = (s.lane g l).pc ∧
  if safe then (t.lane g l).frozen = true ∧ (t.lane g l).stopKind = 0
  else if s.atBoundary g l then (t.lane g l).frozen = true ∧ (t.lane g l).stopKind = 1
  else (t.lane g l).stopAsked = true

/-- A group is a group of one block only. -/
def OnlyOf (s : State) (b g : Nat) : Prop :=
  (Map.find? s.work.blocks b).isSome = true ∧ (s.block b).groups.count g = 1 ∧
    ∀ k, (Map.find? s.work.blocks k).isSome = true → g ∈ (s.block k).groups → k = b

/-- What a memory instruction leaves alone: other groups, blocks, queues and units; registers but the named ones; the lanes `m`
go on. -/
structure Touches (e t : State) (g : Nat) (m : LaneMask) (V : Nat → Nat → Prop) (S : Nat → Prop) : Prop where
  others : ∀ k, k ≠ g → t.group k = e.group k
  regs   : SameRegs (e.group g) (t.group g) V S noReg2 noReg
  tiles  : (t.group g).tile = (e.group g).tile
  joins  : (t.group g).j = (e.group g).j
  lanes  : ∀ l, l < (e.group g).lanes.length → (t.group g).lane l = if m.getLsbD l then (e.lane g l).advance else e.lane g l
  fe     : t.fe = e.fe
  trust  : t.trust = e.trust
  ctl    : t.ctl = e.ctl
  clock  : t.ag.clock = e.ag.clock

/-! ### The whole machine -/

/-- Every memory is in its canonical form: addresses strictly rising, and no entry that an unlisted address reads as. -/
structure State.Canonical (s : State) : Prop where
  dram  : Mem.wf s.mems.dram = true
  dws   : Mem.wf s.mems.dws = true
  host  : Mem.wf s.mems.host = true
  sramA : Mem.wf s.mems.sramA = true
  sramB : Mem.wf s.mems.sramB = true
  peer  : ∀ k m, Map.find? s.mems.peer k = some m → Mem.wf m = true

/-- The state in which a fetched bundle performs its instruction: its lanes are those that still stand at its PC and have now issued,
and it has the two flags of its line; a first pick of the clock remembers its group (R27, R41, R47, R128). -/
def State.issued (s : State) (b : Bundle) (rest : List Todo) (bytes : List Byte) : State :=
  let snap := if b.second then s.ag.snap else some (b.grp, s.group b.grp)
  let cur := { b with lanes := (s.group b.grp).atPc b.lanes b.pc, flagA := flagAOf (lineWord bytes), flagB := flagBOf (lineWord bytes) }
  ({ s with ag := { s.ag with todo := rest, cur := cur, snap := snap } } : State).modGroup b.grp (fun x =>
    { x.modLanes cur.lanes (fun _ y => { y with passed := 0 }) with started := true })

end Sys2Proof.Machine
end

