-- ==== Sys2Proof/Certificates/Slice0/Obligations.lean ====
section
/-! DEFINITION. The statements for the provers. Each says what the spec gives an instruction, a step or the machine to do. -/

open Sys2Proof Sys2Proof.Machine

/-! ### The machine as a whole (05, 06) -/

/-- A step performs the instruction that the next bundle's slot of the line as fetched decodes to (R40, R127, R128, R143); a queued
event runs as its instruction, unless a fatal error has stopped the arbiter that orders it (R431); with nothing queued and no input due
the clock advances by one cycle. The model's choices in it: log 157. -/
def Obligations.StepRunsTheDecodedInstruction : Prop :=
  ∀ (s : State) (b : Bundle) (rest : List Todo) (bytes : List Byte) (i : Instr),
    (s.ag.todo = .issue b :: rest → (s.group b.grp).atPc b.lanes b.pc ≠ 0 → (s.group b.grp).lineAt b.pc = some bytes →
      decode (lineSlot bytes (pcSlot b.pc)) = .ok i → step s = exec i (s.issued b rest bytes)) ∧
    (s.ag.todo = .run i :: rest → let s' := { s with ag := { s.ag with todo := rest } }
      step s = if s.ctl.arbDead ∧ arbitrated i then .next s' else exec i s') ∧
    (s.ag.todo = [] → s.ag.inputs = [] → ∃ u, step s = .next u ∧ u.ag.cycle = s.ag.cycle + 1 ∧ s.ag.clock ≤ u.ag.clock ∧
      u.work = s.work ∧ u.mems = s.mems)

/-- R136, R139, R140: words written from the fields of the encoding tables decode to their instructions; the first four are the
words of the spec's decoded line. -/
def Obligations.DecodeReadsTheSpecsWords : Prop :=
  let h : Hdr := { pr := 7, pn := false, lf := false, fs := false }
  let r : Rnd := { dyn := false, rm := 0 }
  let n : Mod := { abs := false, neg := false }
  decode 0x52E8000C1020400000000000 = .ok (.ffma h .f64 r 3 (.v 4) (.v 8) (.v 16) n n n) ∧
  decode 0x20E2005054580020_00000000 = .ok (.iadd h .i64 false 20 (.v 21) (.v 22)) ∧
  decode 0x39E1002402000000_00001234 = .ok (.movi h .u32 9 0x1234) ∧
  decode 0x5DE808A0A4A80020_00000000 = .ok (.fdiv { h with lf := true } .f64 r 40 (.v 41) (.v 42) n n) ∧
  decode (0x01 * 2 ^ 88 + 7 * 2 ^ 85 + 0xFFFFFFFF * 2 ^ 42 + 2 * 2 ^ 39) = .ok (.bra h 0xFFFFFFFF 2) ∧
  decode (0x3B * 2 ^ 88 + 7 * 2 ^ 85 + 1 * 2 ^ 76 + 5 * 2 ^ 66 + 6 * 2 ^ 58 + 1 * 2 ^ 32 + 9) = .ok (.uadd h true 5 6 (.imm 9)) ∧
  decode (0x80 * 2 ^ 88 + 7 * 2 ^ 85 + 3 * 2 ^ 80 + 1 * 2 ^ 76 + 4 * 2 ^ 66 + 2 * 2 ^ 62 + 9 * 2 ^ 54 + 3 * 2 ^ 44 + 64 * 2 ^ 20) =
    .ok (.ld h .u64 1 4 { rc := 2, ix := .v 9, scope := 0, order := 0, width := 3, off := 64 }) ∧
  decode (0xA6 * 2 ^ 88 + 7 * 2 ^ 85 + 8 * 2 ^ 80 + 3 * 2 ^ 53) = .ok (.accZero h .f64 3) ∧
  decode 0 = .error .illegalOpcode ∧ decode (2 ^ 96 - 1) = .error .illegalOpcode ∧
  decode (0x0A * 2 ^ 88 + 7 * 2 ^ 85 + 1) = .error .illegalEncoding

/-- R136 to R140: the decoder gives back every well-formed instruction from its word of 96 bits, and every word that decodes is the
word of the instruction that it decodes to: no reserved bit is dropped. -/
def Obligations.DecodeOfEncodeIsTheInstruction : Prop :=
  ∀ (i : Instr) (w : Nat), (i.wf = true → encode i = some w → decode w = .ok i ∧ w < 2 ^ 96) ∧
    (decode w = .ok i → i.wf = true ∧ encode i = some w)

/-- R24, R138, R173, R337, R412, R421: after reset the clock is zero, no polder, launch or block exists, every queue is unassigned,
the channel weights are 0x010408, the PF is ready, and complex A is active; every memory is in its canonical form. That unlisted
memory reads as zero is the model's (log 4). -/
def Obligations.ResetLeavesTheStatedValues : Prop :=
  let s := State.reset
  s.ag.clock = 0 ∧ s.trust.polder = [] ∧ s.work.launches = [] ∧ s.work.blocks = [] ∧ (∀ q, (s.queue q).st = .unassigned) ∧
  s.fab.weights = 0x010408 ∧ s.ctl.ready = true ∧ s.ctl.active = 0 ∧ s.rel.dumpBase = 0 ∧
  (∀ n, n < 4 → (s.group (n + 1)).system = true ∧ (s.lane (n + 1) 0).fpMode = 0 ∧ (s.lane (n + 1) 0).fpStatus = 0) ∧ s.Canonical

/-- Every step of the machine answers a next state, and keeps every memory in its canonical form: addresses strictly rising, and no
entry equal to what an unlisted address reads as. The model's choices in it: log 29. -/
def Obligations.StepGoesOnAndKeepsMemoriesCanonical : Prop :=
  ∀ (s : State), ∃ t, step s = .next t ∧ (s.Canonical → t.Canonical)

/-- R141: a slot with an unassigned opcode takes ILLEGAL_OPCODE in every lane of its executing set; the instructions of system mode
take PRIV outside it, and `sset` takes it for the registers of system mode (R29). -/
def Obligations.UnassignedOpcodesAndPrivilegeTrap : Prop :=
  ∀ (s : State) (b : Bundle) (rest : List Todo) (bytes : List Byte) (l : Nat), l < (s.group b.grp).lanes.length →
    (let w := lineSlot bytes (pcSlot b.pc)
     let opc := w / 2 ^ 88 % 256
     let t := s.issued b rest bytes
     s.ag.todo = .issue b :: rest → (s.group b.grp).atPc b.lanes b.pc ≠ 0 → (s.group b.grp).lineAt b.pc = some bytes →
       (opc = 0 ∨ (0x10 ≤ opc ∧ opc ≤ 0x1F) ∨ (0x43 ≤ opc ∧ opc ≤ 0x4F) ∨ (0x69 ≤ opc ∧ opc ≤ 0x7F) ∨ (0x9A ≤ opc ∧ opc ≤ 0x9F) ∨
         (0xAA ≤ opc ∧ opc ≤ 0xAF) ∨ 0xC0 ≤ opc) →
       t.ag.cur.lanes.getLsbD l = true → (t.getP t.src (w / 2 ^ 85 % 8)).getLsbD l = decide (w / 2 ^ 84 % 2 = 0) →
       ∃ u, step s = .next u ∧ TakesTrap s u b.grp l 1 0) ∧
    (∀ (h : Hdr) (nb : Bool) (d a n : BitVec 8) (x : BitVec 7) (box : BitVec 4) (src : Src) (i : Instr), s.ag.cur.grp = b.grp →
      s.src.system = false → (s.running h i).getLsbD l = true → (Map.find? s.work.groups b.grp).isSome →
      (i = .halt h ∨ i = .haltStop h ∨ i = .mboxRecv h nb d x box ∨ i = .mboxSend h nb d a x ∨
        (i = .sset h n src ∧ (n = 0x10 ∨ n = 0x12) ∧ Runs s h i)) →
      ∃ u, exec i s = .next u ∧ TakesTrap s u b.grp l 5 0)

/-- R137: the executing set is the set of bundle lanes in which the predicate holds, or fails with `pn` = 1; when it is empty the
bundle's PCs advance and nothing else happens: no write, no flag, no end of a region, no boundary. -/
def Obligations.AnEmptyExecutingSetOnlyAdvances : Prop :=
  ∀ (s : State) (i : Instr) (w : Nat), encode i = some w →
    let p := s.getP s.src (w / 2 ^ 85 % 8)
    let pn := decide (w / 2 ^ 84 % 2 = 1)
    (∀ h l, l < 32 → skipsHelpers i = false → h.pr.toNat = w / 2 ^ 85 % 8 → h.pn = pn →
      ((s.execSet h i).getLsbD l = true ↔ s.ag.cur.lanes.getLsbD l = true ∧ (p.getLsbD l ^^ pn) = true)) ∧
    (w / 2 ^ 85 % 8 = 7 → pn = true → ∀ l, l < 32 → (p.getLsbD l ^^ pn) = false) ∧
    ((∀ l, l < 32 → s.ag.cur.lanes.getLsbD l = true → (p.getLsbD l ^^ pn) = false) →
      ∃ t, exec i s = .next t ∧ Computes s t 0 justAdvance noReg2 noReg noReg2 noReg ∧
        (t.group s.ag.cur.grp).pending = s.here.pending ∧ t.ag.todo = s.ag.todo ∧ t.ag.atCycle = s.ag.atCycle)

/-- R112: a result whose rounding with unbounded exponent exceeds the largest finite value overflows (R110), and is delivered by the
rounding mode as an infinity or the largest finite value, with OF and IX set. -/
def Obligations.OverflowIsDeliveredByTheMode : Prop :=
  ∀ (t : Ty) (neg : Bool) (m : Nat) (e : Int) (sticky : Bool) (mode : Nat), t.isFloat = true → 0 < m → mode < 4 →
    let f := Fmt.of t
    let top := (Nat.log2 m : Int) + e
    let overflows := f.bias < top ∨ (top = f.bias ∧ 2 ^ (f.fbits + 1) ≤ (roundAt mode neg m e sticky (top - f.fbits)).1)
    let r := f.round mode neg m e sticky
    (r.2.getLsbD 2 = true ↔ overflows) ∧
    (overflows → r.2.getLsbD 4 = true ∧ (mode = 0 → r.1 = f.inf neg) ∧ (mode = 1 → r.1 = f.most neg) ∧
      (mode = 2 → r.1 = if neg then f.most true else f.inf false) ∧ (mode = 3 → r.1 = if neg then f.inf true else f.most false))

/-! ### Integers, moves and uniform values (06, 07) -/

/-- R157: each element of the result is the operation on the elements of the sources, taken exactly and then saturated to the type's
limits or reduced modulo 2^w. R158: `icmp` sets the predicate bit of a lane when the condition holds in every element, or in at
least one with `any`. -/
def Obligations.IntegerArithmeticAndComparesByElement : Prop :=
  (∀ (s : State) (h : Hdr) (t : Ty) (sat : Bool) (d : BitVec 8) (a b c : Src),
     (Runs s h (.iadd h t sat d a b) → GivesVec s h (.iadd h t sat d a b) d (fun q x l w =>
       ByElem t w (fun k n => Fits t sat (elemI t (q.srcVal x a l) k + elemI t (q.srcVal x b l) k) n))) ∧
     (Runs s h (.isub h t sat d a b) → GivesVec s h (.isub h t sat d a b) d (fun q x l w =>
       ByElem t w (fun k n => Fits t sat (elemI t (q.srcVal x a l) k - elemI t (q.srcVal x b l) k) n))) ∧
     (Runs s h (.imul h t sat d a b) → GivesVec s h (.imul h t sat d a b) d (fun q x l w =>
       ByElem t w (fun k n => Fits t sat (elemI t (q.srcVal x a l) k * elemI t (q.srcVal x b l) k) n))) ∧
     (Runs s h (.imulh h t d a b) → GivesVec s h (.imulh h t d a b) d (fun q x l w =>
       ByElem t w (fun k n => Fits t false (elemI t (q.srcVal x a l) k * elemI t (q.srcVal x b l) k / ((2 ^ t.width : Nat) : Int)) n))) ∧
     (Runs s h (.imad h t sat d a b c) → GivesVec s h (.imad h t sat d a b c) d (fun q x l w =>
       ByElem t w (fun k n => Fits t sat (elemI t (q.srcVal x a l) k * elemI t (q.srcVal x b l) k + elemI t (q.srcVal x c l) k) n))) ∧
     (Runs s h (.imin h t d a b) → GivesVec s h (.imin h t d a b) d (fun q x l w =>
       ByElem t w (fun k n => Fits t false (min (elemI t (q.srcVal x a l) k) (elemI t (q.srcVal x b l) k)) n))) ∧
     (Runs s h (.imax h t d a b) → GivesVec s h (.imax h t d a b) d (fun q x l w =>
       ByElem t w (fun k n => Fits t false (max (elemI t (q.srcVal x a l) k) (elemI t (q.srcVal x b l) k)) n))) ∧
     (Runs s h (.iabs h t sat d a) → GivesVec s h (.iabs h t sat d a) d (fun q x l w =>
       ByElem t w (fun k n => Fits t sat |elemI t (q.srcVal x a l) k| n)))) ∧
  (∀ (s : State) (h : Hdr) (t : Ty) (cond : BitVec 3) (any : Bool) (d : BitVec 8) (a b : Src),
     Runs s h (.icmp h t cond any d a b) → GivesPred s h (.icmp h t cond any d a b) d (fun q x _ l bit =>
       let holds := fun (k : Nat) =>
         let p := elemI t (q.srcVal x a l) k
         let r := elemI t (q.srcVal x b l) k
         (cond = 0 ∧ p = r) ∨ (cond = 1 ∧ p ≠ r) ∨ (cond = 2 ∧ p < r) ∨ (cond = 3 ∧ p ≤ r) ∨ (cond = 4 ∧ p > r) ∨ (cond = 5 ∧ p ≥ r)
       bit = true ↔ if any then ∃ k, k < t.count ∧ holds k else ∀ k, k < t.count → holds k))

/-- R159: the shifts and rotations by element; the count is the element of `b` read as unsigned. R155, R160, R169: a truth table
gives each bit of the result from the three bits of the sources, the first source being the lowest bit of the index. R161: the
numbers of one bits and of leading and trailing zero bits, and the reversed element. R162: a field is cut to the element, extracted
with its sign, or inserted bit by bit. -/
def Obligations.ShiftsBitFieldsAndTruthTablesByElement : Prop :=
  (∀ (s : State) (h : Hdr) (t : Ty) (right : Bool) (d : BitVec 8) (a b : Src),
     (Runs s h (.shl h t d a b) → GivesVec s h (.shl h t d a b) d (fun q x l w =>
       ByElem t w (fun k n => n = elemU t (q.srcVal x a l) k * 2 ^ elemU t (q.srcVal x b l) k % 2 ^ t.width))) ∧
     (Runs s h (.shr h t d a b) → GivesVec s h (.shr h t d a b) d (fun q x l w =>
       ByElem t w (fun k n => n = elemU t (q.srcVal x a l) k / 2 ^ elemU t (q.srcVal x b l) k))) ∧
     (Runs s h (.sar h t d a b) → GivesVec s h (.sar h t d a b) d (fun q x l w =>
       ByElem t w (fun k n => n < 2 ^ t.width ∧ signedOf t.width n =
         signedOf t.width (elemU t (q.srcVal x a l) k) / ((2 ^ elemU t (q.srcVal x b l) k : Nat) : Int)))) ∧
     (Runs s h (.rot h t right d a b) → GivesVec s h (.rot h t right d a b) d (fun q x l w =>
       ByElem t w (fun k n => ∀ j, j < t.width →
         if right then n.testBit j = (elemU t (q.srcVal x a l) k).testBit ((j + elemU t (q.srcVal x b l) k) % t.width)
         else n.testBit ((j + elemU t (q.srcVal x b l) k) % t.width) = (elemU t (q.srcVal x a l) k).testBit j)))) ∧
  (∀ (s : State) (h : Hdr) (d a : BitVec 8) (c : BitVec 7) (e f g : Src) (b : USrc) (table : BitVec 8),
     (Runs s h (.tern h d e f g table) → GivesVec s h (.tern h d e f g table) d (fun q x l w =>
       ∀ p, p < 64 → w.getLsbD p = table.getLsbD (tableIx ((q.srcVal x e l).getLsbD p) ((q.srcVal x f l).getLsbD p)
         ((q.srcVal x g l).getLsbD p)))) ∧
     (Runs s h (.utern h d a b c table) → GivesUni s h (.utern h d a b c table) d (fun q x _ w =>
       ∀ p, p < 64 → w.getLsbD p = table.getLsbD (tableIx ((q.getS x a.toNat).getLsbD p) ((q.uVal x b).getLsbD p)
         ((q.getS x c.toNat).getLsbD p)))) ∧
     (Runs s h (.plop h d e f g table) → GivesPred s h (.plop h d e f g table) d (fun q x _ l bit =>
       bit = table.getLsbD (tableIx ((q.maskVal x e l).getLsbD l) ((q.maskVal x f l).getLsbD l) ((q.maskVal x g l).getLsbD l))))) ∧
  (∀ (s : State) (h : Hdr) (t : Ty) (d : BitVec 8) (a : Src),
     (Runs s h (.popc h t d a) → GivesVec s h (.popc h t d a) d (fun q x l w =>
       ByElem t w (fun k n => n = ((Finset.range t.width).filter (fun i => (elemU t (q.srcVal x a l) k).testBit i)).card))) ∧
     (Runs s h (.clz h t d a) → GivesVec s h (.clz h t d a) d (fun q x l w =>
       ByElem t w (fun k n => n ≤ t.width ∧ elemU t (q.srcVal x a l) k < 2 ^ (t.width - n) ∧
         (n < t.width → 2 ^ (t.width - n - 1) ≤ elemU t (q.srcVal x a l) k)))) ∧
     (Runs s h (.ctz h t d a) → GivesVec s h (.ctz h t d a) d (fun q x l w =>
       ByElem t w (fun k n => n ≤ t.width ∧ 2 ^ n ∣ elemU t (q.srcVal x a l) k ∧
         (n < t.width → (elemU t (q.srcVal x a l) k).testBit n = true)))) ∧
     (Runs s h (.brev h t d a) → GivesVec s h (.brev h t d a) d (fun q x l w =>
       ByElem t w (fun k n => ∀ j, j < t.width → n.testBit j = (elemU t (q.srcVal x a l) k).testBit (t.width - 1 - j))))) ∧
  (∀ (s : State) (h : Hdr) (t : Ty) (d : BitVec 8) (a b c : Src),
     (Runs s h (.bfx h t d a b) → GivesVec s h (.bfx h t d a b) d (fun q x l w =>
       let pos := (q.srcVal x b l).toNat % 256
       let len := if t.width ≤ pos then 0 else min ((q.srcVal x b l).toNat / 256 % 256) (t.width - pos)
       let f := elemU t (q.srcVal x a l) 0 / 2 ^ pos % 2 ^ len
       w.toNat < 2 ^ t.width ∧ ((2 ^ t.width : Nat) : Int) ∣ (w.toNat : Int) -
         (if t.isSigned = true ∧ 0 < len ∧ f.testBit (len - 1) then (f : Int) - ((2 ^ len : Nat) : Int) else (f : Int)))) ∧
     (Runs s h (.bfi h t d a b c) → GivesVec s h (.bfi h t d a b c) d (fun q x l w =>
       let pos := (q.srcVal x c l).toNat % 256
       let len := if t.width ≤ pos then 0 else min ((q.srcVal x c l).toNat / 256 % 256) (t.width - pos)
       ∀ j, j < 64 → w.getLsbD j =
         if pos ≤ j ∧ j < pos + len then (elemU t (q.srcVal x a l) 0).testBit (j - pos)
         else (elemU t (q.srcVal x b l) 0).testBit j)))

/-- R163: selection, moves, constants and scaled sums; `lea.pc` adds to the lane's own PC. R170, R171: moves into uniform and
predicate registers; `umov.v` takes the value of the lowest lane of the executing set. R29, R172, R271: `sreg` gives what each lane
sees of a special register, `sreg.u` what the lowest lane sees, and `sset` writes the lane's own register; the trap cause and
address need system mode. -/
def Obligations.SelectionAndMovesWriteTheirRegister : Prop :=
  (∀ (s : State) (h : Hdr) (t : Ty) (d : BitVec 8) (a b : Src) (k sh : BitVec 3) (neg : Bool) (imm : BitVec 32),
     (Runs s h (.sel h d a b k neg) → GivesVec s h (.sel h d a b k neg) d (fun q x l w =>
       w = if (q.getP x k.toNat).getLsbD l = !neg then q.srcVal x a l else q.srcVal x b l)) ∧
     (Runs s h (.mov h d a) → GivesVec s h (.mov h d a) d (fun q x l w => w = q.srcVal x a l)) ∧
     (Runs s h (.movi h t d imm) → GivesVec s h (.movi h t d imm) d (fun _ _ _ w =>
       if t = .i64 then w.toInt = imm.toInt else w.toNat = imm.toNat)) ∧
     (Runs s h (.moviHi h d imm) → GivesVec s h (.moviHi h d imm) d (fun q x l w =>
       w.toNat = imm.toNat * 2 ^ 32 + (q.getV x d.toNat l).toNat % 2 ^ 32)) ∧
     (Runs s h (.lea h d a b sh) → GivesVec s h (.lea h d a b sh) d (fun q x l w =>
       w.toNat = ((q.srcVal x a l).toNat + (q.srcVal x b l).toNat * 2 ^ sh.toNat) % 2 ^ 64)) ∧
     (Runs s h (.leaPc h d b sh) → GivesVec s h (.leaPc h d b sh) d (fun q x l w =>
       w.toNat = (s.ag.cur.pc.toNat + (q.srcVal x b l).toNat * 2 ^ sh.toNat) % 2 ^ 64))) ∧
  (∀ (s : State) (h : Hdr) (d a : BitVec 8) (imm : BitVec 32),
     (Runs s h (.umov h d a) → GivesUni s h (.umov h d a) d (fun q x _ w => w = q.getS x a.toNat)) ∧
     (Runs s h (.umovSx h d imm) → GivesUni s h (.umovSx h d imm) d (fun _ _ _ w => w.toInt = imm.toInt)) ∧
     (Runs s h (.umovZx h d imm) → GivesUni s h (.umovZx h d imm) d (fun _ _ _ w => w.toNat = imm.toNat)) ∧
     (Runs s h (.umovHi h d imm) → GivesUni s h (.umovHi h d imm) d (fun q x _ w =>
       w.toNat = imm.toNat * 2 ^ 32 + (q.getS x d.toNat).toNat % 2 ^ 32)) ∧
     (Runs s h (.umovV h d a) → GivesUni s h (.umovV h d a) d (fun q x m w =>
       ∃ l, m.getLsbD l = true ∧ (∀ k, k < l → m.getLsbD k = false) ∧ w = q.getV x a.toNat l)) ∧
     (Runs s h (.upredSet h d a) → GivesPred s h (.upredSet h d a) d (fun q x _ l bit => bit = (q.getS x a.toNat).getLsbD l)) ∧
     (Runs s h (.upredGet h d a) → GivesUni s h (.upredGet h d a) d (fun q x _ w => w.toNat = (q.getP x a.toNat).toNat)) ∧
     (Runs s h (.upredNz h d a) → GivesPred s h (.upredNz h d a) d (fun q x _ _ bit => bit = true ↔ q.getS x a.toNat ≠ 0))) ∧
  (∀ (s : State) (h : Hdr) (d selr : BitVec 8) (a : Src),
     (Runs s h (.sreg h d selr) → (s.src.system = true ∨ (selr ≠ 0x10 ∧ selr ≠ 0x12)) →
       GivesVec s h (.sreg h d selr) d (fun _ x l w => SpecialValue s x l selr w)) ∧
     (Runs s h (.sregU h d selr) → (s.src.system = true ∨ (selr ≠ 0x10 ∧ selr ≠ 0x12)) →
       GivesUni s h (.sregU h d selr) d (fun _ x m w =>
         ∃ l, m.getLsbD l = true ∧ (∀ k, k < l → m.getLsbD k = false) ∧
           SpecialValue s x l selr w)) ∧
     (Runs s h (.sset h selr a) → (s.src.system = true ∨ (selr ≠ 0x10 ∧ selr ≠ 0x12)) →
       let q := s.tag h (.sset h selr a)
       ∃ u, exec (.sset h selr a) s = .next u ∧ ∀ l, l < s.here.lanes.length → (s.running h (.sset h selr a)).getLsbD l →
         let y := (u.group s.ag.cur.grp).lane l
         (selr = 0x10 → y.trapCause.toNat = (q.srcVal q.src a l).toNat % 2 ^ 32) ∧ (selr = 0x11 → y.trapPc = q.srcVal q.src a l) ∧
         (selr = 0x12 → y.trapAddr = q.srcVal q.src a l) ∧
         (selr = 0x18 → y.fpStatus.toNat = (q.srcVal q.src a l).toNat % 32) ∧
         (selr = 0x19 → y.fpMode.toNat = (q.srcVal q.src a l).toNat % 4) ∧
         (selr ≠ 0x18 → y.fpStatus = (s.here.lane l).fpStatus) ∧ (selr ≠ 0x19 → y.fpMode = (s.here.lane l).fpMode)))

/-- R164 to R168: `bs.read` cuts a field out of the window at the cursor and moves the cursor unless it peeks; `bs.fill` shifts the
window where its low register is consumed; `bs.seek` gives the old cursor and moves it. The lanes hold no operand that traps. -/
def Obligations.BitStreamReadsFillsAndSeeks : Prop :=
  ∀ (s : State) (h : Hdr) (t : Ty) (peek : Bool) (d a : BitVec 8) (b : Src) (k : BitVec 3) (mode : BitVec 4),
    (Runs s h (.bsRead h t peek d a b) →
      let q := s.tag h (.bsRead h t peek d a b)
      let n := fun l => elemU t (q.srcVal q.src b l) 0 % 128
      let cur := fun l => (q.src.lane l).bsc.toNat
      (∀ l, (s.running h (.bsRead h t peek d a b)).getLsbD l → n l ≤ t.width ∧ cur l + n l ≤ 128) →
      ∃ u val, exec (.bsRead h t peek d a b) s = .next u ∧
        VecResult s u h (.bsRead h t peek d a b)
          (fun l y => (if peek then y else { y with bsc := BitVec.ofNat 7 (cur l + n l) }).advance) d val ∧
        ∀ l, (s.running h (.bsRead h t peek d a b)).getLsbD l →
          let f : Nat := ((q.getV q.src a.toNat l).toNat + 2 ^ 64 * (q.getV q.src (a.toNat + 1) l).toNat) / 2 ^ cur l % 2 ^ n l
          (val l).toNat < 2 ^ t.width ∧ ((2 ^ t.width : Nat) : Int) ∣ ((val l).toNat : Int) -
            (if t.isSigned = true ∧ 0 < n l ∧ f.testBit (n l - 1) then (f : Int) - ((2 ^ n l : Nat) : Int) else (f : Int))) ∧
    (Runs s h (.bsFill h d b k) →
      let q := s.tag h (.bsFill h d b k)
      let m := s.running h (.bsFill h d b k)
      let low := fun l => 64 ≤ (q.src.lane l).bsc.toNat
      ∃ u, exec (.bsFill h d b k) s = .next u ∧
        Computes s u m (fun l y => (if low l then { y with bsc := (q.src.lane l).bsc - 64 } else y).advance)
          (fun r l => h.lf = false ∧ (r = d.toNat ∨ r = d.toNat + 1) ∧ m.getLsbD l ∧ low l) noReg
          (fun r l => h.lf = false ∧ r = k.toNat ∧ r ≠ 7 ∧ m.getLsbD l) noReg ∧
        (h.lf = false → ∀ l, m.getLsbD l →
          (low l → Map.get (u.group s.ag.cur.grp).v 0 (32 * d.toNat + l) = q.getV q.src (d.toNat + 1) l ∧
            Map.get (u.group s.ag.cur.grp).v 0 (32 * (d.toNat + 1) + l) = q.srcVal q.src b l) ∧
          (k ≠ 7 → ((Map.get (u.group s.ag.cur.grp).p 0 k.toNat).getLsbD l = true ↔ low l))) ∧
        (h.lf = true → Pends s u h (.bsFill h d b k) (fun w => m.getLsbD w.lane ∧
          ((low w.lane ∧ w.cls = .v ∧ w.idx = d.toNat ∧ w.value = (q.getV q.src (d.toNat + 1) w.lane).toNat) ∨
           (low w.lane ∧ w.cls = .v ∧ w.idx = d.toNat + 1 ∧ w.value = (q.srcVal q.src b w.lane).toNat) ∨
           (w.cls = .p ∧ w.idx = k.toNat ∧ w.value = (decide (low w.lane)).toNat)) ∧ w.raced = false))) ∧
    (Runs s h (.bsSeek h mode d b) →
      let q := s.tag h (.bsSeek h mode d b)
      let new := fun l => if mode = 0 then ((q.srcVal q.src b l).toNat : Int)
        else if mode = 1 then ((q.src.lane l).bsc.toNat : Int) + (q.srcVal q.src b l).toInt else ((q.src.lane l).bsc.toNat : Int)
      (∀ l, (s.running h (.bsSeek h mode d b)).getLsbD l → 0 ≤ new l ∧ new l ≤ 127) →
      ∃ u, exec (.bsSeek h mode d b) s = .next u ∧
        VecResult s u h (.bsSeek h mode d b) (fun l y => ({ y with bsc := BitVec.ofInt 7 (new l) } : Lane).advance) d
          (fun l => (q.src.lane l).bsc.setWidth 64))

/-- R169: uniform arithmetic is on 64 bits, modulo 2^64; `hu` and `hs` give the high half of the exact product. R156: the votes over
the lanes P of the executing set whose bit is set in the source mask. -/
def Obligations.UniformArithmeticAndVotes : Prop :=
  (∀ (s : State) (h : Hdr) (sub sgn : Bool) (mode : BitVec 4) (cond : BitVec 3) (d a : BitVec 8) (b : USrc),
     (Runs s h (.uadd h sub d a b) → GivesUni s h (.uadd h sub d a b) d (fun q x _ w =>
       ((2 ^ 64 : Nat) : Int) ∣ (w.toNat : Int) -
         (((q.getS x a.toNat).toNat : Int) + (if sub then -((q.uVal x b).toNat : Int) else ((q.uVal x b).toNat : Int))))) ∧
     (Runs s h (.umul h mode d a b) → GivesUni s h (.umul h mode d a b) d (fun q x _ w =>
       if mode = 0 then w.toNat = (q.getS x a.toNat).toNat * (q.uVal x b).toNat % 2 ^ 64
       else if mode = 1 then w.toNat = (q.getS x a.toNat).toNat * (q.uVal x b).toNat / 2 ^ 64
       else w.toInt = (q.getS x a.toNat).toInt * (q.uVal x b).toInt / ((2 ^ 64 : Nat) : Int))) ∧
     (Runs s h (.ushift h mode d a b) → GivesUni s h (.ushift h mode d a b) d (fun q x _ w =>
       let p := q.getS x a.toNat
       let n := (q.uVal x b).toNat
       (mode = 0 → w.toNat = p.toNat * 2 ^ n % 2 ^ 64) ∧ (mode = 1 → w.toNat = p.toNat / 2 ^ n) ∧
       (mode = 2 → w.toInt = p.toInt / ((2 ^ n : Nat) : Int)) ∧
       (mode = 3 → ∀ j, j < 64 → w.getLsbD ((j + n) % 64) = p.getLsbD j) ∧
       (mode = 4 → ∀ j, j < 64 → w.getLsbD j = p.getLsbD ((j + n) % 64)))) ∧
     (Runs s h (.ucmp h cond sgn d a b) → GivesUni s h (.ucmp h cond sgn d a b) d (fun q x _ w =>
       let p := if sgn then (q.getS x a.toNat).toInt else ((q.getS x a.toNat).toNat : Int)
       let r := if sgn then (q.uVal x b).toInt else ((q.uVal x b).toNat : Int)
       w = if (cond = 0 ∧ p = r) ∨ (cond = 1 ∧ p ≠ r) ∨ (cond = 2 ∧ p < r) ∨ (cond = 3 ∧ p ≤ r) ∨ (cond = 4 ∧ p > r) ∨
              (cond = 5 ∧ p ≥ r) then 1 else 0))) ∧
  (∀ (s : State) (h : Hdr) (d : BitVec 8) (a : Src),
     (Runs s h (.lmaskEvery h d a) → GivesPred s h (.lmaskEvery h d a) d (fun q x m l bit =>
       bit = true ↔ ∀ k, m.getLsbD k → (q.maskVal x a l).getLsbD k)) ∧
     (Runs s h (.lmaskSome h d a) → GivesPred s h (.lmaskSome h d a) d (fun q x m l bit =>
       bit = true ↔ ∃ k, m.getLsbD k ∧ (q.maskVal x a l).getLsbD k)) ∧
     (Runs s h (.lmaskAlike h d a) → GivesPred s h (.lmaskAlike h d a) d (fun q x m l bit =>
       bit = true ↔ (∀ k, m.getLsbD k → (q.maskVal x a l).getLsbD k) ∨ ∀ k, m.getLsbD k → (q.maskVal x a l).getLsbD k = false)) ∧
     (Runs s h (.lmaskBits h d a) → GivesVec s h (.lmaskBits h d a) d (fun q x l w =>
       w.toNat = (s.running h (.lmaskBits h d a)).toNat * 2 ^ 32 + (s.running h (.lmaskBits h d a) &&& q.maskVal x a l).toNat)) ∧
     (Runs s h (.lmaskCount h d a) → GivesVec s h (.lmaskCount h d a) d (fun q x l w =>
       let m := s.running h (.lmaskCount h d a)
       w.toNat = ((Finset.range 32).filter (fun k => m.getLsbD k ∧ (q.maskVal x a l).getLsbD k)).card +
         2 ^ 32 * ((Finset.range 32).filter (fun k => m.getLsbD k)).card)) ∧
     (Runs s h (.lmaskRank h d a) → GivesVec s h (.lmaskRank h d a) d (fun q x l w =>
       let m := s.running h (.lmaskRank h d a)
       w.toNat = ((Finset.range l).filter (fun k => m.getLsbD k ∧ (q.maskVal x a l).getLsbD k)).card)))

/-! ### Control flow (06, 07, 20) -/

/-- R146, R147: every lane of the executing set goes to its target, and a call writes the PC of the next instruction to its return
register; a target register is read before the return register is written. R147: a lane whose target R38 refuses takes
ILLEGAL_TARGET at the transfer, with the target as address, and a call writes it no return PC. -/
def Obligations.TransfersMoveLanesOrTrapOnABadTarget : Prop :=
  (∀ (s : State) (h : Hdr) (lr tr : BitVec 8) (loff : BitVec 32) (slot : BitVec 3),
     (∀ t, Runs s h (.bra h loff slot) → IsRelTarget s.ag.cur.pc loff slot t → OkTarget t →
       ∃ u, exec (.bra h loff slot) s = .next u ∧
         Computes s u (s.running h (.bra h loff slot)) (fun _ y => y.goto t) noReg2 noReg noReg2 noReg) ∧
     (Runs s h (.brx h lr) →
       (∀ l, (s.running h (.brx h lr)).getLsbD l → OkTarget ((s.tag h (.brx h lr)).getV s.src lr.toNat l)) →
       ∃ u, exec (.brx h lr) s = .next u ∧
         Computes s u (s.running h (.brx h lr)) (fun l y => y.goto ((s.tag h (.brx h lr)).getV s.src lr.toNat l))
           noReg2 noReg noReg2 noReg) ∧
     (Runs s h (.brxU h lr) →
       (∀ l, (s.running h (.brxU h lr)).getLsbD l → OkTarget ((s.tag h (.brxU h lr)).getS s.src lr.toNat l)) →
       ∃ u, exec (.brxU h lr) s = .next u ∧
         Computes s u (s.running h (.brxU h lr)) (fun l y => y.goto ((s.tag h (.brxU h lr)).getS s.src lr.toNat l))
           noReg2 noReg noReg2 noReg) ∧
     (∀ t, Runs s h (.call h lr loff slot) → IsRelTarget s.ag.cur.pc loff slot t → OkTarget t →
       ∃ u, exec (.call h lr loff slot) s = .next u ∧
         VecResult s u h (.call h lr loff slot) (fun _ y => y.goto t) lr (fun _ => nextPc s.ag.cur.pc)) ∧
     (Runs s h (.callR h lr tr) →
       (∀ l, (s.running h (.callR h lr tr)).getLsbD l → OkTarget ((s.tag h (.callR h lr tr)).getV s.src tr.toNat l)) →
       ∃ u, exec (.callR h lr tr) s = .next u ∧
         VecResult s u h (.callR h lr tr) (fun l y => y.goto ((s.tag h (.callR h lr tr)).getV s.src tr.toNat l)) lr
           (fun _ => nextPc s.ag.cur.pc)) ∧
     (Runs s h (.ret h lr) →
       (∀ l, (s.running h (.ret h lr)).getLsbD l → OkTarget ((s.tag h (.ret h lr)).getV s.src lr.toNat l)) →
       ∃ u, exec (.ret h lr) s = .next u ∧
         Computes s u (s.running h (.ret h lr)) (fun l y => y.goto ((s.tag h (.ret h lr)).getV s.src lr.toNat l))
           noReg2 noReg noReg2 noReg)) ∧
  (∀ (s : State) (h : Hdr) (lr tr : BitVec 8) (l : Nat), l < s.here.lanes.length →
     (Runs s h (.brx h lr) → (s.running h (.brx h lr)).getLsbD l →
       ¬ OkTarget ((s.tag h (.brx h lr)).getV s.src lr.toNat l) →
       ∃ u, exec (.brx h lr) s = .next u ∧ TakesTrap s u s.ag.cur.grp l 4 ((s.tag h (.brx h lr)).getV s.src lr.toNat l)) ∧
     (Runs s h (.callR h lr tr) → (s.running h (.callR h lr tr)).getLsbD l →
       ¬ OkTarget ((s.tag h (.callR h lr tr)).getV s.src tr.toNat l) →
       ∃ u, exec (.callR h lr tr) s = .next u ∧
         TakesTrap s u s.ag.cur.grp l 4 ((s.tag h (.callR h lr tr)).getV s.src tr.toNat l) ∧
         ∀ r, Map.get (u.group s.ag.cur.grp).v 0 (32 * r + l) = Map.get s.here.v 0 (32 * r + l)))

/-- R49, R149, R151: `nop` only goes on; `yield` goes on and opens a window of 64 cycles; `sleep` goes on and, for a duration that
is not zero, places the lane in SLEEP until the device's clock reaches the deadline. R17, R51, R150: the lanes that execute `exit`
leave their group and every rejoin mask; a helper lane leaves every rejoin mask and stops issuing. -/
def Obligations.LanesGoOnSleepAndLeave : Prop :=
  (∀ (s : State) (h : Hdr) (a : Src) (imm : BitVec 32),
     (Runs s h (.nop h) → ∃ u, exec (.nop h) s = .next u ∧
       Computes s u (s.running h (.nop h)) justAdvance noReg2 noReg noReg2 noReg) ∧
     (Runs s h (.yield h) → ∀ l, l < s.here.lanes.length → (s.running h (.yield h)).getLsbD l →
       (s.lane s.ag.cur.grp l).stepping = false → ((s.lane s.ag.cur.grp l).wait = .running ∨ (s.lane s.ag.cur.grp l).wait = .yield) →
       ∃ u, exec (.yield h) s = .next u ∧ (u.lane s.ag.cur.grp l).pc = nextPc (s.lane s.ag.cur.grp l).pc ∧
         (u.lane s.ag.cur.grp l).wait = .yield ∧ (u.lane s.ag.cur.grp l).yieldEnd = s.ag.cycle + 64 ∧
         (s.ag.cycle + 64, .yieldWindowEnd s.ag.cur.grp l) ∈ u.ag.atCycle ∧
         SameRegs s.here (u.group s.ag.cur.grp) noReg2 noReg noReg2 noReg ∧ SameDevice s u) ∧
     (Runs s h (.sleep h a imm) → ∀ l, l < s.here.lanes.length → (s.running h (.sleep h a imm)).getLsbD l →
       let d := imm.toNat + ((s.tag h (.sleep h a imm)).srcVal s.src a l).toNat % 2 ^ 32
       ∃ u, exec (.sleep h a imm) s = .next u ∧ (u.lane s.ag.cur.grp l).pc = nextPc (s.lane s.ag.cur.grp l).pc ∧
         (if d = 0 then u.lane s.ag.cur.grp l = (s.lane s.ag.cur.grp l).advance
          else (u.lane s.ag.cur.grp l).wait = .sleep ∧ (u.lane s.ag.cur.grp l).deadline = s.ag.clock + d ∧
            (s.ag.clock + d, .sleepDeadline s.ag.cur.grp l) ∈ u.ag.atClock) ∧
         SameRegs s.here (u.group s.ag.cur.grp) noReg2 noReg noReg2 noReg ∧ SameDevice s u)) ∧
  (∀ (s : State) (h : Hdr), Runs s h (.exit h) → ∀ l, l < s.here.lanes.length → (s.running h (.exit h)).getLsbD l →
     ∃ u, exec (.exit h) s = .next u ∧
       ((s.here.lane l).left = false → s.src.helpers.getLsbD l = false → ((u.group s.ag.cur.grp).lane l).left = true) ∧
       ((s.here.lane l).left = false → ∀ n, ((u.group s.ag.cur.grp).getJ n).getLsbD l = false) ∧
       (s.src.helpers.getLsbD l = true →
         ((u.group s.ag.cur.grp).lane l).done = true ∨ ((u.group s.ag.cur.grp).lane l).left = true))

/-- R153, R154, R363 to R365: `trap` raises SOFTWARE with its code as address, `brk` BREAKPOINT; with a debugger attached to the
launch the lanes of a `brk` stop at it instead. R270, R364: `eret` returns a lane to `trap.pc` and `eret.next` to the instruction
after it; `in_handler` clears and the region starts there. A target that R38 refuses traps. -/
def Obligations.TrapsAreTakenAndReturnedFrom : Prop :=
  (∀ (s : State) (h : Hdr) (code : BitVec 16) (l : Nat), l < s.here.lanes.length →
     (Runs s h (.trap h code) → (s.running h (.trap h code)).getLsbD l →
       ∃ u, exec (.trap h code) s = .next u ∧ TakesTrap s u s.ag.cur.grp l 13 (code.setWidth 64)) ∧
     (Runs s h (.brk h code) → (s.running h (.brk h code)).getLsbD l → (s.launch (s.launchOf s.ag.cur.grp)).attach = false →
       ∃ u, exec (.brk h code) s = .next u ∧ TakesTrap s u s.ag.cur.grp l 14 (code.setWidth 64)) ∧
     (Runs s h (.brk h code) → (s.running h (.brk h code)).getLsbD l → (s.launch (s.launchOf s.ag.cur.grp)).attach = true →
       ∃ u, exec (.brk h code) s = .next u ∧ (u.lane s.ag.cur.grp l).wait = .stopped ∧
         (u.lane s.ag.cur.grp l).remembered = .running ∧ (u.lane s.ag.cur.grp l).brkDone = true ∧
         (u.lane s.ag.cur.grp l).pc = (s.lane s.ag.cur.grp l).pc ∧
         (u.lane s.ag.cur.grp l).trapCause = (s.lane s.ag.cur.grp l).trapCause)) ∧
  (∀ (s : State) (h : Hdr) (l : Nat),
     let g := s.ag.cur.grp
     let claim := fun (i : Instr) (t : Word) =>
       Runs s h i → l < s.here.lanes.length → (s.running h i).getLsbD l → s.src.lane l = s.lane g l → ∃ u, exec i s = .next u ∧
         (OkTarget t → (u.lane g l).pc = t ∧ (u.lane g l).inHandler = false ∧ (u.lane g l).restart = t ∧
           (u.lane g l).trapCause = (s.lane g l).trapCause ∧ (u.lane g l).trapPc = (s.lane g l).trapPc) ∧
         (¬ OkTarget t → TakesTrap s u g l 4 t)
     claim (.eret h) (s.lane g l).trapPc ∧ claim (.eretNext h) (nextPc (s.lane g l).trapPc))

/-- R51, R52: enrolling sets the lanes' bits of a rejoin mask and leaving clears them; a lane whose bit is set waits at `join.wait`
until every lane of the mask waits there, and the others pass. -/
def Obligations.RejoinMasksHoldAndRelease : Prop :=
  ∀ (s : State) (h : Hdr) (n : BitVec 4),
    (Runs s h (.joinEnrol h n) → (∀ w ∈ s.here.waits, w.lanes &&& s.running h (.joinEnrol h n) = 0) →
      ∃ u, exec (.joinEnrol h n) s = .next u ∧
        (u.group s.ag.cur.grp).getJ n.toNat = s.here.getJ n.toNat ||| s.running h (.joinEnrol h n) ∧
        (∀ k, k ≠ n.toNat → (u.group s.ag.cur.grp).getJ k = s.here.getJ k) ∧
        OnlyGroup s u s.ag.cur.grp ∧ LanesMove s u (s.running h (.joinEnrol h n)) justAdvance) ∧
    (Runs s h (.joinLeave h n) → s.here.waits = [] →
      ∃ u, exec (.joinLeave h n) s = .next u ∧
        (u.group s.ag.cur.grp).getJ n.toNat = s.here.getJ n.toNat &&& ~~~s.running h (.joinLeave h n) ∧
        (∀ k, k ≠ n.toNat → (u.group s.ag.cur.grp).getJ k = s.here.getJ k) ∧
        OnlyGroup s u s.ag.cur.grp ∧ LanesMove s u (s.running h (.joinLeave h n)) justAdvance) ∧
    (Runs s h (.joinWait h n) → s.here.waits = [] → ∀ l, l < s.here.lanes.length → (s.running h (.joinWait h n)).getLsbD l →
      (s.lane s.ag.cur.grp l).left = false →
      ∃ u, exec (.joinWait h n) s = .next u ∧
        ((s.here.getJ n.toNat).getLsbD l = false → (u.lane s.ag.cur.grp l).pc = nextPc (s.lane s.ag.cur.grp l).pc) ∧
        ((s.here.getJ n.toNat).getLsbD l = true →
          if s.here.getJ n.toNat &&& ~~~s.running h (.joinWait h n) = 0 then
            (u.group s.ag.cur.grp).getJ n.toNat = 0 ∧ (u.lane s.ag.cur.grp l).pc = nextPc (s.lane s.ag.cur.grp l).pc
          else (u.group s.ag.cur.grp).getJ n.toNat = s.here.getJ n.toNat ∧ (u.lane s.ag.cur.grp l).wait = .rejoin ∧
            (u.lane s.ag.cur.grp l).pc = (s.lane s.ag.cur.grp l).pc))

/-! ### Floating point and cross-lane results (05, 08) -/

/-- R111: the integer that each rounding mode chooses for m × 2^e as a multiple of 2^(e + d). R109, R120: rounding a value that the
format holds gives that value and no flag, in every mode and format. -/
def Obligations.RoundingFollowsTheModes : Prop :=
  (∀ (neg : Bool) (m d : Nat) (e : Int), 0 < d →
     (let r := roundAt 0 neg m e false (e + d)
      (2 * (r.1 * 2 ^ d) ≤ 2 * m + 2 ^ d ∧ 2 * m ≤ 2 * (r.1 * 2 ^ d) + 2 ^ d) ∧
      ((2 * (r.1 * 2 ^ d) = 2 * m + 2 ^ d ∨ 2 * m = 2 * (r.1 * 2 ^ d) + 2 ^ d) → r.1 % 2 = 0)) ∧
     (let r := roundAt 1 neg m e false (e + d)
      r.1 * 2 ^ d ≤ m ∧ m < (r.1 + 1) * 2 ^ d) ∧
     (let r := roundAt 2 neg m e false (e + d)
      if neg then r.1 * 2 ^ d ≤ m ∧ m < (r.1 + 1) * 2 ^ d else m ≤ r.1 * 2 ^ d ∧ r.1 * 2 ^ d < m + 2 ^ d) ∧
     (let r := roundAt 3 neg m e false (e + d)
      if neg then m ≤ r.1 * 2 ^ d ∧ r.1 * 2 ^ d < m + 2 ^ d else r.1 * 2 ^ d ≤ m ∧ m < (r.1 + 1) * 2 ^ d) ∧
     ∀ mode, (roundAt mode neg m e false (e + d)).2 = true ↔ ¬ 2 ^ d ∣ m) ∧
  (∀ (t : Ty) (mode n : Nat) (neg : Bool) (m : Nat) (e : Int), t.isFloat = true → n < 2 ^ t.width →
     (Fmt.of t).read n = .num neg m e → (Fmt.of t).round mode neg m e false = (n, 0))

/-- R108, R110, R114, R176 to R178, R180, R182, R186 to R188: a floating-point instruction makes its operation for every element
alone, under the mode that its field or the lane's `fp.mode` gives, and the lane's flags gain those that any element raises. The
special functions take a free value where the model cannot decide the correctly rounded result (log 11). -/
def Obligations.FloatingPointByElement : Prop :=
  ∀ (s : State) (h : Hdr) (t : Ty) (r : Rnd) (d : BitVec 8) (a b c : Src) (ma mb mc : Mod) (nan ix : Bool),
    let mode := fun (x : Group) (l : Nat) => if r.dyn then (x.lane l).fpMode.toNat else r.rm.toNat
    let f := Fmt.of t
    let va := fun (q : State) (x : Group) (l k : Nat) => fVal t ma (q.srcVal x a l) k
    let vb := fun (q : State) (x : Group) (l k : Nat) => fVal t mb (q.srcVal x b l) k
    let vc := fun (q : State) (x : Group) (l k : Nat) => fVal t mc (q.srcVal x c l) k
    (Runs s h (.fadd h t r d a b ma mb) → GivesFp s h (.fadd h t r d a b ma mb) d (fun q x l v =>
      EachElem t v (fun k => f.add (mode x l) (va q x l k) (vb q x l k)))) ∧
    (Runs s h (.fmul h t r d a b ma mb) → GivesFp s h (.fmul h t r d a b ma mb) d (fun q x l v =>
      EachElem t v (fun k => f.mul (mode x l) (va q x l k) (vb q x l k)))) ∧
    (Runs s h (.ffma h t r d a b c ma mb mc) → GivesFp s h (.ffma h t r d a b c ma mb mc) d (fun q x l v =>
      EachElem t v (fun k => f.fma (mode x l) (va q x l k) (vb q x l k) (vc q x l k)))) ∧
    (Runs s h (.fmin h t nan d a b ma mb) → GivesFp s h (.fmin h t nan d a b ma mb) d (fun q x l v =>
      EachElem t v (fun k => f.minmax false nan (fElem t ma (q.srcVal x a l) k) (fElem t mb (q.srcVal x b l) k)))) ∧
    (Runs s h (.fmax h t nan d a b ma mb) → GivesFp s h (.fmax h t nan d a b ma mb) d (fun q x l v =>
      EachElem t v (fun k => f.minmax true nan (fElem t ma (q.srcVal x a l) k) (fElem t mb (q.srcVal x b l) k)))) ∧
    (Runs s h (.fclass h t d a ma) → GivesFp s h (.fclass h t d a ma) d (fun q x l v => v.2 = 0 ∧
      ByElem t v.1 (fun k n => n = f.class_ (fElem t ma (q.srcVal x a l) k)))) ∧
    (Runs s h (.fscale h t r d a b ma) → GivesFp s h (.fscale h t r d a b ma) d (fun q x l v =>
      EachElem t v (fun k => f.scale (mode x l) (signedOf t.width (elemU t (q.srcVal x b l) k)) (va q x l k)))) ∧
    (Runs s h (.frnd h t ix r d a ma) → GivesFp s h (.frnd h t ix r d a ma) d (fun q x l v =>
      EachElem t v (fun k => f.integral (mode x l) ix (va q x l k)))) ∧
    (Runs s h (.fdiv h t r d a b ma mb) → GivesFp s h (.fdiv h t r d a b ma mb) d (fun q x l v =>
      EachElem t v (fun k => f.div (mode x l) (va q x l k) (vb q x l k)))) ∧
    (Runs s h (.frcp h t r d a ma) → GivesFp s h (.frcp h t r d a ma) d (fun q x l v =>
      EachElem t v (fun k => f.div (mode x l) (.num false 1 0) (va q x l k)))) ∧
    (Runs s h (.fsqrt h t r d a ma) → GivesFp s h (.fsqrt h t r d a ma) d (fun q x l v =>
      EachElem t v (fun k => f.sqrt (mode x l) (va q x l k)))) ∧
    (Runs s h (.frsq h t r d a ma) → GivesFp s h (.frsq h t r d a ma) d (fun q x l v =>
      EachElem t v (fun k => f.rsqrt (mode x l) (va q x l k)))) ∧
    (Runs s h (.fex2 h t r d a ma) → GivesFp s h (.fex2 h t r d a ma) d (fun q x l v =>
      ∃ w : Nat → Word, EachElem t v (fun k => f.exp2 (mode x l) (w k) (va q x l k)))) ∧
    (Runs s h (.flg2 h t r d a ma) → GivesFp s h (.flg2 h t r d a ma) d (fun q x l v =>
      ∃ w : Nat → Word, EachElem t v (fun k => f.log2 (mode x l) (w k) (va q x l k)))) ∧
    (Runs s h (.fsin h t r d a ma) → GivesFp s h (.fsin h t r d a ma) d (fun q x l v =>
      ∃ w : Nat → Word, EachElem t v (fun k => f.sin (mode x l) (w k) (va q x l k)))) ∧
    (Runs s h (.fcos h t r d a ma) → GivesFp s h (.fcos h t r d a ma) d (fun q x l v =>
      ∃ w : Nat → Word, EachElem t v (fun k => f.cos (mode x l) (w k) (va q x l k))))

/-- R181, R183 to R185: `fcmp` sets the lane's predicate bit when its condition holds in every element, or in one with `any`; the
conversions convert a whole destination from part of the source, and `pack` places converted elements among those of `b`. The model's
choices in it: log 26. -/
def Obligations.FloatComparesAndConversions : Prop :=
  ∀ (s : State) (h : Hdr) (t x : Ty) (cond : BitVec 3) (any : Bool) (part : BitVec 4) (r : Rnd) (d : BitVec 8) (a b : Src)
    (ma mb : Mod),
    let mode := fun (y : Group) (l : Nat) => if r.dyn then (y.lane l).fpMode.toNat else r.rm.toNat
    (Runs s h (.fcmp h t cond any d a b ma mb) →
      let i : Instr := .fcmp h t cond any d a b ma mb
      let one := fun (l k : Nat) => fpCond cond.toNat (fVal t ma ((s.tag h i).srcVal s.src a l) k) (fVal t mb ((s.tag h i).srcVal s.src b l) k)
      ∃ (u : State) (val : Nat → Bool) (flags : Nat → FpFlags), exec i s = .next u ∧
        PredResult s u h i (fun l y => ({ y with fpStatus := y.fpStatus ||| flags l } : Lane).advance) d val ∧
        ∀ l, (s.running h i).getLsbD l →
          (val l = true ↔ if any then ∃ k, k < t.count ∧ (one l k).1 = true else ∀ k, k < t.count → (one l k).1 = true) ∧
          ∀ n, (flags l).getLsbD n = true ↔ ∃ k, k < t.count ∧ (one l k).2.getLsbD n = true) ∧
    (Runs s h (.fcvt h t x part r d a ma) → GivesFp s h (.fcvt h t x part r d a ma) d (fun q y l v =>
      EachElem x v (fun k => convertElem t x (mode y l) (fElem t ma (q.srcVal y a l) (part.toNat * x.count + k))))) ∧
    (Runs s h (.icvt h t x part r d a) → GivesFp s h (.icvt h t x part r d a) d (fun q y l v =>
      EachElem x v (fun k => convertElem t x (mode y l) (elemU t (q.srcVal y a l) (part.toNat * x.count + k))))) ∧
    (Runs s h (.fcvti h t x part r d a ma) → GivesFp s h (.fcvti h t x part r d a ma) d (fun q y l v =>
      EachElem x v (fun k => convertElem t x (mode y l) (fElem t ma (q.srcVal y a l) (part.toNat * x.count + k))))) ∧
    (Runs s h (.pack h t x part r d a b ma mb) → GivesFp s h (.pack h t x part r d a b ma mb) d (fun q y l v =>
      EachElem x v (fun k =>
        if part.toNat ≤ k ∧ k < part.toNat + t.count then convertElem t x (mode y l) (fElem t ma (q.srcVal y a l) (k - part.toNat))
        else (fElem x mb (q.srcVal y b l) k, 0))))

/-- R189 to R193: elements gathered from other lanes, values exchanged within quads, and combinations over the lanes of the executing
set; an absent lane reads as zero. The model's choices in it: log 27, log 28. -/
def Obligations.CrossLaneResults : Prop :=
  ∀ (s : State) (h : Hdr) (t : Ty) (mode : BitVec 4) (op : BitVec 3) (sat excl : Bool) (r : Rnd) (d : BitVec 8) (a b : Src) (ma : Mod),
    (Runs s h (.xlane h t d a b ma) → GivesVec s h (.xlane h t d a b ma) d (fun q x l w =>
      ByElem t w (fun k n =>
        let sel := (q.srcVal x b l).toNat / 2 ^ (8 * k) % 256
        if t.count ≤ sel % 8 ∨ (x.lane (sel / 8)).left = true then n = 0
        else n = fElem t ma (q.srcVal x a (sel / 8)) (sel % 8) % 2 ^ t.width))) ∧
    (Runs s h (.qx h mode d a) → GivesVec s h (.qx h mode d a) d (fun q x l w =>
      w = if (x.lane (l ^^^ (mode.toNat + 1))).left then 0 else q.srcVal x a (l ^^^ (mode.toNat + 1)))) ∧
    (Runs s h (.fold h t op sat r d a ma) → t.isFloat = false → op = 0 → GivesVec s h (.fold h t op sat r d a ma) d
      (fun q x _ w => ByElem t w (fun k n =>
        Fits t sat (((List.range 32).filter (fun l => (s.running h (.fold h t op sat r d a ma)).getLsbD l)).map
          (fun l => elemI t (q.srcVal x a l) k)).sum n))) ∧
    (Runs s h (.fold h t op sat r d a ma) → GivesFp s h (.fold h t op sat r d a ma) d (fun q x _ v =>
      let ls := (List.range 32).filter (fun l => (s.running h (.fold h t op sat r d a ma)).getLsbD l)
      let m := if r.dyn then (x.lane (ls.headD 0)).fpMode.toNat else r.rm.toNat
      EachElem t v (fun k =>
        let es := ls.map (fun l => fElem t ma (q.srcVal x a l) k)
        if t.isFloat then combineFp t op.toNat m es else (combineInt t op.toNat sat es, 0)))) ∧
    (Runs s h (.scan h t op excl r d a ma) → GivesFp s h (.scan h t op excl r d a ma) d (fun q x l v =>
      let ls := (List.range 32).filter (fun k =>
        (s.running h (.scan h t op excl r d a ma)).getLsbD k && (decide (k < l) || (!excl && k == l)))
      let m := if r.dyn then (x.lane l).fpMode.toNat else r.rm.toNat
      EachElem t v (fun k =>
        let es := ls.map (fun l => fElem t ma (q.srcVal x a l) k)
        if t.isFloat then combineFp t op.toNat m es else (combineInt t op.toNat false es, 0))))

/-! ### Memory (03, 09) -/

/-- R33, R34, R35: an access of a lane through a record to shared memory reaches the `w` bytes at `base + x * stride` for the
element index `e` of R34 and `x = e xor swizzle`, when both lie in bounds, the address is aligned and the bytes lie inside the
declared size; otherwise a lane that is no helper takes BOUNDS or ALIGN, or is without an access. R33, R57, R195, R196: `ld` gives
each lane the bytes that it reaches, as the lane sees them (its own buffered stores over memory), extended to the type; a lane
without an access receives zero. No byte changes. -/
def Obligations.SharedAccessesAndLoadsGiveTheirBytes : Prop :=
  (∀ (s : State) (x : Group) (g l : Nat) (b : BitVec 256) (i : Word) (off : BitVec 24) (w : Nat) (needs : List Need),
     recSpace b = 0 → (x.lane l).helper = false → 0 < w →
     let e := i + off.signExtend 64
     let k := e ^^^ recSwizzle b
     let a := (recBase b).toNat + k.toNat * recStride b
     let inside := 0 ≤ e.toInt ∧ e.toInt < recExtent b ∧ 0 ≤ k.toInt ∧ k.toInt < recExtent b
     (¬ inside → s.reach x g l b i off w needs = if recTraps b then .trap .bounds e else .none_) ∧
     (inside → a % 2 ^ 64 % min w 8 ≠ 0 → s.reach x g l b i off w needs = .trap .align (BitVec.ofNat 64 a)) ∧
     (inside → a % 2 ^ 64 % min w 8 = 0 → (s.block x.blk).sharedSz < a % 2 ^ 64 + w →
       s.reach x g l b i off w needs = .trap .bounds (BitVec.ofNat 64 a)) ∧
     (inside → a % 2 ^ 64 % min w 8 = 0 → a % 2 ^ 64 + w ≤ (s.block x.blk).sharedSz →
       ∃ bs, s.reach x g l b i off w needs = .at_ (a % 2 ^ 64) bs ∧ bs.length = w ∧ ∀ j, j < w → bs.getD j 0 = a % 2 ^ 64 + j)) ∧
  (∀ (s : State) (h : Hdr) (t : Ty) (sp : BitVec 2) (d : BitVec 8) (a : MAddr),
     let i : Instr := .ld h t sp d a
     let e := s.entered h i
     let g := s.ag.cur.grp
     let n := max 1 (widthBytes a.width / 8)
     Runs s h i → Accesses s h i (s.running h i) sp.toNat a [.r] true false →
     ∃ u, exec i s = .next u ∧
       GivenRegs s u h (s.running h i) d.toNat n (fun l j =>
         match s.reaches h i l a [.r] with
         | .at_ _ bs => loadWord t (bs.map (e.laneByte g l sp.toNat)) j
         | _ => 0) ∧
       Touches e u g (s.running h i) (fun r l => h.lf = false ∧ d.toNat ≤ r ∧ r < d.toNat + n ∧ (s.running h i).getLsbD l) noReg ∧
       SameBytes e u)

/-- R57, R195, R197: after a relaxed `st` each lane that stores sees its own bytes, while memory and what every lane sees of the other
bytes are as before, as long as the partition's store buffer has room. R37, R66, R195, R198: an ordered `st` leaves its bytes in
memory; of lanes that store the same byte the highest one's remains, and every other byte is as before. The model's choices in it: log
73, log 141, log 142. -/
def Obligations.StoresLeaveTheirBytes : Prop :=
  (∀ (s : State) (h : Hdr) (t : Ty) (sp : BitVec 2) (d : BitVec 8) (a : MAddr),
     let i : Instr := .st h t sp d a
     let e := s.entered h i
     let g := s.ag.cur.grp
     let x := (s.tag h i).src
     let w := widthBytes a.width
     let m := s.running h i &&& ~~~x.helpers
     Runs s h i → Accesses s h i m sp.toNat a [.w] false true → a.order = 0 →
     ∃ u, exec i s = .next u ∧
       (∀ l va bs, m.getLsbD l → s.reaches h i l a [.w] = .at_ va bs →
         ∀ j, j < w → u.laneByte g l sp.toNat (bs.getD j 0) = (e.storeBytes x d.toNat w l).getD j 0) ∧
       ((∀ q : List (Nat × Nat), q.Nodup →
           (∀ y ∈ q, ∃ l va bs, ∃ k ∈ bs, m.getLsbD l ∧ s.reaches h i l a [.w] = .at_ va bs ∧ y = (sp.toNat, k / 128)) → e.hasRoom g q) →
         Touches e u g (s.running h i) noReg2 noReg ∧ SameBytes e u ∧
         ∀ l k, l < 32 → (∀ va bs, m.getLsbD l → s.reaches h i l a [.w] = .at_ va bs → k ∉ bs) →
           u.laneByte g l sp.toNat k = e.laneByte g l sp.toNat k)) ∧
  (∀ (s : State) (h : Hdr) (t : Ty) (sp : BitVec 2) (d : BitVec 8) (a : MAddr),
     let i : Instr := .st h t sp d a
     let e := s.entered h i
     let g := s.ag.cur.grp
     let x := (s.tag h i).src
     let w := widthBytes a.width
     let m := s.running h i &&& ~~~x.helpers
     let home := e.byteHome g sp.toNat
     Runs s h i → Accesses s h i m sp.toNat a [.w] false true → a.order ≠ 0 →
     (∀ k r, Map.find? e.cores.rings k = some r → ∀ l va bs, m.getLsbD l → s.reaches h i l a [.w] = .at_ va bs → r.notify ≠ va) →
     ∃ u, exec i s = .next u ∧
       (∀ l va bs j, m.getLsbD l → s.reaches h i l a [.w] = .at_ va bs → j < w →
         (∀ l' va' bs', l < l' → m.getLsbD l' → s.reaches h i l' a [.w] = .at_ va' bs' → ∀ k ∈ bs', home k ≠ home (bs.getD j 0)) →
         (sp.toNat = 1 → e.dwsHome (e.polderOf g) (bs.getD j 0) ≠ none) →
         u.spaceByte g sp.toNat (bs.getD j 0) = (e.storeBytes x d.toNat w l).getD j 0) ∧
       (∀ k, (∀ l va bs, m.getLsbD l → s.reaches h i l a [.w] = .at_ va bs → ∀ b ∈ bs, home b ≠ home k) →
         u.spaceByte g sp.toNat k = e.spaceByte g sp.toNat k) ∧
       SameRegs (e.group g) (u.group g) noReg2 noReg noReg2 noReg ∧
       ∀ l, (s.running h i).getLsbD l → l < s.here.lanes.length → (u.lane g l).pc = nextPc (e.lane g l).pc)

/-- R37, R199, R200: a lane of an `atom` or a `cas` whose bytes no other lane of the instruction touches receives what its bytes held,
and leaves the operation's result there (for `cas` the new value, when they held the expected one). R56, R66, R71, R201: after a `fence`
with an order, its lanes hold no buffered store, a byte that one of them alone held is in memory, their detection regions are closed,
and they go on; registers are as before. The model's choices in it: log 48. -/
def Obligations.AtomicsModifyAndFencesCommit : Prop :=
  (∀ (s : State) (h : Hdr) (t : Ty) (op : BitVec 4) (sp : BitVec 2) (d d2 nv : BitVec 8) (a : MAddr),
     let g := s.ag.cur.grp
     let w := widthBytes a.width
     let claim := fun (i : Instr) (k : Nat) (new : Nat → Nat → Nat) =>
       let e := s.entered h i
       let x := (s.tag h i).src
       let m := s.running h i &&& ~~~x.helpers
       let old := fun (bs : List Nat) => bs.map (e.spaceByte g k)
       Runs s h i → Accesses s h i m k a [.r, .w] true true →
       (∀ k r, Map.find? e.cores.rings k = some r → ∀ l va bs, m.getLsbD l → s.reaches h i l a [.r, .w] = .at_ va bs → r.notify ≠ va) →
       ∃ u, exec i s = .next u ∧
         (∀ l va bs, m.getLsbD l → s.reaches h i l a [.r, .w] = .at_ va bs →
           (∀ l' va' bs', l' ≠ l → m.getLsbD l' → s.reaches h i l' a [.r, .w] = .at_ va' bs' →
             ∀ b' ∈ bs', ∀ b ∈ bs, e.byteHome g k b' ≠ e.byteHome g k b) →
           (h.lf = false → Map.get (u.group g).v 0 (32 * d.toNat + l) = loadWord t (old bs) 0) ∧
           ((k = 1 → ∀ b ∈ bs, e.dwsHome (e.polderOf g) b ≠ none) → ∀ j, j < w → u.spaceByte g k (bs.getD j 0) = (bytesOf w (new l (numOf (old bs)))).getD j 0)) ∧
         (∀ q, (∀ l va bs, m.getLsbD l → s.reaches h i l a [.r, .w] = .at_ va bs → ∀ b ∈ bs, e.byteHome g k b ≠ e.byteHome g k q) →
           u.spaceByte g k q = e.spaceByte g k q) ∧
         SameRegs (e.group g) (u.group g) (fun r l => h.lf = false ∧ r = d.toNat ∧ (s.running h i).getLsbD l) noReg noReg2 noReg
     (∀ k, claim (.atom h t op d d2 a) k (fun l old =>
       atomOp t op old (elemU t ((s.entered h (.atom h t op d d2 a)).getV (s.tag h (.atom h t op d d2 a)).src d2.toNat l) 0))) ∧
     claim (.cas h t sp d d2 nv a) sp.toNat (fun l old =>
       if old = elemU t ((s.entered h (.cas h t sp d d2 nv a)).getV (s.tag h (.cas h t sp d d2 nv a)).src d2.toNat l) 0
       then elemU t ((s.entered h (.cas h t sp d d2 nv a)).getV (s.tag h (.cas h t sp d d2 nv a)).src nv.toNat l) 0
       else old)) ∧
  (∀ (s : State) (h : Hdr) (scope : BitVec 3) (order : BitVec 2),
     let i : Instr := .fence h scope order
     let g := s.ag.cur.grp
     Runs s h i →
     (order ≠ 0 → ∃ u, exec i s = .next u ∧
       (∀ b ∈ (u.group g).buf, (s.running h i).getLsbD b.lane = false) ∧
       (∀ b ∈ s.here.buf, (s.running h i).getLsbD b.lane → b.under = false → b.space ≠ 1 →
         (∀ c ∈ s.here.buf, c.space ≤ 2 ∧ (c ≠ b → (c.space, c.addr) ≠ (b.space, b.addr))) →
         (b.space = 0 → (Map.find? s.work.blocks s.here.blk).isSome) → u.spaceByte g b.space b.addr = b.value) ∧
       (∀ d ∈ u.mems.det, ∀ l, l < 32 → (s.running h i).getLsbD l → d.who ≠ .lane g l) ∧
       SameRegs s.here (u.group g) noReg2 noReg noReg2 noReg ∧
       ∀ l, (s.running h i).getLsbD l → l < s.here.lanes.length → (u.lane g l).pc = nextPc (s.lane g l).pc) ∧
     (order = 0 → ∃ u, exec i s = .next u ∧ Computes s u (s.running h i) justAdvance noReg2 noReg noReg2 noReg))

/-- R33, R202: the instructions that form, move and read a buffer record. R28, R203: a `spill` puts each lane's bytes into its part
of the frame at the offset in S95, as the lane sees them, and a push moves S95 up by the frame; a `fill` gives them back, and a pop
moves S95 down first; the frame is resident, or the access does not miss the spill cache. -/
def Obligations.RecordsAndSpillFramesAreUsed : Prop :=
  (∀ (s : State) (h : Hdr) (rc : BitVec 4) (k : BitVec 7) (a : BitVec 8),
     let g := s.ag.cur.grp
     let gives := fun (i : Instr) (v : State → Group → BitVec 256) =>
       Runs s h i → h.lf = false → ∃ u, exec i s = .next u ∧ Map.get (u.group g).b 0 rc.toNat = v (s.tag h i) (s.tag h i).src ∧
         Computes s u (s.running h i) justAdvance noReg2 noReg noReg2 (fun r => r = rc.toNat)
     gives (.recSet h rc k) (fun q x => q.getS x (k.toNat + 3) ++ q.getS x (k.toNat + 2) ++ q.getS x (k.toNat + 1) ++ q.getS x k.toNat) ∧
     gives (.recSetBase h rc a) (fun q x => (q.getB x rc.toNat).extractLsb' 64 192 ++ q.getS x a.toNat) ∧
     gives (.recSetAdv h rc a) (fun q x => (q.getB x rc.toNat).extractLsb' 64 192 ++ ((q.getB x rc.toNat).extractLsb' 0 64 + q.getS x a.toNat)) ∧
     (Runs s h (.recGet h rc k) → h.lf = false → ∃ u, exec (.recGet h rc k) s = .next u ∧
       (∀ j, j < 4 → Map.get (u.group g).s 0 (k.toNat + j) =
         ((s.tag h (.recGet h rc k)).getB (s.tag h (.recGet h rc k)).src rc.toNat).extractLsb' (64 * j) 64) ∧
       Computes s u (s.running h (.recGet h rc k)) justAdvance noReg2 (fun r => k.toNat ≤ r ∧ r < k.toNat + 4) noReg2 noReg)) ∧
  (∀ (s : State) (h : Hdr) (mv : Bool) (d : BitVec 8) (width : BitVec 4) (off : BitVec 24),
     let g := s.ag.cur.grp
     let w := widthBytes width
     let si : Instr := .spill h mv d width off
     let fi : Instr := .fill h mv d width off
     let base := fun (i : Instr) => (s.entered h i).getS (s.tag h i).src 95
     (∀ o, Runs s h si → o = base si + off.signExtend 64 → frameTrap (s.tag h si).src o w = none → (s.entered h si).spillAway (s.tag h si).src g = none → h.lf = false →
       ∃ u, exec si s = .next u ∧
         (∀ l j, (s.running h si &&& ~~~(s.tag h si).src.helpers).getLsbD l → j < w →
           u.laneByte g l 2 (o.toNat + w * l + j) = ((s.entered h si).storeBytes (s.tag h si).src d.toNat w l).getD j 0) ∧
         (mv = true → Map.get (u.group g).s 0 95 = base si + BitVec.ofNat 64 (32 * w)) ∧
         ((∀ q : List (Nat × Nat), q.Nodup → (∀ y ∈ q, ∃ k, o.toNat ≤ k ∧ k < o.toNat + 32 * w ∧ y = (2, k / 128)) →
             (s.entered h si).hasRoom g q) →
           Touches (s.entered h si) u g (s.running h si) noReg2 (fun r => mv = true ∧ r = 95) ∧ SameBytes (s.entered h si) u)) ∧
     (∀ o, Runs s h fi → o = base fi + off.signExtend 64 - (if mv then BitVec.ofNat 64 (32 * w) else 0) →
       frameTrap (s.tag h fi).src o w = none → (s.entered h fi).spillAway (s.tag h fi).src g = none → h.lf = false →
       (∀ l, (s.running h fi).getLsbD l → (s.entered h fi).touchPoison g 2 (frameTouch o w l) = false) →
       ∃ u, exec fi s = .next u ∧
         GivenRegs s u h (s.running h fi) d.toNat (max 1 (w / 8)) (fun l j =>
           loadWord .u64 ((List.range w).map (fun k => (s.entered h fi).laneByte g l 2 (o.toNat + w * l + k))) j) ∧
         (mv = true → Map.get (u.group g).s 0 95 = base fi - BitVec.ofNat 64 (32 * w)) ∧
         Touches (s.entered h fi) u g (s.running h fi)
           (fun r l => d.toNat ≤ r ∧ r < d.toNat + max 1 (w / 8) ∧ (s.running h fi).getLsbD l) (fun r => mv = true ∧ r = 95) ∧
         SameBytes (s.entered h fi) u))

/-! ### Synchronisation and the DWS (09) -/

/-- R204 to R209: `bar.init` gives a barrier its expected count and keeps its phase; an arrival counts the lanes that have not
arrived (or the group once) and completes the phase when the count is reached; each gives the phase that it found. R209: `bar.wait`
passes when the named phase has passed, and holds its lanes otherwise; `bar.test` only says whether it has. -/
def Obligations.BarriersCountAndPassByPhase : Prop :=
  (∀ (s : State) (h : Hdr) (acct : BitVec 2) (group : Bool) (d : BitVec 8) (n : BitVec 5) (v : USrc),
     let g := s.ag.cur.grp
     let blk := s.here.blk
     let b := s.bar blk n.toNat
     let there := if n.toNat < 16 then (Map.find? s.work.blocks blk).isSome
       else (Map.find? s.work.clusters (s.block blk).cluster).isSome
     (∀ e, Runs s h (.barInit h acct d n v) → Live s (s.running h (.barInit h acct d n v)) → there = true →
       e = ((s.tag h (.barInit h acct d n v)).uVal s.src v).toNat → 0 < e → e < 2 ^ 24 →
       ∃ u, exec (.barInit h acct d n v) s = .next u ∧
         u.bar blk n.toNat = { phase := b.phase, count := 0, expected := e, mode := acct.toNat, init := true, lanesArr := [], groupArr := [] } ∧
         (∀ k, k ≠ n.toNat → u.bar blk k = s.bar blk k) ∧
         GivenUni s u h (.barInit h acct d n v) d (b.phase.setWidth 64) ∧ Gone s u (s.running h (.barInit h acct d n v))) ∧
     (Runs s h (.barArrive h group d n) → Live s (s.running h (.barArrive h group d n)) → there = true → b.init = true →
       let count := b.count + (if group then (if NatSet.mem b.groupArr g then 0 else 1)
         else ((lanesOf (s.running h (.barArrive h group d n))).filter (fun l =>
           !s.src.helpers.getLsbD l && !NatSet.mem b.lanesArr (32 * g + l))).length)
       ∃ u, exec (.barArrive h group d n) s = .next u ∧
         (u.bar blk n.toNat).phase = (if b.expected ≤ count then b.phase + 1 else b.phase) ∧
         (u.bar blk n.toNat).count = (if b.expected ≤ count then 0 else count) ∧
         (∀ k, k ≠ n.toNat → u.bar blk k = s.bar blk k) ∧
         (count < b.expected ∨ s.here.waits = [] →
           GivenUni s u h (.barArrive h group d n) d (b.phase.setWidth 64) ∧ Gone s u (s.running h (.barArrive h group d n))))) ∧
  (∀ (s : State) (h : Hdr) (par : Bool) (d : BitVec 8) (n : BitVec 5) (v : USrc),
     let b := s.bar s.here.blk n.toNat
     let wi : Instr := .barWait h n v
     let ti : Instr := .barTest h par d n v
     (∀ p, Runs s h wi → Live s (s.running h wi) → b.init = true → p = (s.tag h wi).uVal s.src v →
       let past := (b.phase - p.setWidth 16).toNat
       ∃ u, exec wi s = .next u ∧
         (1 ≤ past ∧ past ≤ 32767 → Gone s u (s.running h wi)) ∧
         (¬ (1 ≤ past ∧ past ≤ 32767) → Held s u (s.running h wi) .barrier wi [p])) ∧
     (∀ p, Runs s h ti → Live s (s.running h ti) → b.init = true → p = (s.tag h ti).uVal s.src v →
       let past := (b.phase - p.setWidth 16).toNat
       ∃ u, exec ti s = .next u ∧ Gone s u (s.running h ti) ∧ (∀ k, u.bar s.here.blk k = s.bar s.here.blk k) ∧
         GivenUni s u h ti d (if par then (if b.phase.getLsbD 0 = p.getLsbD 0 then 0 else 1)
           else if 1 ≤ past ∧ past ≤ 32767 then 1 else 0)))

/-- R210, R211: the instructions that look at the block's tag map, and what `clr` and `tag.clear` take out of it. R210, R211, R212:
the waits on tags and on a chunk-map word pass at once when their condition holds, giving the bits waited for, and hold their lanes
otherwise; `cmap.test` does not wait. A chunk-map word outside the allocation takes BOUNDS. -/
def Obligations.TagsAreReadClearedAndAwaited : Prop :=
  (∀ (s : State) (h : Hdr) (clr : Bool) (d a : BitVec 8),
     let blk := s.here.blk
     let tags := (s.block blk).tags
     let mask := fun (i : Instr) => (s.tag h i).getS s.src a.toNat
     (Runs s h (.tagFirst h clr d a) → Live s (s.running h (.tagFirst h clr d a)) →
       let hit := tags &&& mask (.tagFirst h clr d a)
       ∃ u, exec (.tagFirst h clr d a) s = .next u ∧ Gone s u (s.running h (.tagFirst h clr d a)) ∧
         (hit = 0 → GivenUni s u h (.tagFirst h clr d a) d (BitVec.allOnes 64) ∧ (u.block blk).tags = tags) ∧
         (∀ k, hit.getLsbD k = true → (∀ j, j < k → hit.getLsbD j = false) →
           GivenUni s u h (.tagFirst h clr d a) d (BitVec.ofNat 64 k) ∧
           ∀ j, (u.block blk).tags.getLsbD j = (tags.getLsbD j && !(clr && j == k)))) ∧
     (Runs s h (.tagRead h d a) → GivesUni s h (.tagRead h d a) d (fun q x _ w => w = (q.block x.blk).tags &&& q.getS x a.toNat)) ∧
     (Runs s h (.tagReadSt h d a) → GivesUni s h (.tagReadSt h d a) d (fun q x _ w =>
       w.toNat = (Map.get (q.block x.blk).tagStatus 0 ((q.getS x a.toNat).toNat % 64)).toNat)) ∧
     (Runs s h (.tagClear h a) → Live s (s.running h (.tagClear h a)) → ∃ u, exec (.tagClear h a) s = .next u ∧
       Gone s u (s.running h (.tagClear h a)) ∧ (u.block blk).tags = tags &&& ~~~mask (.tagClear h a) ∧
       (∀ k, k < 64 → Map.get (u.block blk).tagStatus 0 k =
         if (mask (.tagClear h a)).getLsbD k then 0 else Map.get (s.block blk).tagStatus 0 k) ∧
       SameDevice s u ∧ SameRegs s.here (u.group s.ag.cur.grp) noReg2 noReg noReg2 noReg)) ∧
  (∀ (s : State) (h : Hdr) (clr : Bool) (d a b : BitVec 8),
     let g := s.ag.cur.grp
     let blk := s.here.blk
     let tags := (s.block blk).tags
     let regA := fun (i : Instr) => (s.entered h i).getS s.src a.toNat
     let regB := fun (i : Instr) => (s.entered h i).getS s.src b.toNat
     let word := fun (i : Instr) => (s.entered h i).sharedWord blk (regA i).toNat
     let inMap := fun (i : Instr) => (regA i).toNat % 8 = 0 ∧ (regA i).toNat + 8 ≤ (s.block blk).sharedSz
     (∀ i, i = .tagWaitany h clr d a → Runs s h i → Live s (s.running h i) → ∃ u, exec i s = .next u ∧
       (tags &&& regA i = 0 → Held s u (s.running h i) .tag i [regA i] ∧ (u.block blk).tags = tags) ∧
       (tags &&& regA i ≠ 0 → Gone s u (s.running h i) ∧ GivenUni s u h i d (tags &&& regA i) ∧
         (u.block blk).tags = if clr then tags &&& ~~~regA i else tags)) ∧
     (∀ i, i = .tagWaitall h clr d a → Runs s h i → Live s (s.running h i) → ∃ u, exec i s = .next u ∧
       (tags &&& regA i ≠ regA i → Held s u (s.running h i) .tag i [regA i] ∧ (u.block blk).tags = tags) ∧
       (tags &&& regA i = regA i → Gone s u (s.running h i) ∧ GivenUni s u h i d (regA i) ∧
         (u.block blk).tags = if clr then tags &&& ~~~regA i else tags)) ∧
     (∀ i, i = .cmapWait h d a b → Runs s h i → Live s (s.running h i) → inMap i → ∃ u, exec i s = .next u ∧
       (word i &&& regB i ≠ regB i → Held s u (s.running h i) .tag i [regA i, regB i]) ∧
       (word i &&& regB i = regB i → Gone s u (s.running h i) ∧ GivenUni s u h i d (regB i))) ∧
     (∀ i, i = .cmapTest h d a b → Runs s h i → Live s (s.running h i) → inMap i → GivesUni s h i d (fun q x _ w =>
       w = q.sharedWord x.blk (q.getS x a.toNat).toNat &&& q.getS x b.toNat)) ∧
     (∀ i l, i = .cmapTest h d a b ∨ i = .cmapWait h d a b → Runs s h i → Live s (s.running h i) → ¬ inMap i → (s.running h i).getLsbD l →
       l < s.here.lanes.length → ∃ u, exec i s = .next u ∧ TakesTrap s u g l 6 (regA i)))

/-- R213, R214, R216: `ring.bind` takes the lowest free slot of the core's watcher, starts at the producer index in the notify word and
writes the ring's first 16 bytes; `ring.unbind` releases an idle ring and gives its consumer index, and waits for one that is not idle.
The model's choices in it: log 149, log 150. -/
def Obligations.RingsAreBoundAndUnbound : Prop :=
  ∀ (s : State) (h : Hdr) (d a b : BitVec 8) (n : BitVec 32),
    let blk := s.here.blk
    let core := s.src.core
    let bi : Instr := .ringBind h d a b n
    let ui : Instr := .ringUnbind h d a
    let e := s.entered h bi
    let base := (e.getS s.src a.toNat).toNat
    let notify := (e.getS s.src b.toNat).toNat
    let fits := (n.toNat ∈ [16, 32, 64, 128, 256]) ∧ base % 64 = 0 ∧ notify % 8 = 0 ∧ base + 64 + 32 * n.toNat ≤ (s.block blk).sharedSz ∧
      notify + 8 ≤ (s.block blk).sharedSz ∧ (notify + 8 ≤ base ∨ base + 64 + 32 * n.toNat ≤ notify)
    let k := ((s.entered h ui).getS s.src a.toNat).toNat
    (Runs s h bi → Live s (s.running h bi) → ∃ u, exec bi s = .next u ∧ Gone s u (s.running h bi) ∧
      (¬ fits → GivenUni s u h bi d (BitVec.ofInt 64 (-2)) ∧ u.cores.rings = s.cores.rings) ∧
      (fits → (∀ k, k < 16 → (Map.find? s.cores.rings (16 * core + k)).isSome) →
        GivenUni s u h bi d (BitVec.ofInt 64 (-1)) ∧ u.cores.rings = s.cores.rings) ∧
      (∀ k, fits → k < 16 → Map.find? s.cores.rings (16 * core + k) = none →
        (∀ j, j < k → (Map.find? s.cores.rings (16 * core + j)).isSome) →
        let p := (e.sharedWord blk notify).toNat
        GivenUni s u h bi d (BitVec.ofNat 64 k) ∧
        Map.find? u.cores.rings (16 * core + k) = some
          { blk := blk, grp := s.ag.cur.grp, base := base, notify := notify, n := n.toNat, prod := p,
            next := p, cons := p, halted := false, unbind := false } ∧
        u.sharedWord blk base = e.sharedWord blk notify ∧ u.sharedWord blk (base + 8) = 0 ∧
        ∀ x, ¬ (base ≤ x ∧ x < base + 16) → Map.get (u.block blk).shared 0 x = Map.get (e.block blk).shared 0 x)) ∧
    (Runs s h ui → Live s (s.running h ui) → (k < 16 → ∀ r, Map.find? s.cores.rings (16 * core + k) = some r → r.blk ≠ blk) →
      ∃ u, exec ui s = .next u ∧ Gone s u (s.running h ui) ∧ GivenUni s u h ui d (BitVec.ofInt 64 (-3)) ∧ u.cores.rings = s.cores.rings) ∧
    (∀ r, Runs s h ui → Live s (s.running h ui) → k < 16 → Map.find? s.cores.rings (16 * core + k) = some r → r.blk = blk →
      ∃ u, exec ui s = .next u ∧
        (s.ringBusy core k = true ∨ (s.entered h ui).owes r = true →
          Held s u (s.running h ui) .tag ui [BitVec.ofNat 64 k] ∧ Map.find? u.cores.rings (16 * core + k) = some { r with unbind := true }) ∧
        (s.ringBusy core k = false → (s.entered h ui).owes r = false → Gone s u (s.running h ui) ∧
          GivenUni s u h ui d (BitVec.ofNat 64 (r.cons + if r.halted then 2 ^ 63 else 0)) ∧
          Map.find? u.cores.rings (16 * core + k) = none))

/-- R225, R351: `dws.pin` and `dws.unpin` answer 0 and move the pin count of each page by one, or answer the code of the first check
that fails and change no pin. R225, R351: `dws.alloc` allocates pages of the device-allocation window from the free frames of the CD
and answers their address, or a code when the count is bad or frames or address range are short; `dws.free` releases the allocation
whose base it names. The model's choices in it: log 49, log 50. -/
def Obligations.DwsPagesArePinnedAllocatedAndFreed : Prop :=
  (∀ (s : State) (h : Hdr) (d a : BitVec 8) (v : USrc),
     let p := s.polderOf s.ag.cur.grp
     let claim := fun (i : Instr) (up : Bool) =>
       let e := s.entered h i
       let addr := (e.getS s.src a.toNat).toNat
       let n := (e.uVal s.src v).toNat
       let ask := fun (q : Nat) => addr / 65536 ≤ q ∧ q < addr / 65536 + n
       let pin := fun (q : Nat) => Map.get (s.xlat p).pins 0 q
       let unmapped := addr % 65536 ≠ 0 ∨ ∃ q, ask q ∧ e.frameOfPage p q = none
       let worn := ∃ q, ask q ∧ (if up then 255 ≤ pin q else pin q = 0)
       let short := up = true ∧ ∃ cd, (∃ q f, ask q ∧ e.frameOfPage p q = some f ∧ (s.xlat p).frameCd f = cd) ∧
         min ((s.xlat p).window.filter (fun q => (s.xlat p).frameCd q.1 == cd)).length (s.usableFrames cd) <
           ((e.pinnedFrames p cd ++ ((pagesFrom (BitVec.ofNat 64 addr) n).filterMap (e.frameOfPage p)).filter
             (fun f => (s.xlat p).frameCd f == cd)).eraseDups).length + 40
       Runs s h i → Live s (s.running h i) → (Map.find? s.tr.polder p).isSome →
       ∃ u, exec i s = .next u ∧
         (n = 0 ∨ 64 < n → Answered s u h (s.running h i) .fault i d (BitVec.ofInt 64 (-3))) ∧
         (1 ≤ n → n ≤ 64 → unmapped → Answered s u h (s.running h i) .fault i d (BitVec.ofInt 64 (-7))) ∧
         (1 ≤ n → n ≤ 64 → ¬ unmapped → worn → Answered s u h (s.running h i) .fault i d (BitVec.ofInt 64 (if up then -8 else -6))) ∧
         (1 ≤ n → n ≤ 64 → ¬ unmapped → ¬ worn → short → Answered s u h (s.running h i) .fault i d (BitVec.ofInt 64 (-5))) ∧
         (1 ≤ n → n ≤ 64 → ¬ unmapped → ¬ worn → ¬ short → Answered s u h (s.running h i) .fault i d 0 ∧
           ∀ q, Map.get (u.xlat p).pins 0 q = if ask q then (if up then pin q + 1 else pin q - 1) else pin q) ∧
         (n = 0 ∨ 64 < n ∨ unmapped ∨ worn ∨ short → ∀ q, Map.get (u.xlat p).pins 0 q = pin q)
     claim (.dwsPin h d a v) true ∧ claim (.dwsUnpin h d a v) false) ∧
  (∀ (s : State) (h : Hdr) (d a : BitVec 8) (v : USrc),
     let p := s.polderOf s.ag.cur.grp
     let l := s.launchOf s.ag.cur.grp
     let ai : Instr := .dwsAlloc h d v
     let fi : Instr := .dwsFree h d a
     let x := s.xlat p
     let n := ((s.entered h ai).uVal s.src v).toNat
     let fs := s.takeable p s.src.cd
     let lat := near 6 (2095 * (10 + min n 64) / 10)
     let short := fs.length < n ∨ s.freePart p < n - min n (s.launch l).resLeft
     let addr := ((s.entered h fi).getS s.src a.toNat).toNat
     (Runs s h ai → Live s (s.running h ai) → (Map.find? s.tr.polder p).isSome → ∃ u, exec ai s = .next u ∧
       (n = 0 ∨ 64 < n → Answered s u h (s.running h ai) .fault ai d (BitVec.ofInt 64 (-3)) lat ∧ (u.xlat p).allocs = x.allocs) ∧
       (1 ≤ n → n ≤ 64 → short → Answered s u h (s.running h ai) .fault ai d (BitVec.ofInt 64 (-1)) lat ∧ (u.xlat p).allocs = x.allocs) ∧
       (1 ≤ n → n ≤ 64 → ¬ short → (∀ k, x.windowFree k n = false) →
         Answered s u h (s.running h ai) .fault ai d (BitVec.ofInt 64 (-2)) lat ∧ (u.xlat p).allocs = x.allocs) ∧
       (1 ≤ n → n ≤ 64 → ¬ short → (∃ k, x.windowFree k n = true) → ∃ base, x.windowFree base n = true ∧
         Answered s u h (s.running h ai) .fault ai d (BitVec.ofNat 64 (base * 65536)) lat ∧
         (u.xlat p).allocs = x.allocs ++ [{ base := base, frames := fs.take n, launch := l, drawn := min n (s.launch l).resLeft }])) ∧
     (Runs s h fi → Live s (s.running h fi) → (Map.find? s.tr.polder p).isSome → ∃ u, exec fi s = .next u ∧
       ((∀ q ∈ x.allocs, q.base * 65536 ≠ addr) →
         Answered s u h (s.running h fi) .fault fi d (BitVec.ofInt 64 (-4)) ∧ (u.xlat p).allocs = x.allocs) ∧
       (∀ b, (∃ q ∈ x.allocs, q.base = b) → b * 65536 = addr →
         Answered s u h (s.running h fi) .fault fi d 0 ∧ (u.xlat p).allocs = x.allocs.filter (fun q => q.base != b))))

/-! ### Matrix (10) -/

/-- R229, R230, R231: `conv.decl` gives a convergence register a set of distinct groups of its block and partition, the own one among
them, with a lane mask each; `conv.decl.free` empties it; both answer BUSY for another group's declaration or a pending round.
`conv.read` shows what is declared and which own lanes have signed. The model's choices in it: log 54. -/
def Obligations.ConvergenceSetsAreDeclared : Prop :=
  ∀ (s : State) (h : Hdr) (gc : BitVec 2) (d : BitVec 8) (c : BitVec 3) (k : BitVec 7),
    let g := s.ag.cur.grp
    let x := s.src
    let key := 8 * x.part + c.toNat
    let busy := ∃ q, Map.find? s.cores.convs key = some q ∧ (g ∉ q.members ∨ q.round.isSome)
    let n := 2 ^ gc.toNat
    (∀ i, i = .convDecl h gc d c k → Runs s h i → Live s (s.running h i) →
      let reg := fun j => (s.tag h i).getS x (k.toNat + j)
      let mask := fun (j : Nat) => BitVec.ofNat 32 ((reg (if j < 2 then 1 else 2)).toNat / 2 ^ (32 * (j % 2)))
      let names := fun (ks : List Nat) => ks.length = n ∧ ks.Nodup ∧ g ∈ ks ∧
        ∀ j, j < n → (s.tag h i).member x ((reg 0).toNat / 2 ^ (5 * j) % 32) = some (ks.getD j 0) ∧ mask j ≠ 0
      ∃ u, exec i s = .next u ∧ Gone s u (s.running h i) ∧
        (busy → GivenUni s u h i d (BitVec.ofInt 64 (-1)) ∧ u.cores.convs = s.cores.convs) ∧
        (¬ busy → (∀ ks, ¬ names ks) → GivenUni s u h i d (BitVec.ofInt 64 (-2)) ∧ u.cores.convs = s.cores.convs) ∧
        (∀ ks, ¬ busy → names ks → GivenUni s u h i d 0 ∧
          Map.find? u.cores.convs key = some { blk := x.blk, members := ks, masks := (List.range n).map mask, round := none } ∧
          ∀ q, q ≠ key → Map.find? u.cores.convs q = Map.find? s.cores.convs q)) ∧
    (∀ i, i = .convDeclFree h d c → Runs s h i → Live s (s.running h i) → ∃ u, exec i s = .next u ∧ Gone s u (s.running h i) ∧
      (busy → GivenUni s u h i d (BitVec.ofInt 64 (-1)) ∧ u.cores.convs = s.cores.convs) ∧
      (¬ busy → GivenUni s u h i d 0 ∧ Map.find? u.cores.convs key = none ∧
        ∀ q, q ≠ key → Map.find? u.cores.convs q = Map.find? s.cores.convs q)) ∧
    (∀ i, i = .convRead h d c → Runs s h i → ∃ u w, exec i s = .next u ∧ UniResult s u h i d w ∧
      (Map.find? s.cores.convs key = none → w = 0) ∧
      (∀ q, Map.find? s.cores.convs key = some q → q.members.length ∈ [1, 2, 4] → q.members.length = q.masks.length →
        (∀ l, l < 32 → (w.getLsbD l = true ↔ ∃ r e, q.round = some r ∧ e ∈ r.sigs ∧ e.grp = g ∧ e.lane = l)) ∧
        2 ^ (w.toNat / 2 ^ 32 % 4) = q.members.length ∧ w.getLsbD 34 = decide (g ∈ q.members) ∧ w.getLsbD 35 = q.round.isSome ∧
        w.getLsbD 36 = true ∧ (g ∈ q.members → q.members.getD (w.toNat / 2 ^ 37) 0 = g)))

/-- R232, R233, R236, R238: the lanes of a signing bundle that pass the checks sign the pending round, open their windows and go on;
when every declared lane has signed or left, the round issues: the tile takes the accumulator's format, the operation is in flight
and the register is free for the next round. A lane that has signed already waits in MATRIX. R241, R242: `mfence` holds a lane while a
result of an instruction that it issued has not landed, and lets the others go on; `mwait` holds each lane that has signed an operation on the tile that has not
completed (`mwait.all`: on any tile), and closes the windows of the others. -/
def Obligations.SigningAndMatrixWaits : Prop :=
  (∀ (s : State) (h : Hdr) (f : MmaF) (W : Word) (c : Conv),
     let g := s.ag.cur.grp
     let x := s.src
     let key := 8 * x.part + f.conv.toNat
     let claim := fun (i : Instr) (batch : Bool) =>
       let m := s.running h i
       let signed := fun (q l : Nat) => ∃ r e, c.round = some r ∧ e ∈ r.sigs ∧ e.grp = q ∧ e.lane = l
       let fmt := fun (q t : Nat) => Map.get (s.group q).tileFmt 0 t
       Runs s h i → Live s m → Map.find? s.cores.convs key = some c → g ∈ c.members → m &&& ~~~(c.masks.getD (c.members.idxOf g) 0) = 0 →
       ((∀ l, m.getLsbD l → signed g l) → ∃ u, exec i s = .next u ∧ Held s u m .matrix i []) ∧
       ((∀ l, m.getLsbD l → ¬ signed g l ∧ (s.entered h i).getV x f.fw.toNat l = W) → okWord f W = true →
         (∀ r, c.round = some r → r.agrees batch f W = true ∧ r.sameRegs g f = true) →
         (f.zacc = true ∨ fmt g f.tile.toNat = 0 ∨ fmt g f.tile.toNat = accFormat W) →
         (f.zacc = true ∨ ∀ r e, c.round = some r → e ∈ r.sigs → fmt e.grp e.tile = 0 ∨ fmt e.grp e.tile = accFormat W) →
         ∃ u r, exec i s = .next u ∧ Gone s u m ∧
           r.batch = batch ∧ r.ty = f.ty ∧ r.sat = f.sat ∧ r.zacc = f.zacc ∧ r.word = W ∧
           (∀ q l, (∃ e ∈ r.sigs, e.grp = q ∧ e.lane = l) ↔ signed q l ∨ (q = g ∧ m.getLsbD l = true)) ∧
           (∀ l, m.getLsbD l → ∃ w ∈ (u.group g).windows, w.lane = l ∧ w.round = r.id ∧ w.tile = f.tile.toNat) ∧
           (s.allSigned c r = false → Map.find? u.cores.convs key = some { c with round := some r }) ∧
           (s.allSigned c r = true → Map.find? u.cores.convs key = some { c with round := none } ∧
             (∃ o, Map.find? u.cores.matOps r.id = some o ∧ o.round = r ∧ o.members = c.members) ∧
             Map.get (u.group g).tileFmt 0 f.tile.toNat = accFormat W ∧ ∃ n, (n, .matrixOpComplete r.id) ∈ u.ag.atCycle))
     claim (.mma h f) false ∧ claim (.mmaBatch h f) true) ∧
  (∀ (s : State) (h : Hdr) (t : BitVec 5),
     let g := s.ag.cur.grp
     let pends := fun (l : Nat) => (∃ p ∈ s.here.pending, p.lanes.getLsbD l = true ∧ p.writes ≠ []) ∨
       ∃ q ∈ s.here.score, s.ag.cycle < q.at_ ∧ q.by_.getLsbD l = true
     let waits := fun (i : Instr) (on : Nat → Prop) =>
       Runs s h i → Live s (s.running h i) → ∃ u, exec i s = .next u ∧ ∀ l, (s.running h i).getLsbD l →
         ((∃ w ∈ s.here.windows, w.lane = l ∧ on w.tile ∧ w.round ≠ 0) →
           (u.lane g l).wait = .matrix ∧ (u.lane g l).pc = (s.lane g l).pc) ∧
         ((∀ w ∈ s.here.windows, w.lane = l → on w.tile → w.round = 0) →
           (u.lane g l).pc = nextPc (s.lane g l).pc ∧ ∀ w ∈ (u.group g).windows, ¬ (w.lane = l ∧ on w.tile))
     (Runs s h (.mfence h) → Live s (s.running h (.mfence h)) → s.src.pending = s.here.pending → ∃ u, exec (.mfence h) s = .next u ∧
       ∀ l, (s.running h (.mfence h)).getLsbD l →
         (pends l → (u.lane g l).pc = (s.lane g l).pc ∧ ∃ q ∈ (u.group g).waits, q.instr = .mfence h ∧ q.lanes.getLsbD l = true) ∧
         (¬ pends l → (u.lane g l).pc = nextPc (s.lane g l).pc)) ∧
     waits (.mwait h t) (fun k => k = t.toNat) ∧ waits (.mwaitAll h) (fun _ => True))

/-- R124, R125, R236 to R239: when an operation completes and no register that it reads is poisoned, every member with a signer has
its tile's entries replaced by the sums over the shape's depth (for INT8 without saturation, the exact sum modulo 2^32); other tiles
are as before, and the windows of the operation are closed. -/
def Obligations.MatrixOperationsWriteTheirTiles : Prop :=
  ∀ (s : State) (id : Nat) (o : MatOp), Map.find? s.cores.matOps id = some o → id ≠ 0 →
    let r := o.round
    let g0 := o.members.headD 0
    r.sigs.any (s.sigPoison r g0) = false →
    ∃ u, exec (.matrixOpComplete id) s = .next u ∧ Map.find? u.cores.matOps id = none ∧
      ∀ g e, g ∈ o.members → r.sigs.find? (fun e => e.grp == g) = some e → (s.group g).retired = false →
        (∃ y, Map.find? u.work.groups g = some y ∧ y.retired = false) →
        (∀ w ∈ (u.group g).windows, w.round ≠ id) ∧
        ∀ row col, row < 16 → col < 16 →
          let tile := fun (q : State) (t : Nat) => Map.get (q.group g).tile 0 (256 * t + 16 * row + col)
          let a := fun (k : Nat) => if r.batch then s.fragment r g (e.areg + 2 * (row % 4)) (row / 4 * 4 + col / 4) k
            else s.fragment r g e.areg row k
          let b := fun (k : Nat) => if r.batch then s.fragment r g (e.breg + 2 * (col % 4)) (row / 4 * 4 + col / 4) k
            else match r.sigs.find? (fun e => e.grp == g0) with
              | some e0 => s.fragment r g0 e0.breg col k
              | none => 0
          let c := if r.zacc then 0 else tile s e.tile
          let num := fun (n : Nat) => if r.ty = .i8x8 then signedOf 8 n else (n : Int)
          tile u e.tile = matElem r c ((List.range (4 * perReg r.ty)).map (fun k => (a k, b k))) ∧
          (r.sat = false → (r.ty = .i8x8 ∨ r.ty = .u8x8) → (tile u e.tile).toNat < 2 ^ 32 ∧
            ((2 ^ 32 : Nat) : Int) ∣ ((tile u e.tile).toNat : Int) -
              (signedOf 32 (c.toNat % 2 ^ 32) + ((List.range 32).map (fun k => num (a k) * num (b k))).sum)) ∧
          ∀ t, t ≠ e.tile → tile u t = tile s t

/-- R243, R244: with an operation pending on the tile an instruction on it waits for those pending now, with the values that it has
read; with none, and when it performs after that wait, `acc.put` writes the executing lanes' part of its image, `acc.get` reads it and
`acc.zero` zeroes the tile; a put or zero gives the tile its format. What `acc.get` gives a lane before its `mwait` is unspecified (R80). R245: `fmtw` forms a format word from its immediate, with one
or both scales taken from the source. -/
def Obligations.TilesAndFormatWordsAreMoved : Prop :=
  (∀ (s : State) (h : Hdr) (t : Ty) (tile : BitVec 5) (r : BitVec 8),
     let g := s.ag.cur.grp
     let clip := fun (w : Word) => if t.lane32 then BitVec.ofNat 64 (w.toNat % 2 ^ 32) else w
     let fmt := Map.get s.here.tileFmt 0 tile.toNat
     let key := fun (l j : Nat) => 256 * tile.toNat + 16 * (l / 2) + 8 * (l % 2) + j
     let on := fun (w : Window) => w.tile = tile.toNat ∧ w.round ≠ 0
     let busy := s.ag.cur.ops = none ∧ ∃ w ∈ s.here.windows, on w
     let read := fun (i : Instr) (l j : Nat) => match s.ag.cur.ops with
       | none => (s.tag h i).getV s.src (r.toNat + j) l
       | some ops => ops.getD ((ops.headD 0).toNat + 1 + (8 * l + j)) 0
     (∀ i, i = .accPut h t tile r ∨ i = .accGet h t r tile ∨ i = .accZero h t tile → Runs s h i → Live s (s.running h i) → busy →
       ∃ u rs vs, exec i s = .next u ∧ Held s u (s.running h i) .matrix i (BitVec.ofNat 64 rs.length :: rs ++ vs) ∧
         (∀ n, n ∈ rs ↔ ∃ w ∈ s.here.windows, on w ∧ n = BitVec.ofNat 64 w.round) ∧
         (i = .accPut h t tile r → ∀ l j, l < 32 → j < 8 → vs.getD (8 * l + j) 0 = (s.tag h i).getV s.src (r.toNat + j) l) ∧
         (u.group g).tile = s.here.tile) ∧
     (∀ i, i = .accPut h t tile r → Runs s h i → ¬ busy → fmt = 0 ∨ fmt = tyFmt t → ∃ u, exec i s = .next u ∧
       Map.get (u.group g).tileFmt 0 tile.toNat = tyFmt t ∧
       (∀ l j, (s.running h i).getLsbD l → j < 8 → Map.get (u.group g).tile 0 (key l j) = clip (read i l j)) ∧
       (∀ k, (∀ l j, (s.running h i).getLsbD l → j < 8 → k ≠ key l j) → Map.get (u.group g).tile 0 k = Map.get s.here.tile 0 k) ∧
       SameRegs s.here (u.group g) noReg2 noReg noReg2 noReg ∧ LanesMove s u (s.running h i) justAdvance) ∧
     (∀ i, i = .accGet h t r tile → Runs s h i → ¬ busy → fmt = 0 ∨ fmt = tyFmt t →
       (∀ l j, (s.running h i).getLsbD l → j < 8 → NatSet.mem s.here.poisonT (key l j) = false) → ∃ u val, exec i s = .next u ∧
       GivenRegs s u h (s.running h i) r.toNat 8 val ∧
       (∀ l j, (∀ w ∈ s.here.windows, w.lane = l → w.tile ≠ tile.toNat) → val l j = clip (Map.get s.here.tile 0 (key l j))) ∧
       Computes s u (s.running h i) justAdvance
         (fun k l => h.lf = false ∧ r.toNat ≤ k ∧ k < r.toNat + 8 ∧ (s.running h i).getLsbD l) noReg noReg2 noReg) ∧
     (∀ i, i = .accZero h t tile → Runs s h i → ¬ busy → ∃ u, exec i s = .next u ∧
       Map.get (u.group g).tileFmt 0 tile.toNat = tyFmt t ∧
       (∀ k, Map.get (u.group g).tile 0 k = if 256 * tile.toNat ≤ k ∧ k < 256 * tile.toNat + 256 then 0 else Map.get s.here.tile 0 k) ∧
       SameRegs s.here (u.group g) noReg2 noReg noReg2 noReg ∧ LanesMove s u (s.running h i) justAdvance)) ∧
  (∀ (s : State) (h : Hdr) (mode : BitVec 4) (d : BitVec 8) (a : Src) (imm : BitVec 32),
     Runs s h (.fmtw h mode d a imm) → GivesVec s h (.fmtw h mode d a imm) d (fun q x l w =>
       ∀ p, p < 64 → w.getLsbD p =
         if 12 ≤ p ∧ p < 20 ∧ (mode.toNat = 1 ∨ 3 ≤ mode.toNat) then (q.srcVal x a l).getLsbD (p - 12)
         else if 20 ≤ p ∧ p < 28 ∧ mode.toNat = 2 then (q.srcVal x a l).getLsbD (p - 20)
         else if 20 ≤ p ∧ p < 28 ∧ 3 ≤ mode.toNat then (q.srcVal x a l).getLsbD (p - 12)
         else decide (p < 30) && imm.getLsbD p))

/-! ### System and run control (11) -/

/-- R250, R251, R253: `spawn` hands its record to the front end and its lanes wait for the answer; `spawn.wait` passes when no named
child slot is live, and holds its lanes otherwise. R263, R264: `pre.done` lets the queue's next launch start; `pre.wait` passes once
the launch has no predecessor without a token, giving its completion status, and holds its lanes until then. R22, R250 to R252: the
front end answers a spawn with the child's id and slot, having made the child cluster pending with its lineage, or with the negative of
the first check that it fails (a trap at the deepest level when asked for). The model's choices in it: log 138, log 140. -/
def Obligations.SpawnsAskAndMakeAChildCluster : Prop :=
  (∀ (s : State) (h : Hdr) (trp : Bool) (d a : BitVec 8) (k : BitVec 7),
     let si : Instr := .spawn h trp d k
     let wi : Instr := .spawnWait h d a
     let reg := fun j => (s.entered h si).getS s.src (k.toNat + j)
     let mask := (s.entered h wi).getS s.src a.toNat
     let children := (s.cluster (s.block s.here.blk).cluster).children
     (Runs s h si → Live s (s.running h si) → ∃ u id q, exec si s = .next u ∧ Held s u (s.running h si) .spawnwait si [] ∧
       Map.find? u.work.spawns id = some q ∧ (s.ag.cycle + latency si, .spawnAnswer id) ∈ u.ag.atCycle ∧
       q.grp = s.ag.cur.grp ∧ q.lanes = s.running h si ∧ q.d = d.toNat ∧ q.trp = trp ∧ q.desc = reg 0 ∧ q.rec1 = reg 1 ∧
       (∀ j, j < 8 → q.params.getD j 0 = reg (2 + j)) ∧ ∀ l, (s.running h si).getLsbD l → (u.lane s.ag.cur.grp l).waitId = id) ∧
     (Runs s h wi → Live s (s.running h wi) → ∃ u, exec wi s = .next u ∧
       (children &&& mask ≠ 0 → Held s u (s.running h wi) .spawnwait wi [mask]) ∧
       (children &&& mask = 0 → Gone s u (s.running h wi) ∧ GivenUni s u h wi d 0))) ∧
  (∀ (s : State) (h : Hdr) (d : BitVec 8),
     let l := s.launchOf s.ag.cur.grp
     (Runs s h (.preDone h) → (Map.find? s.work.launches l).isSome → ∃ u, exec (.preDone h) s = .next u ∧
       (u.launch l).preDone = true ∧ (∀ k, k ≠ l → u.launch k = s.launch k) ∧
       ∀ j, j < s.here.lanes.length → (s.running h (.preDone h)).getLsbD j → (u.lane s.ag.cur.grp j).pc = nextPc (s.lane s.ag.cur.grp j).pc) ∧
     (Runs s h (.preWait h d) → Live s (s.running h (.preWait h d)) → ∃ u, exec (.preWait h d) s = .next u ∧
       ((s.launch l).pred.isSome → Held s u (s.running h (.preWait h d)) .prewait (.preWait h d) []) ∧
       ((s.launch l).pred = none → Gone s u (s.running h (.preWait h d)) ∧
         GivenUni s u h (.preWait h d) d (BitVec.ofNat 64 (s.launch l).predStat)))) ∧
  (∀ (s t : State) (id : Nat) (r : SpawnReq) (bs : List Byte), Map.find? s.work.spawns id = some r →
     let ck := (s.block r.blk).cluster
     let c := s.cluster ck
     let lk := c.launch
     let k := kernelOf bs
     (s.launch lk).done = false → (s.launch lk).ended = none → r.desc.toNat % 64 = 0 →
     s.frontRead (s.launch lk).queue r.desc.toNat 64 = (t, .ok bs) → r.d < 256 →
     (∃ w ∈ (s.group r.grp).waits, w.id = id) → (Map.find? s.work.groups r.grp).isSome → (Map.find? s.work.clusters ck).isSome →
     (Map.find? s.work.launches lk).isSome → (∀ q ∈ s.work.clusters, q.1 < s.work.nextKey) →
     let answers := fun (u : State) (v : Nat) => ∃ p ∈ (u.group r.grp).pending, p.id = id ∧
       p.writes = [{ cls := .s, idx := r.d, lane := 0, value := v, raced := false }] ∧ ∃ n, (n, .resultWriteback r.grp id) ∈ u.ag.atCycle
     ∃ u, exec (.spawnAnswer id) s = .next u ∧ Map.find? u.work.spawns id = none ∧
       (∀ e, s.spawnRefusal r (some bs) = some e → 1 ≤ e → (e = 1 → r.trp = false) → answers u (2 ^ 64 - e) ∧ u.work.clusters = s.work.clusters) ∧
       (s.spawnRefusal r (some bs) = some 1 → r.trp = true → ∀ l, l < (s.group r.grp).lanes.length →
         ((s.group r.grp).inWait id r.lanes).getLsbD l = true → TakesTrap s u r.grp l 15 0) ∧
       (s.spawnRefusal r (some bs) = none → ∀ slot, slot < 64 → c.children.getLsbD slot = false →
         (∀ j, j < slot → c.children.getLsbD j = true) →
         answers u ((BitVec.ofNat 64 ((s.launch lk).nextClus + slot * 2 ^ 32)).toNat) ∧
         (u.cluster ck).children = c.children ||| (1#64 <<< slot) ∧ (u.launch lk).counter = (s.launch lk).counter + 1 ∧
         ∃ n ∈ u.fe.pend, (u.cluster n).parent = some (ck, slot) ∧ (u.cluster n).launch = lk ∧ (u.cluster n).kernel = k ∧
           (u.cluster n).params = r.params ∧ (u.cluster n).nblocks = r.rec1.toNat % 16 + 1 ∧
           (u.cluster n).lanesN = r.rec1.toNat / 2 ^ 16 % 2 ^ 11 ∧ (u.cluster n).lineage = childLineage c.lineage slot))

/-- R56, R265, R266: `rgn` ends its lanes' regions at the next instruction; `dike.open` pushes an entry on a lane's stack of at most
four, `dike.close` pops one, and a lane with a full or an empty stack traps. R143, R268, R269: `icinv` makes the current bytes of every
stale instruction line visible to the cores in its scope and completes by an answer; `ctr.read` gives the sum of the group's counters in
the issuing core, or all ones where the group may not read. The model's choices in it: log 64, log 71. -/
def Obligations.RegionsDikesInvalidationsAndCounterReads : Prop :=
  (∀ (s : State) (h : Hdr) (sr : BitVec 8) (loff : BitVec 32) (slot : BitVec 3),
     let g := s.ag.cur.grp
     let oi : Instr := .dikeOpen h sr loff slot
     let ci : Instr := .dikeClose h
     (Runs s h (.rgn h) → ∃ u, exec (.rgn h) s = .next u ∧
       (∀ b ∈ (u.group g).buf, (s.running h (.rgn h)).getLsbD b.lane = false) ∧
       ∀ l, l < s.here.lanes.length → (s.running h (.rgn h)).getLsbD l → (u.lane g l).pc = nextPc (s.lane g l).pc ∧
         (u.lane g l).restart = nextPc (s.lane g l).pc) ∧
     (Runs s h oi → ∀ l, l < s.here.lanes.length → (s.running h oi).getLsbD l → s.src.lane l = s.lane g l → ∃ u, exec oi s = .next u ∧
       ((s.lane g l).dike.length < 4 → (u.lane g l).pc = nextPc (s.lane g l).pc ∧ ∃ e, (u.lane g l).dike = e :: (s.lane g l).dike ∧
         IsRelTarget s.ag.cur.pc loff slot e.handler ∧ e.sreg = sr ∧ e.openPc = s.ag.cur.pc) ∧
       (4 ≤ (s.lane g l).dike.length → TakesTrap s u g l 2 0 ∧ (u.lane g l).dike = (s.lane g l).dike)) ∧
     (Runs s h ci → ∀ l, l < s.here.lanes.length → (s.running h ci).getLsbD l → s.src.lane l = s.lane g l → ∃ u, exec ci s = .next u ∧
       (∀ e es, (s.lane g l).dike = e :: es → (u.lane g l).pc = nextPc (s.lane g l).pc ∧ (u.lane g l).dike = es) ∧
       ((s.lane g l).dike = [] → TakesTrap s u g l 2 0))) ∧
  (∀ (s : State) (h : Hdr) (scope : BitVec 2) (d : BitVec 8) (sel : USrc),
     let ii : Instr := .icinv h scope
     (Runs s h ii → Live s (s.running h ii) → ∃ u, exec ii s = .next u ∧ Held s u (s.running h ii) .running ii [] ∧
       (∃ p ∈ (u.group s.ag.cur.grp).pending, p.writes = [] ∧ ∃ n, (n, .resultWriteback s.ag.cur.grp p.id) ∈ u.ag.atCycle) ∧
       ∀ e ∈ u.cores.stale, (scope.toNat < 2 → NatSet.mem e.fresh s.src.core = true) ∧
         (scope = 2 → ∀ c, c < 32 → NatSet.mem e.fresh (32 * s.src.cd + c) = true) ∧
         (scope = 3 → ∀ p, s.polder? (s.polderOf s.ag.cur.grp) = some p → ∀ cd ∈ p.cds, ∀ c, c < 32 →
           NatSet.mem e.fresh (32 * cd + c) = true)) ∧
     (Runs s h (.ctrRead h d sel) → GivesUni s h (.ctrRead h d sel) d (fun q x _ w =>
       let n := (q.uVal x sel).toNat
       let may := x.system = true ∨ (n / 256 ≠ 7 ∧ ∃ p, q.polder? (q.polderOf s.ag.cur.grp) = some p ∧ p.ctrGrant.getLsbD (n / 256) = true)
       let ctr := fun k => Map.get s.tele.counters 0 (k * 65536 + n)
       (¬ (n < 65536 ∧ n % 256 < groupEvents (n / 256) ∧ may) → w = BitVec.allOnes 64) ∧
       (n < 768 → n % 256 < groupEvents (n / 256) → may →
         w = ((if x.system then ctr x.part
               else ctr (4 * x.core) + ctr (4 * x.core + 1) + ctr (4 * x.core + 2) + ctr (4 * x.core + 3) : BitVec 32)).setWidth 64))))

/-- R254, R256, R261: a query with a malformed record answers BAD_RECORD, one outside its authority NOT_ALLOWED, and another one
waits its turn at the event arbiter with its lanes. -/
def Obligations.QueriesAnswerOrWaitTheirTurn : Prop :=
  ∀ (s : State) (h : Hdr) (d : BitVec 8) (n : BitVec 7) (sv : BitVec 8) (code : USrc),
    let claim := fun (i : Instr) (act : Nat) (more : List Word) =>
      let ops := (List.range 8).map (fun j => (s.entered h i).getS s.src (n.toNat + j)) ++ more
      Runs s h i → Live s (s.running h i) → ∃ u, exec i s = .next u ∧
        (malformed s.src.system act ops = true → Answered s u h (s.running h i) .spawnwait i d (BitVec.ofInt 64 (-2)) ∧
          u.ctl.queries = s.ctl.queries) ∧
        (malformed s.src.system act ops = false → s.refused s.here ops = true →
          Answered s u h (s.running h i) .spawnwait i d (BitVec.ofInt 64 (-1)) ∧ u.ctl.queries = s.ctl.queries) ∧
        (malformed s.src.system act ops = false → s.refused s.here ops = false → s.ag.clock < s.ctl.arbAt →
          Held s u (s.running h i) .spawnwait i [] ∧ u.ctl.queries = s.ctl.queries ++ [s.queryOf h i ops] ∧
          (s.ctl.arbAt, .resultWriteback 0 0) ∈ u.ag.atClock)
    let word := fun (i : Instr) => (s.entered h i).getS s.src sv.toNat
    claim (.qrunCount h d n) 0 [] ∧ claim (.qrunStop h d n) 1 [] ∧ claim (.qrunStep h d n) 2 [] ∧ claim (.qrunResume h d n) 3 [] ∧
    claim (.qrunKill h d n) 4 [] ∧ claim (.qrunRead h d n sv) 5 [word (.qrunRead h d n sv)] ∧
    claim (.qrunWrite h d n sv) 6 [word (.qrunWrite h d n sv)] ∧
    (Runs s h (.qterm h code) → Live s (s.running h (.qterm h code)) → s.ag.clock < s.ctl.arbAt → ∃ u, exec (.qterm h code) s = .next u ∧
      Held s u (s.running h (.qterm h code)) .spawnwait (.qterm h code) [] ∧
      u.ctl.queries = s.ctl.queries ++ [s.queryOf h (.qterm h code) [(s.entered h (.qterm h code)).uVal s.src code]])

/-- R256 to R260, R262: at its instant a query counts the lanes that it matches and does its action to them: STOP, STEP and RESUME
change their wait state, KILL makes them leave, READ stores register values to shared memory in the order of R258 where the detector finds no conflict, WRITE writes a
register; `qterm` ends the launch with its code. The model's choices in it: log 57, log 58, log 59. -/
def Obligations.QueriesActOnTheLanesTheyMatch : Prop :=
  ∀ (s : State) (h : Hdr) (d : BitVec 8) (n : BitVec 7) (sv : BitVec 8) (code : USrc),
    let g := s.ag.cur.grp
    let claim := fun (i : Instr) (act : Nat) (more : List Word) (effect : State → Word → List Hit → State → Prop) =>
      let ops := (List.range 8).map (fun j => (s.entered h i).getS s.src (n.toNat + j)) ++ more
      let a := s.asking h i
      let hs := a.hits (s.queryOf h i ops)
      Runs s h i → Live s (s.running h i) → malformed s.src.system act ops = false → s.refused s.here ops = false → ArbiterFree s →
      ∃ u, exec i s = .next u ∧ effect a (ops.getD 0 0) hs u ∧
        ∃ p ∈ (u.group g).pending, p.writes = [{ cls := .s, idx := d.toNat, lane := 0, value := (BitVec.ofNat 64 hs.length).toNat, raced := false }] ∧
          ∃ t, (t, .resultWriteback g p.id) ∈ u.ag.atCycle
    let lanes := fun (f : Lane → Lane → Prop) (a : State) (_ : Word) (hs : List Hit) (u : State) =>
      (∀ k ∈ hs, k.un = false → k.lane < (a.group k.grp).lanes.length → (∀ k' ∈ hs, k'.grp = k.grp → k'.lane = k.lane → k' = k) →
        hs.count k = 1 → f (a.lane k.grp k.lane) (u.lane k.grp k.lane)) ∧
      ∀ q l, (∀ k ∈ hs, k.un = true ∨ k.grp ≠ q ∨ k.lane ≠ l) → u.lane q l = a.lane q l
    let word := fun (i : Instr) => (s.entered h i).getS s.src sv.toNat
    claim (.qrunCount h d n) 0 [] (fun a _ _ u => u.mems = a.mems ∧ ∀ q l, u.lane q l = a.lane q l) ∧
    claim (.qrunStop h d n) 1 [] (lanes (fun y z =>
      (y.wait = .running ∨ y.wait = .yield → z.wait = .stopped ∧ z.remembered = .running) ∧
      (y.wait = .stopped ∨ y.wait = .trapped ∨ y.wait = .unstarted → z = y) ∧
      (y.wait ∉ [.running, .yield, .stopped, .trapped, .unstarted] → z.wait = .stopped ∧ z.remembered = y.wait) ∧ z.pc = y.pc)) ∧
    claim (.qrunStep h d n) 2 [] (lanes (fun y z =>
      (y.wait ≠ .stopped ∨ y.frozen = true → z = y) ∧
      (y.wait = .stopped → y.frozen = false → y.brkDone = false → y.met = false →
        z.wait = y.remembered ∧ z.stepping = true ∧ z.pc = y.pc) ∧
      (y.wait = .stopped → y.frozen = false → y.brkDone = false → y.met = true → z.wait = .stopped ∧ z.met = false ∧ z.pc = y.pc) ∧
      (y.wait = .stopped → y.frozen = false → y.brkDone = true → z.pc = nextPc y.pc ∧ z.brkDone = false ∧ z.wait = .stopped))) ∧
    claim (.qrunResume h d n) 3 [] (fun a _ hs u => ∀ k ∈ hs, k.un = false → k.lane < (a.group k.grp).lanes.length →
      (∀ k' ∈ hs, k'.grp = k.grp → k'.lane = k.lane → k' = k) → hs.count k = 1 → (a.lane k.grp k.lane).wait = .stopped →
      ((a.lane k.grp k.lane).brkDone = false → (u.lane k.grp k.lane).wait = (a.lane k.grp k.lane).remembered ∧
        (u.lane k.grp k.lane).stepping = false ∧ (u.lane k.grp k.lane).pc = (a.lane k.grp k.lane).pc) ∧
      ((a.lane k.grp k.lane).brkDone = true → (u.lane k.grp k.lane).wait = .running ∧
        (u.lane k.grp k.lane).pc = nextPc (a.lane k.grp k.lane).pc)) ∧
    claim (.qrunKill h d n) 4 [] (fun a _ hs u => ∀ k ∈ hs, k.un = false → k.lane < (a.group k.grp).lanes.length →
      (u.lane k.grp k.lane).left = true) ∧
    claim (.qrunRead h d n sv) 5 [word (.qrunRead h d n sv)] (fun a w hs u =>
      (∀ j l, j < hs.length → (s.running h (.qrunRead h d n sv)).getLsbD l = true →
        (word (.qrunRead h d n sv)).toNat + 8 * j + 8 ≤ (a.block s.here.blk).sharedSz →
        a.conflict (.lane g l) 0 s.here.blk ((word (.qrunRead h d n sv)).toNat + 8 * j) 8 true false = none) →
      ∀ j k, hs[j]? = some k → (word (.qrunRead h d n sv)).toNat + 8 * j + 8 ≤ (a.block s.here.blk).sharedSz →
        u.sharedWord s.here.blk ((word (.qrunRead h d n sv)).toNat + 8 * j) =
          if k.un ∨ (a.group k.grp).nregs ≤ w.toNat / 2 ^ 8 % 256 then 0 else a.getV (a.group k.grp) (w.toNat / 2 ^ 8 % 256) k.lane) ∧
    claim (.qrunWrite h d n sv) 6 [word (.qrunWrite h d n sv)] (fun a w hs u =>
      ∀ q r l, l < 32 → Map.get (u.group q).v 0 (32 * r + l) =
        if r = w.toNat / 2 ^ 8 % 256 ∧ r < (a.group q).nregs ∧ (∃ k ∈ hs, k.un = false ∧ k.grp = q ∧ k.lane = l) then
          word (.qrunWrite h d n sv) else Map.get (a.group q).v 0 (32 * r + l)) ∧
    (∀ i c, i = .qterm h code → c = ((s.entered h i).uVal s.src code).toNat % 65536 → Runs s h i → Live s (s.running h i) → ArbiterFree s →
      s.here.system = false → (s.launch (s.launchOf g)).done = false → (s.launch (s.launchOf g)).ended = none →
      (Map.find? s.work.launches (s.launchOf g)).isSome →
      ∃ u, exec i s = .next u ∧ (u.launch (s.launchOf g)).ended = some { status := 6, detail := c } ∧
        ∀ b q, (Map.find? s.work.blocks b).isSome → (s.block b).launch = s.launchOf g → (s.block b).place ≠ .retired → q ∈ (s.block b).groups →
          ∀ l, l < 32 → (u.lane q l).left = true)

/-- R272, R273, R274: `mbox.recv` takes the oldest message of its box into nine registers; without a message it answers with bit 63 when
it may not wait and holds its lanes otherwise. `halt` waits for a message in any box. R272, R273, R274: `mbox.send` answers 0 when its
message has entered the box of its destination (host, trust root or peer core), -2 for a bad header, and, when the peer's box has no
room, -1 if it may not wait and otherwise nothing yet. `halt.stop` stops its core, and that of the active complex makes the standby take
over. The model's choices in it: log 61, log 63. -/
def Obligations.MessagesAreSentAndReceived : Prop :=
  (∀ (s : State) (h : Hdr) (nb : Bool) (d : BitVec 8) (k : BitVec 7) (box : BitVec 4),
     let g := s.ag.cur.grp
     let core := s.here.part - 1024
     let i : Instr := .mboxRecv h nb d k box
     let takes := s.takes core box.toNat = true
     (Runs s h i → Live s (s.running h i) → ∃ u, exec i s = .next u ∧
       (s.box core box.toNat = [] ∨ ¬ takes → if nb then Gone s u (s.running h i) ∧ GivenUni s u h i d 0x8000000000000000
         else Held s u (s.running h i) .sleep i []) ∧
       (∀ q qs, s.box core box.toNat = q :: qs → takes → h.lf = false → (d.toNat < k.toNat ∨ k.toNat + 8 ≤ d.toNat) →
         Gone s u (s.running h i) ∧
         Map.get (u.group g).s 0 d.toNat =
           BitVec.ofNat 64 (q.seq % 65536 * 2 ^ 32 + q.fn % 65536 * 2 ^ 16 + box.toNat * 2 ^ 8 + q.length % 256) ∧
         (∀ j, j < 8 → ∀ b, b < 8 → (Map.get (u.group g).s 0 (k.toNat + j)).toNat / 256 ^ b % 256 =
           if 8 * j + b < q.length then (q.words.getD j 0).toNat / 256 ^ b % 256 else 0) ∧
         ∃ more, u.box core box.toNat = qs ++ more)) ∧
     (Runs s h (.halt h) → Live s (s.running h (.halt h)) → ∃ u, exec (.halt h) s = .next u ∧
       ((∀ b, b < 4 → s.box core b = []) → Held s u (s.running h (.halt h)) .sleep (.halt h) []) ∧
       ((∃ b, b < 4 ∧ s.box core b ≠ []) → Gone s u (s.running h (.halt h))))) ∧
  (∀ (s : State) (h : Hdr) (nb : Bool) (d a : BitVec 8) (k : BitVec 7),
     let g := s.ag.cur.grp
     let core := s.here.part - 1024
     let i : Instr := .mboxSend h nb d a k
     let hd := (s.entered h i).getS s.src a.toNat
     let words := (List.range 8).map (fun j => (s.entered h i).getS s.src (k.toNat + j))
     let box := hd.toNat / 2 ^ 8 % 16
     let msg : Msg := { seq := hd.toNat / 2 ^ 32 % 2 ^ 16, fn := hd.toNat / 2 ^ 16 % 2 ^ 16, length := hd.toNat % 256, words := words }
     let ok := hd.toNat % 256 ≤ 64 ∧ box < 3 ∧ hd.toNat / 2 ^ 12 % 16 = 0 ∧ hd.toNat / 2 ^ 16 % 2 ^ 16 ≤ 8 ∧ hd.toNat / 2 ^ 48 = 0
     (Runs s h i → Live s (s.running h i) → ∃ u, exec i s = .next u ∧
       (¬ ok → Gone s u (s.running h i) ∧ GivenUni s u h i d (BitVec.ofInt 64 (-2)) ∧ u.ctl.boxes = s.ctl.boxes) ∧
       (ok → box = 0 → (∀ q ∈ s.ctl.fwd, ¬ (q.seq = msg.seq ∧ q.fn = msg.fn)) →
         Gone s u (s.running h i) ∧ GivenUni s u h i d 0 ∧ u.ctl.hostResp = msg :: s.ctl.hostResp) ∧
       (ok → box = 1 → Gone s u (s.running h i) ∧ GivenUni s u h i d 0 ∧ .run (trustEvent core msg) ∈ u.ag.todo) ∧
       (ok → box = 2 → (s.box (peerCore core) 2).length < 16 → Gone s u (s.running h i) ∧ GivenUni s u h i d 0 ∧
         ∃ q, u.box (peerCore core) 2 = s.box (peerCore core) 2 ++ [q] ∧ q.fn = msg.fn ∧ q.length = msg.length ∧ q.words = words) ∧
       (ok → box = 2 → 16 ≤ (s.box (peerCore core) 2).length →
         if nb then Gone s u (s.running h i) ∧ GivenUni s u h i d (BitVec.ofInt 64 (-1)) ∧ u.ctl.boxes = s.ctl.boxes
         else Held s u (s.running h i) .sleep i (hd :: words) ∧ u.ctl.boxes = s.ctl.boxes)) ∧
     (Runs s h (.haltStop h) → Live s (s.running h (.haltStop h)) → ∃ u, exec (.haltStop h) s = .next u ∧
       NatSet.mem u.ctl.stopped core = true ∧
       (∀ l, (s.running h (.haltStop h)).getLsbD l → (u.lane g l).pc = nextPc (s.lane g l).pc ∧ (u.lane g l).frozen = true) ∧
       (core / 2 = s.ctl.active → ∃ n, n ≤ s.ag.clock + 10000000 ∧ (n, .standbyTakeover) ∈ u.ag.atClock) ∧
       ∃ e, .run e ∈ u.ag.todo ∧ (∃ r, r.source = 11 ∧ r.unit = core ∧ (e = .errorReport r ∨ e = .fatalError r))))

/-! ### Issue, placement and pre-emption (02, 18, 20) -/

/-- R40 to R43, R48: in a clock of a partition the override and the promotions come first; then at most two picks issue, the first an
eligible offer that no eligible offer comes before, and every other ready lane is passed over once more. R41, R48, R49, R50, R151,
R152: the override makes the PC of the ready lane outside bundle A that has been passed over longest bundle B; a bundle of age 96 is
promoted; a yield window and a sleep end at their time. R129, R132 to R134: a result that lands writes its registers (either result may
remain where another unordered write has landed), its flag's count falls and lanes that wait for it go on; a line that is fetched again
after a parity error is right, and its lanes enter it, or is consumed as poison by the lanes that need it. The model's choices in it:
log 74, log 75, log 139. -/
def Obligations.PartitionsIssueAndResultsLand : Prop :=
  (∀ (s : State) (p : Nat),
     let gs := s.partGroups p
     let e := gs.foldl State.enterLines s
     let evs := gs.flatMap e.beforePicks
     let cands := (gs.flatMap e.offers).map (fun o => e.look o o.pc)
     let can := fun c => unreserved cands c = true ∧ e.eligible p (e.part p).bankNext c = true
     ∃ u, exec (.partitionIssueCycle p) s = .next u ∧
       (evs ≠ [] → u.ag.todo = evs.map Todo.run ++ .run (.partitionIssueCycle p) :: e.ag.todo) ∧
       (evs = [] → ∃ bs : List Bundle, u.ag.todo = e.ag.todo ++ bs.map Todo.issue ∧ bs.length ≤ 2 ∧
         (bs = [] ↔ ∀ c ∈ cands, ¬ can c) ∧
         (∀ b, bs.head? = some b → ∃ c ∈ cands, can c ∧ b.grp = c.off.grp ∧ b.pc = c.off.pc ∧ b.lanes = c.off.lanes ∧
           ∀ c' ∈ cands, can c' → lexLt c'.off.rank c.off.rank = false) ∧
         (gs.Nodup → ∀ g ∈ gs, ∀ l, l < (e.group g).lanes.length → (e.readyLanes g).getLsbD l = true →
           (∀ b ∈ bs, b.grp = g → b.lanes.getLsbD l = false) → (e.lane g l).wait ≠ .yield →
           (u.lane g l).passed = (e.lane g l).passed + 1))) ∧
  (∀ (s : State) (g l : Nat) (pc : Word), (Map.find? s.work.groups g).isSome →
     (∀ a, (s.bundles g).head? = some a →
       let late := fun k => (s.readyLanes g).getLsbD k = true ∧ (s.lane g k).wait ≠ .yield ∧ 64 ≤ (s.lane g k).passed ∧ a.lanes.getLsbD k = false
       ∃ u, exec (.passedOverOverride g) s = .next u ∧
         ((∀ k, k < 32 → ¬ late k) → (u.group g).forcedB = none) ∧
         (l < 32 → late l → (∀ k, k < 32 → late k → (s.lane g k).passed ≤ (s.lane g l).passed) →
           (∀ k, k < l → late k → (s.lane g k).passed < (s.lane g l).passed) → (u.group g).forcedB = some ((s.lane g l).pc, (s.lane g l).retry))) ∧
     (∀ o, (s.offers g).find? (fun o => o.pc == pc) = some o → o.yields = false → o.promo = false →
       96 ≤ s.ag.cycle - o.since → ∃ u, exec (.bundlePromotion g pc) s = .next u ∧
         (∃ a ∈ (u.group g).ages, a.pc = pc ∧ a.park = o.park ∧ a.promoted = true ∧ a.since = o.since) ∧
         SameRegs (s.group g) (u.group g) noReg2 noReg noReg2 noReg) ∧
     (l < (s.group g).lanes.length → (s.lane g l).wait = .yield → (s.lane g l).yieldEnd ≤ s.ag.cycle →
       ∃ u, exec (.yieldWindowEnd g l) s = .next u ∧ (u.lane g l).wait = .running ∧ (u.lane g l).pc = (s.lane g l).pc ∧
         ∀ k, k ≠ l → u.lane g k = s.lane g k) ∧
     (l < (s.group g).lanes.length → (s.lane g l).left = false → (s.lane g l).frozen = false → (s.lane g l).wait = .sleep → (s.lane g l).waitId = 0 →
       (s.lane g l).deadline ≤ s.ag.clock → ∃ u, exec (.sleepDeadline g l) s = .next u ∧
         (u.lane g l).wait = (if (s.lane g l).stepping then .stopped else .running) ∧ (u.lane g l).pc = (s.lane g l).pc ∧
         ∀ k, k ≠ l → u.lane g k = s.lane g k)) ∧
  (∀ (s : State) (g id l : Nat) (m : LaneMask) (pc : Word), (Map.find? s.work.groups g).isSome →
     (∀ p, (s.group g).pending.find? (fun p => p.id == id) = some p → s.ctl.queries = [] → (s.group g).waits.length ≤ 1 →
       (∀ w ∈ (s.group g).waits, w.id = id ∧ w.due = false) → s.freeWaits g id = false →
       p.writes.Pairwise (fun a b => ¬ (a.cls = b.cls ∧ a.idx = b.idx ∧ (a.lane = b.lane ∨ (a.cls ≠ .v ∧ a.cls ≠ .p)))) →
       ∃ u, exec (.resultWriteback g id) s = .next u ∧ (∀ q ∈ (u.group g).pending, q.id ≠ id) ∧
         (∀ w ∈ p.writes, w.lane < 32 → w.raced = false →
           (w.cls = .v → Map.get (u.group g).v 0 (32 * w.idx + w.lane) = BitVec.ofNat 64 w.value) ∧
           (w.cls = .s → Map.get (u.group g).s 0 w.idx = BitVec.ofNat 64 w.value) ∧
           (w.cls = .p → w.idx < 7 → (Map.get (u.group g).p 0 w.idx).getLsbD w.lane = decide (w.value = 1)) ∧
           (w.cls = .b → Map.get (u.group g).b 0 w.idx = BitVec.ofNat 256 w.value)) ∧
         ((∀ w ∈ p.writes, w.lane < 32) → SameRegs (s.group g) (u.group g) (fun r k => ∃ w ∈ p.writes, w.cls = .v ∧ w.idx = r ∧ w.lane = k)
           (fun r => ∃ w ∈ p.writes, w.cls = .s ∧ w.idx = r) (fun r k => ∃ w ∈ p.writes, w.cls = .p ∧ w.idx = r ∧ w.lane = k)
           (fun r => ∃ w ∈ p.writes, w.cls = .b ∧ w.idx = r)) ∧
         ∀ w, (s.group g).waits.find? (fun w => w.id == id) = some w → l < (s.group g).lanes.length → w.lanes.getLsbD l = true →
           (s.lane g l).left = false → (s.lane g l).waitId = id → (u.lane g l).pc = nextPc (s.lane g l).pc) ∧
     (l < (s.group g).lanes.length → m.getLsbD l = true → (s.lane g l).runs = true → (s.lane g l).pc = pc → (s.lane g l).entry ≠ .inLine →
       s.heldUp (s.group g) = false →
       ∀ bytes, s.fetchLine g pc = .line bytes → ∃ u, exec (.lineParityRefetch g m pc) s = .next u ∧
         NatSet.mem (u.part (s.group g).part).badL0 (pcLine pc).toNat = false ∧
         (okParity bytes = true → (u.group g).lineAt pc = some bytes ∧
           (okLineWord (lineWord bytes) = true → (s.lane g l).landing (lineWord bytes) = none → (s.group g).waitClear (lineWord bytes) = true →
             (u.lane g l).entry = .inLine ∧ (u.lane g l).pc = pc)) ∧
         (okParity bytes = false → (s.lane g l).dike = [] → (∀ k, k < 32 → m.getLsbD k = true → (s.lane g k).dike = []) →
           (u.lane g l).wait = .trapped ∧ ∃ r, r.cls = 2 ∧ r.source = 7 ∧ .run (.errorReport r) ∈ u.ag.todo)))

/-- R54, R55: the compactor moves a register range or a shared range to a free aligned place, pausing the groups concerned, and the
move ends; a power gate takes a cluster of four cores that hold no block. -/
def Obligations.CompactorMovesAndCoresGate : Prop :=
  ∀ (s : State) (key base cd : Nat),
    let x := s.group key
    let n := roundRegs x.nregs
    let b := s.block key
    let k := roundShared b.sharedSz
    ((Map.find? s.work.groups key).isSome → x.part < 1024 → x.retired = false → base % n = 0 → base + n ≤ 1024 → s.mayMove key = true →
      (s.core x.core).hold = false →
      (∀ q ∈ s.work.groups, q.2.part = x.part → q.1 ≠ key → base + n ≤ q.2.regBase ∨ q.2.regBase + roundRegs q.2.nregs ≤ base) →
      ∃ u, exec (.compactorMoveStart false key base) s = .next u ∧ (u.group key).regBase = base ∧ (u.group key).pausedTo = s.ag.cycle + movePause ∧
        (u.group key).v = x.v ∧ (u.group key).lanes = x.lanes ∧ (s.ag.cycle + movePause, .compactorMoveEnd false key) ∈ u.ag.atCycle ∧
        ∃ m ∈ u.cores.moves, m.shared = false ∧ m.key = key) ∧
    ((Map.find? s.work.blocks key).isSome → b.place = .live → 0 < k → base % k = 0 → base + k ≤ 512 * 1024 → s.sharedStill key = true →
      (s.core b.core).hold = false →
      (∀ q ∈ s.work.blocks, q.2.core = b.core → (q.2.place = .live ∨ q.2.place = .saving) → q.1 ≠ key →
        base + k ≤ q.2.sharedAt ∨ q.2.sharedAt + roundShared q.2.sharedSz ≤ base) →
      ∃ u, exec (.compactorMoveStart true key base) s = .next u ∧ (u.block key).sharedAt = base ∧ (u.block key).shared = b.shared ∧
        (s.ag.cycle + movePause, .compactorMoveEnd true key) ∈ u.ag.atCycle ∧ ∃ m ∈ u.cores.moves, m.shared = true ∧ m.key = key) ∧
    (∀ sh, s.ctl.queries = [] → ∃ u, exec (.compactorMoveEnd sh key) s = .next u ∧
      u.cores.moves = s.cores.moves.filter (fun m => !(m.shared == sh && m.key == key)) ∧ u.work = s.work ∧ SameBytes s u) ∧
    (cd < 8 → base < 8 → (∀ c, 32 * cd + 4 * base ≤ c → c < 32 * cd + 4 * base + 4 → s.heldBlocks c = [] ∧ (s.core c).draining = false ∧
        (s.core c).scanning = false) →
      ∃ u, exec (.corePowerGate cd base) s = .next u ∧ u.work = s.work ∧
        ∀ c, 32 * cd + 4 * base ≤ c → c < 32 * cd + 4 * base + 4 → (u.core c).gated = true ∧ (u.core c).staged = [])

/-- R59, R60, R61, R341: a pre-emption or a displacement asks every lane of its blocks to stop; a lane that reaches its boundary stops;
a precise stop freezes the rest; a block whose lanes have all stopped is saved at their restart PCs, and a saved block comes back on a
core where its lanes go on. The model's choices in it: log 67. -/
def Obligations.BlocksAreStoppedSavedAndResumed : Prop :=
  ∀ (s : State) (b g l : Nat), l < 32 → OnlyOf s b g → (s.group g).present.getLsbD l = true →
    let safe := (s.cluster (s.block b).cluster).kernel.regionSafe
    (∀ n cores, (s.block b).launch = n → (s.block b).core ∈ cores → (s.block b).place = .live → ∃ u, exec (.preemption n cores) s = .next u ∧
      (u.block b).place = .saving ∧ (u.block b).alone = false ∧ AskedToStop s u g l safe) ∧
    ((s.block b).place = .live → ∃ u, exec (.earlySuccessorDisplace b) s = .next u ∧ (u.block b).place = .saving ∧ (u.block b).alone = true ∧
      AskedToStop s u g l safe ∧ (s.ag.clock + 20000000, .displacePreciseStop b) ∈ u.ag.atClock) ∧
    ((s.block b).place = .saving → (s.block b).stopBy ≠ 0 → (s.block b).stopBy ≤ s.ag.clock →
      (∀ q ∈ (s.block b).groups, (s.group q).pending = []) → (s.lane g l).frozen = false → ∃ u, exec (.displacePreciseStop b) s = .next u ∧ (u.lane g l).frozen = true ∧ (u.lane g l).stopKind = 2 ∧
        (u.lane g l).pc = (s.lane g l).pc ∧ ∀ x ∈ (u.group g).buf, x.lane ≠ l) ∧
    ((s.group g).blk = b → (s.lane g l).stopAsked = true → ∃ u, exec (.preemptLaneStop g l) s = .next u ∧ (u.lane g l).frozen = true ∧
      (u.lane g l).stopKind = 1 ∧ (u.lane g l).stopAsked = false) ∧
    ((s.group g).blk = b → (s.block b).place = .saving → s.allStopped b = true → s.mayClose b = true → (s.lane g l).stopAsked = false →
      (∀ q ∈ (s.block b).groups, (s.group q).pending = []) → ∃ u, exec (.preemptLaneStop g l) s = .next u ∧
        (u.block b).place = .saved ∧ b ∈ u.fe.pendBlk ∧ (u.lane g l).pc = (s.lane g l).restart ∧ (u.group g).buf = []) ∧
    (∀ core start t, s.together b = [b] → s.mayReturn b = true → s.behind (s.block b).launch = false →
      ((s.block b).image = [] ∨ okImage (s.block b).image = true) →
      ((s.block b).alone = false ∧ s.allSaved (s.block b).cluster = true ∨ (s.cluster (s.block b).cluster).cd = core / 32) →
      s.placeOld b core start = some t → ∃ u, exec (.blockResume b core start) s = .next u ∧
        (u.block b).place = .live ∧ (u.block b).core = core ∧ (u.group g).part = 4 * core + (start + (s.group g).gid) % 4 ∧
        (u.lane g l).pc = (s.lane g l).pc ∧ (u.lane g l).frozen = false ∧ b ∉ u.fe.pendBlk ∧
        (u.lane g l).wait = (if (s.lane g l).wait = .stopped ∨ (s.lane g l).wait = .trapped then (s.lane g l).wait else .running))

/-- R15, R16, R24, R338 to R340: a LAUNCH whose descriptor passes every check starts with one pending cluster of its seed block, and
otherwise completes with the status of the first check it fails; a placement puts every block of a cluster on one CD with its lanes
at the entry; a head that has waited has a CD kept for it. -/
def Obligations.LaunchesStartAndClustersArePlaced : Prop :=
  ∀ (s : State) (q : Nat) (c : Cmd),
    (∀ t bs, s.head q true (some 1) = some c → (c.words.getD 1 0).toNat % 64 = 0 → s.frontRead q (c.words.getD 1 0).toNat 64 = (t, .ok bs) →
      ∃ u, exec (.launch q) s = .next u ∧ (u.queue q).store = (s.queue q).store.drop 1 ∧
        (∀ e, s.parse (s.queue q).polder bs = .error e → ∃ k ∈ (u.queue q).tokens, k.kind = 0 ∧ k.cmd = c.idx ∧ k.status = e.1 ∧ k.detail = e.2 ∧
          k.launch = 0 ∧ k.cookie = c.words.getD 2 0) ∧
        (∀ k, s.parse (s.queue q).polder bs = .ok k → ∃ lk, ∃ ck ∈ u.fe.pend, (u.queue q).lastLaunch = some lk ∧ (u.launch lk).queue = q ∧
          (u.launch lk).polder = (s.queue q).polder ∧ (u.launch lk).kernel = kernelOf bs ∧ (u.launch lk).cookie = c.words.getD 2 0 ∧
          (u.launch lk).counter = 1 ∧ (u.launch lk).id = BitVec.ofNat 32 (s.launchId (s.queue q).polder) ∧
          (u.launch lk).pred = (s.queue q).lastPend ∧ (u.launch lk).predStat = (s.queue q).lastStat ∧
          (u.launch lk).done = false ∧ (u.cluster ck).launch = lk ∧ (u.cluster ck).kernel = kernelOf bs ∧ (u.cluster ck).nblocks = 1 ∧
          (u.cluster ck).lanesN = (c.words.getD 0 0).toNat / 2 ^ 8 % 2 ^ 11 ∧ (u.cluster ck).params = c.words.drop 8)) ∧
    (∀ n cd cores starts t, n ≠ 0 → (Map.find? s.work.clusters n).isSome → (s.cluster n).placed = false → (s.cluster n).retired = false →
      n ∈ s.fe.pend → s.placesWork (s.launch (s.cluster n).launch).polder = true → s.behind (s.cluster n).launch = false →
      (∃ p, s.polder? (s.launch (s.cluster n).launch).polder = some p ∧ cd ∈ p.cds) →
      cores.length = (s.unplaced n).length → starts.length = (s.unplaced n).length → (∀ k ∈ cores, k / 32 = cd) → (∀ k ∈ starts, k < 4) →
      (s.unplaced n).Nodup →
      s.placeAll false ((s.unplaced n).zip (cores.zip starts)) = some t → ∃ u, exec (.blockPlacement n cd cores starts) s = .next u ∧
        (u.cluster n).placed = true ∧ (u.cluster n).cd = cd ∧ n ∉ u.fe.pend ∧
        ∀ b core, (b, core) ∈ (s.unplaced n).zip cores → (u.block b).place = .live ∧ (u.block b).core = core ∧
          (u.block b).groups.length = ((s.block b).lanesN + 31) / 32 ∧
          ∀ g l, g ∈ (u.block b).groups → l < 32 → 32 * (u.group g).gid + l < (s.block b).lanesN →
            (u.lane g l).left = false ∧ (u.lane g l).helper = false ∧ (u.lane g l).wait = .running ∧
            (u.lane g l).pc = (s.cluster (s.block b).cluster).kernel.entry) ∧
    (∀ n cd, (s.cluster n).placed = false → (s.cluster n).retired = false → n ∈ s.fe.pend →
      (∃ p, s.polder? (s.launch (s.cluster n).launch).polder = some p ∧ cd ∈ p.cds) →
      ∃ u, exec (.headWaitExpiry n cd) s = .next u ∧ Map.find? u.fe.cdFor n = some cd ∧ u.work = s.work)

/-- R333 to R336: the front end copies the next command into its store and moves the consumer index; `NOP` completes with OK and a bad
command with BAD_COMMAND once earlier ones have completed; a `WAIT` completes when its word has reached the threshold; `cmd_notify`
moves the producer index, or halts the queue when it moves back or too far, and `cpl_consume` frees token slots. R333, R343 to R345:
the next token in command order is written to its slot and the producer index after it, marked provisional while a core that ran its
launch has yet to pass a scan; a provisional token gets one later record; a write to no register or of a wrong size is dropped and
counted. R262, R342, R365, R378: at the instant of an unhandled trap a launch ends with TRAP and the cause, and at that of a
consumption that no dike contains with POISON_CONSUMED: its lanes leave; a launch that has ended keeps its status. The model's choices
in it: log 76, log 77, log 78, log 152. -/
def Obligations.QueuesTakeCommandsAndWriteTokens : Prop :=
  (∀ (s : State) (q : Nat) (c : Cmd),
     let x := s.queue q
     let token := fun (u : State) (status : Nat) (cookie : Word) => ∃ t ∈ (u.queue q).tokens, t.kind = 0 ∧ t.status = status ∧
       t.detail = 0 ∧ t.cmd = c.idx ∧ t.cookie = cookie ∧ t.launch = 0
     (∀ t bs v, x.reads = true → (∃ p, s.polder? x.polder = some p ∧ p.vf.st ≠ .error) → x.cons < x.prod → x.store.length < 64 →
       s.frontRead q (x.cmdBase.toNat + 128 * (x.cons % 2 ^ x.cmdLog)) 128 = (t, .ok bs) →
       t.frontWrite q x.cmdCons.toNat (bytesOf 8 (x.cons + 1)) = (v, .ok ()) → ∃ u, exec (.commandRead q) s = .next u ∧
         (u.queue q).cons = x.cons + 1 ∧ SameBytes v u ∧ ∃ k, (u.queue q).store = x.store ++ [k] ∧ k.idx = x.base + x.cons ∧
           ∀ j, j < 16 → k.words.getD j 0 = wordOf ((bs.drop (8 * j)).take 8)) ∧
     (s.head q true (some 0) = some c → ∃ u, exec (.nopCommand q) s = .next u ∧ (u.queue q).store = x.store.drop 1 ∧ token u 0 (c.words.getD 2 0)) ∧
     (s.head q false none = some c → ∃ u, exec (.badCommand q) s = .next u ∧ (u.queue q).store = x.store.drop 1 ∧
       token u 3 (if c.code = 2 then 0 else c.words.getD 2 0)) ∧
     (s.head q true (some 2) = some c → x.st ≠ .resetting → ∃ u, exec (.wait q) s = .next u ∧
       (u.queue q).store = x.store.drop 1 ∧ (u.queue q).waiting = some (c.words.getD 1 0, c.words.getD 2 0) ∧ (u.queue q).taken = c.idx + 1 ∧
       ∃ n, (n, .waitPoll q) ∈ u.ag.atCycle) ∧
     (∀ va th t bs, x.waiting = some (va, th) → s.frontRead q va.toNat 8 = (t, .ok bs) → x.taken = c.idx + 1 → ∃ u, exec (.waitPoll q) s = .next u ∧
       (th.toNat ≤ numOf bs → (u.queue q).waiting = none ∧ token u 0 0) ∧
       (numOf bs < th.toNat → (u.queue q).waiting = some (va, th) ∧ ∃ n, s.ag.clock < n ∧ n ≤ s.ag.clock + 1000 ∧ (n, .waitPoll q) ∈ u.ag.atClock)) ∧
     (∀ p vqid P, VfLive s p → s.queueOf p vqid = some q → x.st ≠ .resetting → (∀ y, s.polder? p = some y → y.vf.st = .run) →
       ∃ u, exec (.cmdNotify (p + 1) vqid P) s = .next u ∧
         (x.prod ≤ P.toNat → P.toNat ≤ x.cons + 2 ^ x.cmdLog → (u.queue q).prod = P.toNat ∧
           (x.reads = true → ∃ n, (n, .commandRead q) ∈ u.ag.atCycle)) ∧
         (P.toNat < x.prod ∨ x.cons + 2 ^ x.cmdLog < P.toNat → x.reads = true → (u.queue q).st = .halted ∧ (u.queue q).prod = x.prod)) ∧
     (∀ p vqid P, s.queueOf p vqid = some q → (VfLive s p ∧ x.st ≠ .resetting ∨ x.st = .resetting ∧ x.tokens ≠ []) →
       ∃ u, exec (.cplConsume (p + 1) vqid P) s = .next u ∧
       (u.queue q).cplC = (if x.cplC ≤ P.toNat ∧ P.toNat ≤ x.cplP then P.toNat else x.cplC))) ∧
  (∀ (s : State) (q : Nat) (t : Token),
     let x := s.queue q
     (∀ a b ks ps, s.nextToken q = some t → x.cplP - x.cplC < 2 ^ x.cplLog →
       s.frontSpan q .w (pageParts (x.cplBase.toNat + 32 * (x.cplP % 2 ^ x.cplLog)) 32) = (a, .ok ks) →
       a.frontSpan q .w (pageParts x.cplProd.toNat 8) = (b, .ok ps) → ∃ u, exec (.tokenWrite q) s = .next u ∧
         (u.queue q).cplP = x.cplP + 1 ∧ (u.queue q).nextTok = (if t.kind = 0 ∧ t.cmd = x.nextTok then x.nextTok + 1 else x.nextTok) ∧
         (u.queue q).tokens = x.tokens.erase t ∧
         ((∀ y ∈ s.work.launches, y.2.queue = q → y.2.pred ≠ some t.cmd) →
           ∃ prov, (prov = true ↔ t.kind = 0 ∧ t.status ≠ 7 ∧ ∃ l, s.tokenLaunch q t = some l ∧ s.unproven l.2 = true) ∧
             let bs := bytesOf 8 (t.kind + prov.toNat * 2 ^ 8 + t.status * 2 ^ 16 + t.detail * 2 ^ 32) ++ bytesOf 8 t.cmd ++
               bytesOf 8 t.cookie.toNat ++ bytesOf 8 t.launch
             let written := if ks.head?.map (·.1.kind) = some 1 then Config.xts (((s.polder? x.polder).map (·.keyId)).getD 0) x.cplP bs else bs
             SameBytes ((b.putSpan ks written).putSpan ps (bytesOf 8 (x.cplP + 1))) u) ∧
         (t.kind = 0 → ∀ y ∈ s.work.launches, y.2.queue = q → y.2.pred = some t.cmd → Map.find? s.work.launches y.1 = some y.2 →
           (u.launch y.1).pred = none ∧ (u.launch y.1).predStat = t.status)) ∧
     (∀ l, let y := s.launch l
       (Map.find? s.work.launches l).isSome → y.tokened = true → y.provision = true → y.certified = false → y.queue < 4096 →
       (y.suspect = true ∨ s.unproven y = false) → ∃ u, exec (.scanCertifyRecord l) s = .next u ∧ (u.launch l).certified = true ∧
         ∃ k ∈ (u.queue y.queue).tokens, k.kind = (if y.suspect then 2 else 1) ∧ k.cmd = y.cmdIdx ∧ k.launch = y.id.toNat) ∧
     (∀ fn, ∃ u, exec (.registerWriteOther fn) s = .next u ∧ u.tr = s.tr ∧ u.fe = s.fe ∧ u.mems = s.mems ∧
       Map.get u.tele.counters 0 (instFn fn * 65536 + 0x502) = Map.get s.tele.counters 0 (instFn fn * 65536 + 0x502) + 1)) ∧
  (∀ (s : State) (l cause : Nat), (Map.find? s.work.launches l).isSome → (s.launch l).done = false →
     let ends := fun (i : Instr) (status detail : Nat) => ∃ u, exec i s = .next u ∧
       (u.launch l).ended = some ((s.launch l).ended.getD { status := status, detail := detail }) ∧
       ((s.launch l).ended = none → ∀ b q, (Map.find? s.work.blocks b).isSome → (s.block b).launch = l → (s.block b).place ≠ .retired →
         q ∈ (s.block b).groups → ∀ k, k < 32 → (u.lane q k).left = true)
     ends (.unhandledTrapInstant l cause) 4 cause ∧ ends (.poisonConsumedInstant l) 5 0)

/-! ### Translation (19) -/

/-- R353, R354, R89: a write of a live VF to `s1_root`, `dws_root`, `dws_len`, `inv_cmd`, `fault_ring` or `maj_query` completes: the register
takes its value; a root register and an invalidation command raise the generation, take every entry that they cover out of every
unit, and note what they took for the accesses in flight; a value with a reserved bit set is dropped and counted. The model's choices
in it: log 44, log 45, log 95. -/
def Obligations.TranslationRegistersInvalidate : Prop :=
  ∀ (s : State) (p : Nat) (w : Word), VfLive s p → (Map.find? s.tr.polder p).isSome →
    let x := s.xlat p
    let n := w.toNat
    let drops := fun (u : State) (hit : Cached → Prop) => (u.xlat p).gen = x.gen + 1 ∧
      (u.xlat p).issued = x.issued + 1 ∧ (u.xlat p).s2tab = x.s2tab ∧
      (∀ k c, (c ∈ Map.get u.tr.tlb [] k ↔ c ∈ Map.get s.tr.tlb [] k ∧ ¬ (c.polder = p ∧ hit c)) ∧
        (c ∈ Map.get u.tr.tables [] k ↔ c ∈ Map.get s.tr.tables [] k ∧ ¬ (c.polder = p ∧ hit c))) ∧
      (∃ v, (u.xlat p).invals = x.invals ++ [v] ∧ v.num = x.issued + 1 ∧
        ∀ q ∈ s.tr.tlb, ∀ c ∈ q.2, c.polder = p → hit c → (q.1, c) ∈ v.old) ∧
      ∃ k, (k, .invalidationComplete p) ∈ u.ag.atCycle
    let stage1 := fun (c : Cached) => c.stage = 1 ∨ c.stage = 3
    let size := 2 ^ (n / 2 ^ 4 % 16)
    let first := fun (page : Nat) => n / 2 ^ 12 * 4096 / page / size * size
    let within := fun (page : Nat) (c : Cached) => first page < c.page + 2 ^ (9 * (4 - c.level)) ∧ c.page < first page + size
    let ok := fun (op : Nat) => n % 16 = op ∧ n / 2 ^ 8 % 16 = 0
    (n / 2 ^ 56 = 0 → n / 2 % 2 ^ 11 = 0 → ∃ u, exec (.s1Root (p + 1) w) s = .next u ∧ (u.xlat p).s1Root = w ∧ drops u stage1) ∧
    (n / 2 ^ 56 ≠ 0 ∨ n / 2 % 2 ^ 11 ≠ 0 → ∃ u, exec (.s1Root (p + 1) w) s = .next u ∧ Dropped s u (p + 1)) ∧
    (n / 2 ^ 56 = 0 → n % 2 ^ 12 = 0 → ∃ u, exec (.dwsRoot (p + 1) w) s = .next u ∧ (u.xlat p).dwsRoot = w ∧ drops u stage1) ∧
    (n / 2 ^ 56 ≠ 0 ∨ n % 2 ^ 12 ≠ 0 → ∃ u, exec (.dwsRoot (p + 1) w) s = .next u ∧ Dropped s u (p + 1)) ∧
    (n ≤ 2 ^ 24 → ∃ u, exec (.dwsLen (p + 1) w) s = .next u ∧ (u.xlat p).dwsLen = n ∧ drops u stage1) ∧
    (2 ^ 24 < n → ∃ u, exec (.dwsLen (p + 1) w) s = .next u ∧ Dropped s u (p + 1)) ∧
    (ok 0 → ∃ u, exec (.invGlobalRange (p + 1) w) s = .next u ∧ drops u (fun c => c.stage = 1 ∧ within 4096 c)) ∧
    (ok 1 → ∃ u, exec (.invDwsRange (p + 1) w) s = .next u ∧ drops u (fun c => c.stage = 3 ∧ within 65536 c)) ∧
    (ok 2 → ∃ u, exec (.invAllStage1 (p + 1) w) s = .next u ∧ drops u stage1) ∧
    (ok 3 → ∃ u, exec (.invQueueTable (p + 1) w) s = .next u ∧ drops u (fun _ => False)) ∧
    (n / 2 ^ 56 = 0 → n / 2 ^ 4 % 2 ^ 8 = 0 → (n % 16 = 0 ∨ (4 ≤ n % 16 ∧ n % 16 ≤ 12)) → ∃ u, exec (.faultRing (p + 1) w) s = .next u ∧
      (u.xlat p).fring = w ∧ (u.xlat p).rfaults = x.rfaults) ∧
    (n / 2 ^ 56 = 0 → n % 2 ^ 16 = 0 → ∃ u, exec (.majQuery (p + 1) w) s = .next u ∧ (u.xlat p).majQuery = w) ∧
    (n / 2 ^ 56 ≠ 0 ∨ n % 2 ^ 16 ≠ 0 → ∃ u, exec (.majQuery (p + 1) w) s = .next u ∧ Dropped s u (p + 1))

/-- R352 to R354, R356 to R358: what a completed walk has read is held in its unit, unless an invalidation of either stage accepted
meanwhile covers it, and then the walk starts again; an invalidation completes once no older walk is in flight and nothing uses what it
took; a served request is tried again with its frame resident, and a fault that is failed or timed out makes its lanes trap. -/
def Obligations.WalksFaultsAndInvalidationsComplete : Prop :=
  ∀ (s : State) (k p cd g l idx : Nat) (m : LaneMask),
    let x := s.xlat p
    let waits := l < (s.group g).lanes.length ∧ m.getLsbD l = true ∧ (s.lane g l).left = false ∧ (s.lane g l).wait = .fault ∧
      (s.lane g l).waitId = 0
    (∀ w, Map.find? s.tr.walks k = some w → w.running = true → w.polder = p → (Map.find? s.tr.polder p).isSome →
      let stale := (∃ v ∈ x.invals, w.gen < v.gen ∧ ∃ c ∈ w.reads, v.covers c = true) ∨
        ∃ v ∈ x.invals2, w.gen2 < v.gen ∧ ∃ c ∈ w.reads, v.covers c = true
      ∃ u, exec (.walkComplete k) s = .next u ∧
        (¬ stale → Map.find? u.tr.walks k = none ∧ (Map.get u.tr.tlb [] w.unit).length ≤ 16384 ∧
          (w.reads.length ≤ 16384 → ∀ c ∈ w.reads, c ∈ Map.get u.tr.tlb [] w.unit ∨ c ∈ Map.get u.tr.tables [] w.unit)) ∧
        (stale → u.tr.tlb = s.tr.tlb ∧ ∀ cs, Map.sorted s.tr.walks = true → (∀ q ∈ s.tr.walks, q.2.unit = w.unit → q.2.running = true) →
          (s.tr.walks.filter (fun q => q.2.unit == w.unit)).length ≤ 32 → s.formed w.unit p w.dws w.va = some cs →
          Map.find? u.tr.walks k = some { w with gen := x.gen, gen2 := x.gen2, reads := cs.eraseDups })) ∧
    (let idle := ∀ q ∈ s.cp.copy, ∀ c ∈ q.2.cell, c.st = .idle
     (∀ v vs, x.invals = v :: vs → p < 8 → idle → (∀ q ∈ s.tr.walks, q.2.polder = p → q.2.running = true → v.gen ≤ q.2.gen) →
       (∀ e ∈ s.work.groups, s.polderOf e.1 = p → ∀ b ∈ e.2.buf, b.space = 1 → v.gen ≤ b.gen) →
       ∃ u, exec (.invalidationComplete p) s = .next u ∧ (u.xlat p).invals = vs ∧ (u.xlat p).doneN = v.num ∧ (u.xlat p).invals2 = x.invals2) ∧
     (∀ v vs, x.invals2 = v :: vs → idle → (∀ q ∈ s.tr.walks, q.2.polder = p → q.2.running = true → v.gen ≤ q.2.gen2) →
       (∀ q ∈ x.migs, q.num ≠ v.num) →
       ∃ u, exec (.invalidationComplete (8 + p)) s = .next u ∧ (u.xlat p).invals2 = vs ∧ (u.xlat p).doneN2 = v.num ∧ (u.xlat p).invals = x.invals)) ∧
    (∀ f rest, Map.get s.tr.faults [] cd = f :: rest → f.who = .lane g m → s.moving f = false →
      (∀ h, Map.find? s.tr.held cd = some h → s.retrying h.who = false) → waits → ∃ u, exec (.faultServiceComplete cd) s = .next u ∧
        (u.lane g l).wait = .running ∧ (u.lane g l).retry = (s.lane g l).retry ∧ (u.lane g l).pc = (s.lane g l).pc ∧
        Map.get u.tr.faults [] cd = rest ∧ Map.find? u.tr.held cd = some f ∧
        ∀ q, f.dws = true → f.pages = [q] → q < 2 ^ 24 → (Map.find? s.tr.polder f.polder).isSome →
          okDws2 (Map.get (s.xlat f.polder).s2dws 0 q) = true →
          (s.freeFrame f.polder (bitsOf (Map.get (s.xlat f.polder).s2dws 0 q) 57 3)).isSome →
          bitsOf (Map.get (u.xlat f.polder).s2dws 0 q) 56 1 = 1) ∧
    (∀ f, x.rfaults.find? (fun f => f.idx == idx) = some f → f.who = .lane g m → (Map.find? s.tr.polder p).isSome → waits →
      (∃ u, exec (.faultAnswerTimeout p idx) s = .next u ∧ TakesTrap s u g l 12 (BitVec.ofNat 64 f.va) ∧
        (u.xlat p).rfaults = x.rfaults.filter (fun f => f.idx != idx)) ∧
      ∀ w : Word, VfLive s p → w.toNat / 2 ^ 8 = idx → w.toNat % 2 ^ 8 ≤ 1 → ∃ u, exec (.faultResume (p + 1) w) s = .next u ∧
        (u.xlat p).rfaults = x.rfaults.filter (fun f => f.idx != idx) ∧
        (w.toNat % 2 ^ 8 = 0 → (u.lane g l).wait = .running ∧ (u.lane g l).pc = (s.lane g l).pc) ∧
        (w.toNat % 2 ^ 8 = 1 → TakesTrap s u g l 12 (BitVec.ofNat 64 f.va)))

/-- R360 to R362: the first step of moving a page invalidates it at stage 2 and sets `mig`; when that invalidation is complete its frame
is copied and its new entry written, and the move ends with the completion of the second invalidation; a copy of a majority page lands in
its new page and the descriptor follows. A harvest starts a round: it keeps the dirty-page log, or every writable page after a round that
lost a record, and clears `dirty` in the leaves harvested. The model's choices in it: log 144. -/
def Obligations.PagesMoveAndDirtyLogsAreHarvested : Prop :=
  ∀ (s : State) (p page : Nat) (e : Word), (Map.find? s.tr.polder p).isSome →
    let x := s.xlat p
    let started := fun (u : State) (dws : Bool) => ∃ m ∈ (u.xlat p).migs, m.dws = dws ∧ m.page = page ∧ m.phase = 1 ∧ m.entry = e ∧ m.polder = p ∧
      m.num = x.issued2 + 1 ∧ (∃ v, (u.xlat p).invals2 = x.invals2 ++ [v] ∧ v.num = m.num) ∧ ∃ n, (n, .invalidationComplete (8 + p)) ∈ u.ag.atCycle
    (x.migs.find? (fun m => m.dws && m.page == page) = none → s.okMove p true page e = true →
      ∃ u, exec (.pageMigrate p true page e) s = .next u ∧ started u true ∧ (u.xlat p).s2dws = x.s2dws ∧
        ∀ k, ∀ c ∈ Map.get u.tr.tlb [] k, ¬ (c.polder = p ∧ c.stage = 4 ∧ c.page = page)) ∧
    (∀ l, x.migs.find? (fun m => !m.dws && m.page == page) = none → x.s2find (4096 * page) = some l → s.okMove p false page e = true →
      ∃ u, exec (.pageMigrate p false page e) s = .next u ∧ started u false ∧
        Map.get (u.xlat p).s2tab 0 l.at_ = (l.entry ||| 0x80) ∧
        ∀ k, ∀ c ∈ Map.get u.tr.tlb [] k, ¬ (c.polder = p ∧ c.stage = 2 ∧ c.page = page)) ∧
    (∀ desc, x.majPage page = some desc →
      (x.migs.find? (fun m => !m.dws && m.page == page) = none → s.okCopyMove desc e = true →
        ∃ u, exec (.pageMigrate p false page e) s = .next u ∧ (∃ m ∈ (u.xlat p).migs, m.dws = false ∧ m.page = page ∧ m.entry = e) ∧
          ∃ n, (n, .pageMigrate p false page e) ∈ u.ag.atCycle) ∧
      (∀ m, x.migs.find? (fun m => !m.dws && m.page == page) = some m → m.entry = e →
        (∀ q ∈ s.cp.sent, q.desc = desc → q.k = e.toNat / 2 ^ 9 % 8 → q.reply.isSome) →
        ∃ u, exec (.pageMigrate p false page e) s = .next u ∧ m ∉ (u.xlat p).migs ∧
          u.copyPa desc (e.toNat / 2 ^ 9 % 8) 0 = e.toNat / 2 ^ 16 % 2 ^ 40 * 65536)) ∧
    (∀ m v vs, x.invals2 = v :: vs → x.migs.filter (fun q => q.num == v.num) = [m] → m.entry = e → m.polder = p → m.dws = true → m.page = page →
      s.heldCells p = false → (∀ q ∈ s.tr.walks, q.2.polder = p → q.2.running = true → v.gen ≤ q.2.gen2) →
      let place := fun (w : Word) => if bitsOf w 56 1 = 1 then (3, dwsPa w) else (0, dwsBack w)
      let byte := fun (t : State) (h : Nat × Nat) (j : Nat) => if h.1 = 3 then Map.get t.mems.dws 0 (h.2 + j) else Map.get t.mems.dram 0 (h.2 + j)
      let old := place (Map.get x.s2dws 0 page)
      (m.phase = 1 → Mem.wf s.mems.dram = true → Mem.wf s.mems.dws = true → ∃ u, exec (.invalidationComplete (8 + p)) s = .next u ∧
        (∀ j, j < 65536 → byte u (place e) j = byte s old j) ∧ Map.get (u.xlat p).s2dws 0 page = e ∧
        (∀ k, ∀ c ∈ Map.get u.tr.tlb [] k, ¬ (c.polder = p ∧ c.stage = 4 ∧ c.page = page)) ∧
        ∃ q ∈ (u.xlat p).migs, q.page = page ∧ q.dws = true ∧ q.phase = 2 ∧ q.num = (u.xlat p).issued2 ∧ (u.xlat p).doneN2 = v.num) ∧
      (m.phase = 2 → ∃ u, exec (.invalidationComplete (8 + p)) s = .next u ∧ m ∉ (u.xlat p).migs ∧ u.mems = s.mems)) ∧
    ((s.polder? p).isSome → ∃ u, exec (.dirtyLogHarvest p) s = .next u ∧ (u.xlat p).dlog = [] ∧ (u.xlat p).dlogLost = false ∧
      (u.xlat p).roundLog = (if x.lost = true then x.writablePages else x.dlog) ∧ (u.xlat p).lost = x.dlogLost ∧
      u.trust.responses = s.trust.responses ∧
      ∀ w ∈ (u.xlat p).roundLog, ∀ i, i < (if w.toNat % 4 = 1 then 16 else 1) → ∀ l, x.s2find (4096 * (w.toNat / 2 ^ 12 % 2 ^ 44 + i)) = some l →
        (Map.get (u.xlat p).s2tab 0 l.at_).getLsbD 9 = false)

/-! ### Copies and majority cells (04, 09) -/

/-- R215, R217 to R219, R223, R87: the watcher takes the next published entry and refuses one that breaks a rule with `BAD_ENTRY`; an
entry that nothing holds back starts, an index list or a majority page that its kind does not allow ends it. The model's choices in it:
log 148. -/
def Obligations.CopyEntriesAreFetchedAndStarted : Prop :=
  ∀ (s : State) (ck : Nat),
    let ends := fun (u : State) (k st : Nat) => ∃ c, Map.find? u.cp.copy k = some c ∧ c.status = st ∧ c.susp = 9 ∧
      .run (.copyComplete k) ∈ u.ag.todo
    (∀ core slot r, Map.find? s.cores.rings (16 * core + slot) = some r → s.owes r = true → (s.block r.blk).place = .live →
      (s.launch (s.block r.blk).launch).ended = none →
      let word := fun (k : Nat) => s.sharedWord r.blk (r.base + 64 + 32 * (r.next % r.n) + 8 * k)
      let n := r.next + if (word 0).toNat % 16 = 5 then 2 else 1
      ∃ u c, exec (.watcherFetchEntry core slot) s = .next u ∧ Map.find? u.cp.copy s.work.nextKey = some c ∧
        c.w0 = word 0 ∧ c.w1 = word 1 ∧ c.w2 = word 2 ∧ c.w3 = word 3 ∧ c.idx = r.next ∧ c.blk = r.blk ∧ c.started = false ∧
        Map.find? u.cores.rings (16 * core + slot) = some { r with next := n, cons := n } ∧
        (s.badEntry c = true → ends u s.work.nextKey 1) ∧
        (s.badEntry c = false → c.susp = 0 ∧ (u.mayStart c = true → .run (startEvent c.kind s.work.nextKey) ∈ u.ag.todo))) ∧
    (∀ c k i, (i, k) ∈ ([(.copy ck, 0), (.copy2d ck, 1), (.gather ck, 2), (.scatter ck, 3), (.fillEntry ck, 4), (.chain ck, 5), (.reduce ck, 6),
        (.majSt ck, 7), (.majLd ck, 8)] : List (Instr × Nat)) → Map.find? s.cp.copy ck = some c → c.kind = k → s.mayStart c = true →
      s.movesBlock c.blk = false →
      let p := s.copyPolder c
      let u8 := c.core / 32
      let size := (s.block c.blk).sharedSz
      let listed := k = 2 ∨ k = 3
      let at_ := c.w3.toNat % 2 ^ 32
      let list := (List.range c.elems).map (fun j => numOf (Mem.read (s.block c.blk).shared (at_ + 4 * j) 4))
      let c' := { c with started := true, idxs := if k < 6 then (if listed then list else []) else c.idxs }
      let outside := listed ∧ (size < at_ + 4 * c.elems ∧ c.elems ≠ 0 ∨ (k = 2 ∧ c.sspace = 2 ∧ ∃ j ∈ list, size < c.src + j * c.len + c.len ∧ c.len ≠ 0) ∨
        (k = 3 ∧ c.dspace = 2 ∧ ∃ j ∈ list, size < c.dst + j * c.len + c.len ∧ c.len ≠ 0))
      let wrong := (k ≠ 4 ∧ ∃ r ∈ c'.srcRanges, s.majorityIn u8 p c.sspace r.1 r.2 (k != 8) = true) ∨
        ∃ r ∈ c'.dstRanges, s.majorityIn u8 p c.dspace r.1 r.2 (k != 7) = true
      let clash := listed ∧ (s.conflict (.copy ck) 0 c.blk at_ (4 * c.elems) false false).isSome = true
      ∃ u, exec i s = .next u ∧ (outside → ends u ck 1) ∧ (¬ outside → wrong → ends u ck 2) ∧
        (¬ outside → ¬ wrong → (if k < 6 then c'.dest.total else if k = 6 then c.len else 1) ≠ 0 → (clash → ends u ck 3) ∧
          (¬ clash → Map.find? u.cp.copy ck = some c' ∧ ∃ n, (n, .copyChunkLanded ck) ∈ u.ag.atCycle)))

/-- R79, R217 to R224, R321, R371: a copy that moves takes, of the 64 parts of lines that it has yet to land, the first or one ahead of
it: it reads a source line that the part needs, or, when it has read them all, puts there the bytes of its source, a filled pattern or
the results of a chain, and touches no other byte; a completion sets its tag and status byte, keeps the first error in the ring and
arrives. The model's choices in it: log 14, log 83, log 86, log 87, log 151. -/
def Obligations.CopiesMoveBytesAndComplete : Prop :=
  ∀ (s : State) (ck : Nat) (c : Copy), Map.find? s.cp.copy ck = some c → c.complete = false → (Map.find? s.work.blocks c.blk).isSome →
    let shared := fun (u : State) (a : Nat) => Map.get (u.block c.blk).shared 0 a
    let d := if c.upto = 0 then { c with base := c.restart, upto := c.restart } else c
    let p0 := d.dest.part d.base d.upto
    let next := fun (q : Part) => q = p0 ∨ ∃ j, j < 64 ∧ q = d.dest.partAfter d.base j p0 ∧ NatSet.mem d.landed q.off = false
    let from_ := fun (o : Nat) => d.source.part (d.srcAt d.base) o
    let clash := fun (r : Run) (w : Bool) => s.runsClash ck d [r] w
    (c.kind ≤ 5 → c.started = true → c.susp = 0 → s.mayCopy c = true → s.movesBlock c.blk = false → c.dspace = 2 → c.w0.getLsbD 17 = false →
      d.oneWord = false → d.base ≤ d.upto → d.upto < d.dest.total →
      (∀ q, next q → clash { k := { kind := 5, addr := q.va, ipa := 0 }, n := q.n, va := q.va, pol := s.copyPolder c } true = false) →
      (∀ q, next q → ∀ o ∈ d.missing q, ∃ r, s.reach1 (c.core / 32) (s.copyPolder c) c.sspace (from_ o).va (from_ o).n .r = .ok r ∧ clash r false = false) →
      ∃ u q c', exec (.copyChunkLanded ck) s = .next u ∧ next q ∧ Map.find? u.cp.copy ck = some c' ∧
        (d.missing q ≠ [] → (∀ a, shared u a = shared s a) ∧ c'.upto = d.upto ∧ c'.landed = d.landed ∧ ∃ o ∈ d.missing q, ∃ r,
          s.reach1 (c.core / 32) (s.copyPolder c) c.sspace (from_ o).va (from_ o).n .r = .ok r ∧
          ∀ j, j < (from_ o).n → Map.find? c'.got ((from_ o).off + j) = some ((s.runRead c.blk r).getD j 0, (s.runSick c.blk r).getD j false)) ∧
        (d.missing q = [] → (q.off + q.n ≤ c'.upto ∨ NatSet.mem c'.landed q.off = true) ∧
          (∀ a, a < q.va ∨ q.va + q.n ≤ a → shared u a = shared s a) ∧
          ∀ j, j < q.n → d.overlaps (q.va + j) = false → d.again (q.off + j) (q.va + j) = false →
            (c.kind ≤ 3 → shared u (q.va + j) = (Map.get d.got (0, false) (q.off + j)).1) ∧
            (c.kind = 4 → shared u (q.va + j) = c.w1.extractLsb' (8 * ((q.off + j) % 8)) 8) ∧
            (c.kind = 5 → let si := tyBytes c.inTy; let so := tyBytes c.outTy; let e := (q.off + j) / so
              ∃ w : Word, shared u (q.va + j) = (bytesOf so (c.chainElem w (numOf ((List.range si).map (fun i =>
                (Map.get d.got (0, false) (si * e + i)).1))))).getD ((q.off + j) % so) 0)) ∧
        ((∃ n, (n, .copyChunkLanded ck) ∈ u.ag.atCycle) ∨ (c'.status = 0 ∧ c'.susp = 9 ∧ .run (.copyComplete ck) ∈ u.ag.todo))) ∧
    (c.susp = 9 → (∃ g ∈ (s.block c.blk).groups, (s.group g).retired = false) →
      let st := if c.status = 0 ∧ c.poison = true then 5 else c.status
      let tag := c.w0.toNat / 2 ^ 4 % 2 ^ 6
      let n := c.w0.toNat / 2 ^ 12 % 2 ^ 5
      let b := s.bar c.blk n
      ∃ u, exec (.copyComplete ck) s = .next u ∧ Map.find? u.cp.copy ck = none ∧ (∀ d ∈ u.mems.det, d.who ≠ .copy ck) ∧
        ((∀ g, (s.group g).waits = []) →
          (c.w0.getLsbD 10 = true → (u.block c.blk).tags = (s.block c.blk).tags ||| (1#64 <<< tag) ∧
            Map.get (u.block c.blk).tagStatus 0 tag =
              if Map.get (s.block c.blk).tagStatus 0 tag = 0 then BitVec.ofNat 8 st else Map.get (s.block c.blk).tagStatus 0 tag) ∧
          (∀ r, s.ringOf c = some r → st ≠ 0 → s.sharedWord c.blk (r.base + 8) = 0 →
            u.sharedWord c.blk (r.base + 8) = BitVec.ofNat 64 (c.idx % 2 ^ 56 * 256 + st)) ∧
          (c.w0.getLsbD 11 = true → n < 16 → b.init = true → u.bar c.blk n = Barrier.check { b with count := b.count + 1 })))

/-- R87, R91, R94 to R98, R100: the m-th answer of a query makes a store's tag one version above the greatest and sends it to every
copy that can be written, and lets a load of agreeing copies deliver; a copy accepts a greater tag only; a phase that is out of time
ends its cell with `NO_QUORUM`. R86, R88, R93, R102, R103: a declared page has its descriptor, its zeroed copies and its sixteen
leaves, which a withdrawal removes; a scrub and a rebuild bring a copy that is behind to the greatest tag; a paired peer's store
reaches the page it names. The model's choices in it: log 92, log 94, log 99, log 145, log 146. -/
def Obligations.MajorityCellsAndRegionsAreServed : Prop :=
  (∀ (s : State) (ck k : Nat),
     (∀ c e, Map.find? s.cp.copy ck = some c → c.cell = some e →
       let pa := s.copyPa e.desc k (64 * e.idx)
       let as := e.answers ++ [(k, s.cellTag pa, s.cellData pa)]
       let dst : Place := { kind := 5, addr := e.dest.2.1, ipa := e.dest.2.2 }
       (e.st = .query → (∀ a ∈ e.answers, a.1 ≠ k) → s.counts e.desc k = true → s.cellSick pa = false →
         ∃ u c', exec (.majCellAnswer ck k) s = .next u ∧ Map.find? u.cp.copy ck = some c' ∧
           (as.length < s.majOf e.desc → c' = { c with cell := some { e with answers := as } }) ∧
           (s.majOf e.desc ≤ as.length →
             (c.kind = 7 → ∀ v, (∀ a ∈ as, a.2.1.toNat / 2 ^ 24 ≤ v) → (∃ a ∈ as, a.2.1.toNat / 2 ^ 24 = v) →
               let tag := BitVec.ofNat 64 ((v + 1) * 2 ^ 24 + s.writerId c)
               (v = 2 ^ 40 - 1 → c'.cellSt = c.cellSt ++ [10] ∧ c'.cell = none) ∧
               (v ≠ 2 ^ 40 - 1 → (∃ e', c'.cell = some e' ∧ e'.st = .write ∧ e'.tag = tag) ∧
                 ∀ j, j < s.copyN e.desc → s.copySt e.desc j ≠ 1 → (∃ n, (n, .majCopyWriteReceived ck j) ∈ u.ag.atCycle) ∧
                   ∃ m ∈ u.cp.sent, m.k = j ∧ m.pa = s.copyPa e.desc j (64 * e.idx) ∧ m.tag = tag ∧ m.data = e.data)) ∧
             (c.kind ≠ 7 → e.dest.1 = 5 → (Map.find? s.work.blocks c.blk).isSome →
               s.runsClash ck c [{ k := dst, n := 64, va := (c.piece c.done).dst, pol := s.copyPolder c }] true = false → ∀ t, (∀ a ∈ as, a.2.1 = t) →
               c'.cellSt = c.cellSt ++ [0] ∧ ∀ d, as.head?.map (·.2.2) = some d → ∀ j, j < 64 → j < 8 + d.length →
                 Map.get (u.block c.blk).shared 0 (e.dest.2.1 + j) = (bytesOf 8 t.toNat ++ d).getD j 0))) ∧
       (e.st = .write → ∀ m a, s.cp.sent.find? (fun m => m.from_ == ck && m.idx == c.done && m.k == k && m.reply.isSome) = some m → m.reply = some a →
         let rs := e.replies ++ [(k, a)]
         ∃ u c', exec (.majCellAnswer ck k) s = .next u ∧ Map.find? u.cp.copy ck = some c' ∧
           (rs.length < s.majOf e.desc → c' = { c with cell := some { e with replies := rs } }) ∧
           (s.majOf e.desc ≤ rs.length → c'.cell = none ∧ c'.cellSt = c.cellSt ++ [if ∀ x ∈ rs, x.2 = true then 12 else 11])) ∧
       (e.timer ≤ s.ag.clock → ∃ u c', exec (.majCellTimerExpiry ck) s = .next u ∧ Map.find? u.cp.copy ck = some c' ∧ c'.cell = none ∧
         c'.done = c.done + 1 ∧ c'.cellSt = c.cellSt ++ [9])) ∧
     (∀ m, s.cp.sent.find? (fun m => m.from_ == ck && m.k == k && m.reply.isNone) = some m →
       let away := s.copySt m.desc k = 1 ∨ s.movingCopy m.desc k = true
       let accept := ¬ away ∧ (s.cellSick m.pa = true ∨ (s.cellTag m.pa).toNat < m.tag.toNat)
       let bs := bytesOf 8 m.tag.toNat ++ m.data
       ∃ u, exec (.majCopyWriteReceived ck k) s = .next u ∧
         (accept → ∀ j, j < bs.length → Map.get u.mems.dram 0 (m.pa + j) = bs.getD j 0) ∧ (¬ accept → u.mems.dram = s.mems.dram) ∧
         ∀ c e, Map.find? s.cp.copy ck = some c → c.cell = some e → c.done = m.idx → (e.st = .write ∨ e.st = .writeback) → s.counts m.desc k = true →
           ∃ a, { m with reply := some a } ∈ u.cp.sent ∧ (a = true ↔ accept))) ∧
  (∀ (s : State) (desc cell k : Nat) (t : Word) (d : List Byte),
     let apart := ∀ i, i < s.copyN desc → s.copyPa desc i 0 ≠ desc / 65536 * 65536 ∧
       ∀ j, j < s.copyN desc → i ≠ j → s.copyPa desc i 0 ≠ s.copyPa desc j 0
     let pa := s.copyPa desc k (64 * cell)
     let behind := s.cellSick pa = true ∨ (s.cellTag pa).toNat < t.toNat
     (s.okDesc desc = true → desc % 4096 = 0 → apart → cell < 1024 → s.bestCopy desc cell = some (t, d) → k < s.copyN desc →
       d.length = 56 →
       (s.copySt desc k ≠ 1 → ∃ u, exec (.majorityScrub desc cell) s = .next u ∧ (behind → u.cellTag pa = t ∧ u.cellData pa = d) ∧
         (¬ behind → u.cellTag pa = s.cellTag pa)) ∧
       (s.copySt desc k ≠ 0 → Map.get s.cp.rebuilt 0 (8 * desc + k) = cell → s.movingCopy desc k = false → ∃ u, exec (.stackRebuild desc k cell) s = .next u ∧
           (behind → u.cellTag pa = t) ∧ u.copySt desc k = (if cell = 1023 then 0 else 2) ∧
           Map.get u.cp.rebuilt 0 (8 * desc + k) = if cell = 1023 then 0 else cell + 1)) ∧
     (∀ p va ipa a0 a1 a2, (s.polder? p).isSome → (Map.find? s.tr.polder p).isSome → Mem.wf s.mems.dram = true → (s.xlat p).Ordered →
       va % 65536 = 0 → ipa % 65536 = 0 → desc % 4096 = 0 → desc < 2 ^ 41 → s.dramFree desc 4096 = true →
       (∀ a ∈ [a0, a1, a2], a % 65536 = 0 ∧ a < 2 ^ 41 ∧ s.dramFree a 65536 = true ∧ desc / 65536 * 65536 ≠ a) →
       (∀ i, i < 16 → ∀ l, (s.xlat p).s2find (ipa + 4096 * i) = some l → l.level = 4) →
       a0 / 2 ^ 38 ≠ a1 / 2 ^ 38 → a0 / 2 ^ 38 ≠ a2 / 2 ^ 38 → a1 / 2 ^ 38 ≠ a2 / 2 ^ 38 →
       ∃ u, exec (.majorityRegionDeclare p va 1 3 [ipa] [desc, a0, a1, a2]) s = .next u ∧ u.okDesc desc = true ∧ u.copyN desc = 3 ∧
         Map.find? (u.xlat p).majDesc (va / 65536) = some desc ∧
         (∀ i, i < 16 → ∃ l, (u.xlat p).s2find (ipa + 4096 * i) = some l ∧ l.entry.toNat / 2 ^ 56 % 16 = 2 ∧
           l.entry.toNat / 2 ^ 12 % 2 ^ 44 = desc / 4096) ∧
         ∀ i, i < 3 → u.copySt desc i = 0 ∧ u.copyPa desc i 0 = [a0, a1, a2].getD i 0 ∧
           ∀ j, j < 65536 → Map.get u.mems.dram 0 (u.copyPa desc i 0 + j) = 0) ∧
     (∀ p va, va % 65536 = 0 → Map.find? (s.xlat p).majDesc (va / 65536) = some desc → Map.sorted (s.xlat p).s2tab = true →
       let maps := fun (l : S2Leaf) => l.entry.toNat / 2 ^ 56 % 16 = 2 ∧ l.entry.toNat / 2 ^ 12 % 2 ^ 44 * 4096 = desc
       ∃ u, exec (.majorityRegionWithdraw p va 1) s = .next u ∧ (∀ l ∈ (u.xlat p).leaves, ¬ maps l) ∧
         (∀ l ∈ (s.xlat p).leaves, maps l → ∀ k, ∀ c ∈ Map.get u.tr.tlb [] k, ¬ (c.polder = p ∧ c.stage = 2 ∧ c.page = l.page)) ∧
         ((∀ l ∈ (s.xlat p).leaves, ¬ maps l) → (s.xlat p).invals2 = [] → (∀ q ∈ s.cp.copy, ∀ c ∈ q.2.cell, c.st = .idle) →
           Map.find? (u.xlat p).majDesc (va / 65536) = none)) ∧
     (∀ pkg q p va pl, s.pairedWith pkg q = some p → d ≠ [] → va / 4096 = (va + d.length - 1) / 4096 →
       s.majorityIn 8 p 0 va d.length true = false → s.global 8 p va .w = .ok pl → pl.kind = 0 →
       ∃ u, exec (.peerGlobalRequest pkg q true va d) s = .next u ∧
         ∀ j, j < d.length → Map.get u.mems.dram 0 (pl.addr + j) = d.getD j 0))

/-! ### The trust root (21, 24) -/

/-- R331, R337, R346, R385, R388, R417, R418: CREATE gives a polder the lowest free number and CD set, RESIZE twice or half of it;
TEARDOWN removes everything and zeroes its frames; a VF reset ends the launches of its queues and gives their commands RESET tokens;
queues are assigned, unassigned and reset. The model's choices in it: log 15, log 18, log 112, log 114, log 153. -/
def Obligations.PoldersAndQueuesAreMadeAndEnded : Prop :=
  ∀ (s : State), s.open_ = true →
    let answer := fun (u : State) (st v : Nat) => u.trust.responses.head? = some (0, bytesOf 4 st ++ bytesOf 4 v)
    let newer := fun (doc : List Byte) => ∀ q ∈ s.trust.polder, q.2.policy.pk = (policyOf doc).pk → q.2.policy.version < (policyOf doc).version
    let resets := fun (u : State) (q : Nat) =>
      (∀ c ∈ (s.queue q).store, ∃ t ∈ (u.queue q).tokens, t.kind = 0 ∧ t.status = 7 ∧ t.cmd = c.idx) ∧
      ∀ l y, Map.find? s.work.launches l = some y → y.queue = q → y.done = false → y.ended = none →
        (u.launch l).ended = some { status := 7, detail := 0 }
    (∀ doc size test,
      let good := s.okPolicy doc = true ∧ newer doc ∧ (policyOf doc).cdCount = size ∧ (test = true → (policyOf doc).flags.getLsbD 0 = true)
      ∃ u, exec (.create doc size test) s = .next u ∧ (¬ good → answer u 1 0 ∧ u.trust.polder = s.trust.polder) ∧
        (good → s.freePolder = none ∨ s.freeSet size = none → answer u 2 0 ∧ u.trust.polder = s.trust.polder) ∧
        (∀ p cds, good → s.freePolder = some p → s.freeSet size = some cds → answer u 0 s.trust.nextHnd ∧
          ∃ y, u.polder? p = some y ∧ y.cds = cds ∧ y.policy = policyOf doc ∧ y.test = test ∧ y.handle = BitVec.ofNat 32 s.trust.nextHnd ∧
            y.vf.st = .unlocked ∧ y.paused = false ∧ (u.xlat p).s1Root = 0 ∧ (u.xlat p).invals = [] ∧
            (u.xlat p).migs = [])) ∧
    (∀ p x doc, s.polder? p = some x →
      let good := s.okPolicy doc = true ∧ newer doc ∧ (policyOf doc).pk = x.policy.pk
      let n := x.cds.length
      let k := (policyOf doc).cdCount
      let more := ((List.range (2 * n)).map (x.cds.headD 0 / (2 * n) * (2 * n) + ·)).filter (fun cd => !x.cds.contains cd)
      ∃ u, exec (.resize p doc) s = .next u ∧ (¬ good → answer u 1 0 ∧ u.trust.polder = s.trust.polder) ∧
        (good → 0 < n → k = 2 * n → (∀ cd ∈ more, s.cdFree cd = true) → answer u 0 0 ∧ ∃ y, u.polder? p = some y ∧ y.cds = x.cds ++ more ∧
          y.policy = policyOf doc) ∧
        (good → 0 < n → k = 2 * n → (∃ cd ∈ more, s.cdFree cd = false) → answer u 2 0 ∧ u.trust.polder = s.trust.polder) ∧
        (good → 0 < n → 2 * k = n → s.unused p (x.cds.drop (n / 2)) = true → answer u 0 0 ∧ ∃ y, u.polder? p = some y ∧
          y.cds = x.cds.take (n / 2) ∧ y.policy = policyOf doc) ∧
        (good → 0 < n → 2 * k = n → s.unused p (x.cds.drop (n / 2)) = false → answer u 3 0 ∧ u.trust.polder = s.trust.polder)) ∧
    (∀ p, Commanded s (.teardown p) (s.polder? p).isSome (fun u => u.polder? p = none ∧ Map.find? u.tr.polder p = none ∧
      (∀ l ∈ u.work.launches, l.2.polder ≠ p) ∧ (∀ q ∈ u.fe.queue, q.2.polder ≠ p) ∧
      ∀ l ∈ (s.xlat p).leaves, bitsOf l.entry 56 4 = 0 → ∀ j, j < levelSize l.level →
        Map.get u.mems.dram 0 (bitsOf l.entry 12 44 * 4096 + j) = 0)) ∧
    (∀ p, let reset := fun (u : State) =>
        (∀ x, s.polder? p = some x → x.vf.st = .locked ∨ x.vf.st = .run → ∃ y, u.polder? p = some y ∧ y.vf.st = .error ∧ y.vf.keyed = false) ∧
        ∀ q, q ∈ s.queuesOf p → (s.queue q).polder = p → (s.queue q).st ≠ .unassigned → (s.queuesOf p).count q = 1 → resets u q
      Commanded s (.vfReset (.command p)) (s.polder? p).isSome reset ∧
      ∃ u, exec (.vfReset (.functionLevel p)) s = .next u ∧ u.trust.responses = s.trust.responses ∧ ((s.polder? p).isSome → reset u)) ∧
    (∀ q iqid ctx,
      let x := queueOfCtx iqid ctx
      let good := s.grants x.polder 0 = true ∧ okCtx ctx = true ∧ q < 4096 ∧ iqid < 4096 ∧ (s.queue q).st = .unassigned ∧
        ∀ e ∈ s.fe.queue, ¬ (e.2.polder = x.polder ∧ e.2.st ≠ .unassigned ∧ e.2.iqid = iqid)
      ∃ u, exec (.queueAssign q iqid ctx) s = .next u ∧ (¬ good → answer u 1 0 ∧ u.fe = s.fe) ∧
        (good → answer u 0 s.trust.nextHnd ∧ (u.queue q).handle = s.trust.nextHnd ∧ (u.queue q).st = .ready ∧ (u.queue q).iqid = iqid ∧ (u.queue q).polder = descField ctx 36 1 ∧ (u.queue q).cmdBase.toNat = descField ctx 0 8 ∧
          (u.queue q).cmdLog = descField ctx 32 1 ∧ (u.queue q).prod = 0 ∧ (u.queue q).cons = 0 ∧ ∀ k, k ≠ q → u.queue k = s.queue k)) ∧
    (∀ q, Commanded s (.queueUnassign q) ((s.queue q).st ≠ .unassigned ∧ s.grants (s.queue q).polder 0 = true) (fun u => resets u q ∧
      ((u.queue q).st = .unassigned ∨ ((u.queue q).st = .resetting ∧ (u.queue q).free = true)))) ∧
    (∀ q, Commanded s (.queueReset q) ((s.queue q).st = .halted) (fun u => (u.queue q).st = .ready ∧ (u.queue q).store = [] ∧
      (u.queue q).waiting = none ∧ (u.queue q).prod = 0 ∧ (u.queue q).cons = 0 ∧ (u.queue q).cplP = 0 ∧ (u.queue q).cplC = 0 ∧
      (u.queue q).tokens = (s.queue q).tokens ∧ u.work = s.work))

/-- R365, R379, R386, R442: PAUSE, RESUME, the debugger's commands, the grants, MIGRATE and a policy update do what the polder's policy
grants them, and are refused otherwise. The model's choices in it: log 18, log 19, log 110, log 111, log 153. -/
def Obligations.GrantedCommandsActOnTheirPolder : Prop :=
  ∀ (s : State) (p : Nat) (x : Polder), s.polder? p = some x →
    let has := fun (u : State) (f : Polder → Prop) => ∃ y, u.polder? p = some y ∧ f y
    let grant := fun (k : Nat) => x.policy.grants.getLsbD k = true
    Commanded s (.pause p) (grant 1) (fun u => has u (fun y => y.paused = true) ∧
      ∀ b g l, l < 32 → OfPolder s p b → OnlyOf s b g → (s.block b).place = .live → (s.group g).present.getLsbD l = true →
        (u.block b).place = .saving ∧ AskedToStop s u g l (s.cluster (s.block b).cluster).kernel.regionSafe) ∧
    Commanded s (.resume p) (grant 2) (fun u => has u (fun y => y.paused = false ∧ (y.suspended = true ↔ x.vf.st = .error)) ∧
      ∀ b g l, l < 32 → OfPolder s p b → OnlyOf s b g → (s.block b).place = .saving → (s.block b).alone = false → x.seized = false →
        s.allStopped b = false →
        (s.group g).present.getLsbD l = true →
        (u.block b).place = .live ∧ (u.lane g l).frozen = false ∧ (u.lane g l).stopAsked = false ∧ (u.lane g l).pc = (s.lane g l).pc) ∧
    (∀ engines, Commanded s (.debugHalt p engines) ((∃ a, x.attach = some a ∧ (engines = true → a.2.1 = true)) ∧
        x.policy.dbgBits.getLsbD 0 = true ∧ (engines = true → x.policy.dbgBits.getLsbD 2 = true)) (fun u =>
      has u (fun y => y.suspended = (x.suspended || engines)) ∧
      ∀ b g l, l < 32 → OfPolder s p b → OnlyOf s b g → (s.block b).place ≠ .sealed → (s.block b).place ≠ .retired →
        (s.group g).present.getLsbD l = true → (s.lane g l).wait = .running → (u.lane g l).wait = .stopped ∧ (u.lane g l).remembered = .running)) ∧
    (∀ launch mask engines memread, Commanded s (.debugAttach p launch mask engines memread)
      (x.policy.dbgBits.getLsbD 0 = true ∧ mask &&& ~~~x.policy.holdMax = 0 ∧ (engines = true → x.policy.dbgBits.getLsbD 2 = true) ∧
        (memread = true → x.policy.dbgBits.getLsbD 3 = true)) (fun u =>
      has u (fun y => y.attach = some (mask, engines, memread)) ∧
      ∀ k y, Map.find? s.work.launches k = some y → (u.launch k).attach = (y.attach || (decide (y.polder = p) && decide (y.id.toNat = launch))))) ∧
    (∀ groups, Commanded s (.counterGrant p groups) (grant 5 ∧ groups &&& ~~~x.policy.ctrGrp = 0) (fun u =>
      has u (fun y => y.ctrGrant = x.ctrGrant ||| groups))) ∧
    Commanded s (.traceGrant p) (grant 6 ∧ x.policy.trace ≠ 0) (fun u => has u (fun y => y.trace = true)) ∧
    Commanded s (.evict p) (grant 3) (fun u => u.work = s.work ∧ u.tr = s.tr ∧ u.mems = s.mems ∧ u.trust.polder = s.trust.polder) ∧
    (∀ digest, Commanded s (.migrate p digest) (grant 4 ∧ digest ∈ x.policy.dests) (fun u =>
      u.trust.exported = (x.handle.toNat, digest) :: s.trust.exported ∧ u.trust.polder = s.trust.polder ∧
      let t := s.xlat p
      ((Map.find? s.tr.polder p).isSome → (u.xlat p).dlog = [] ∧
        (u.xlat p).roundLog = if t.lost = true ∨ t.dlogLost = true then t.writablePages else t.dlog))) ∧
    (∀ doc, Commanded s (.policyReplace p doc)
      (s.okPolicy doc = true ∧ (policyOf doc).pk = x.policy.pk ∧ (policyOf doc).cdCount = x.cds.length ∧
        ∀ q ∈ s.trust.polder, q.2.policy.pk = (policyOf doc).pk → q.2.policy.version < (policyOf doc).version)
      (fun u => has u (fun y => y.policy = policyOf doc ∧ y.cds = x.cds ∧ y.handle = x.handle)))

/-- R373 to R375: a seizure stops every other polder, then stops its lanes precisely, aborts its REDUCEs, seals its saved blocks to host
memory and demotes its pages; the seizing polder is released, and a sealed image that passes its checks comes back. The model's choices
in it: log 18, log 20, log 70, log 108, log 109. -/
def Obligations.SeizuresStopSealAndRelease : Prop :=
  ∀ (s : State) (p : Nat),
    (∀ cls, Commanded s (.seize p cls) (s.maySeize p cls = true) (fun u =>
      u.trust.seizure = some { by_ := p, since := s.ag.clock, step := 1 } ∧
      (∀ q x, q ≠ p → s.polder? q = some x → ∃ y, u.polder? q = some y ∧ y.seized = true) ∧
      (∀ x, s.polder? p = some x → u.polder? p = some x) ∧
      (s.ag.clock + 20000000, .seizePreciseStop) ∈ u.ag.atClock ∧ (s.ag.clock + 50000000, .seizeReduceAbort) ∈ u.ag.atClock ∧
      (∃ a, (s.ag.clock + 150000000, .seizeSeal a) ∈ u.ag.atClock) ∧ (s.ag.clock + 2000000000, .seizeRelease) ∈ u.ag.atClock ∧
      ∀ q x b g l, q ≠ p → s.polder? q = some x → l < 32 → OfPolder s q b → OnlyOf s b g → (s.block b).place = .live →
        (s.group g).present.getLsbD l = true → (u.block b).place = .saving ∧
        AskedToStop s u g l (s.cluster (s.block b).cluster).kernel.regionSafe)) ∧
    (∀ z, s.trust.seizure = some z → ∃ u, exec .seizePreciseStop s = .next u ∧ u.trust.seizure = some { z with step := 2 } ∧
      ∀ q x b g l, s.polder? q = some x → x.seized = true → l < 32 → OfPolder s q b → OnlyOf s b g → (s.block b).place = .saving →
        (∀ k ∈ (s.block b).groups, (s.group k).pending = []) → (s.group g).present.getLsbD l = true → (u.lane g l).frozen = true) ∧
    (∀ z, s.trust.seizure = some z → ∃ u, exec .seizeReduceAbort s = .next u ∧ u.trust.seizure = some { z with step := 3 } ∧
      ∀ h k ck, Map.find? s.cp.colls h = some k → (∃ x, s.polder? k.polder = some x ∧ x.seized = true) → k.local_ = some ck →
        (∀ c, Map.find? s.cp.copy ck = some c → c.status = 0) → (∀ q ∈ s.cp.colls, q.2.local_ = some ck → q.1 = h) →
        (∃ k', Map.find? u.cp.colls h = some k' ∧ k'.local_ = none) ∧ .run (.copyComplete ck) ∈ u.ag.todo) ∧
    (∀ z a, s.trust.seizure = some z → ∃ u, exec (.seizeSeal a) s = .next u ∧ u.trust.seizure = some { z with step := 4 } ∧
      ∀ q x, s.polder? q = some x → x.seized = true →
        (∃ hnd img, (x.handle.toNat, hnd, img) ∈ u.trust.images) ∧ ∀ b, OfPolder s q b → (s.block b).place = .saved → (u.block b).place = .sealed) ∧
    (∀ ipa host x l z, s.polder? p = some x → (Map.find? s.tr.polder p).isSome →
      let page := (s.xlat p).leafPage (ipa / 4096)
      let n := levelSize l.level
      let a := bitsOf l.entry 12 44 * 4096
      (s.xlat p).s2find (4096 * page) = some l → x.seized = true → s.trust.seizure = some z → 4 ≤ z.step → bitsOf l.entry 56 4 = 0 →
      bitsOf l.entry 7 1 = 0 → ∃ u, exec (.seizeDemotePage p ipa host) s = .next u ∧
        bitsOf (Map.get (u.xlat p).s2tab 0 l.at_) 56 4 = 3 ∧ (∀ j, j < n → Map.get u.mems.dram 0 (a + j) = 0) ∧
        (∃ d, Map.find? (u.xlat p).demoted page = some d ∧ d.host = host ∧ d.entry = l.entry ∧
          ∀ j, j < n → Map.get d.cells 0 j = Map.get s.mems.dram 0 (a + j)) ∧
        let bs := Config.xts x.keyId (4096 * page) (Mem.read s.mems.dram a n)
        ∀ j, j < bs.length → Map.get u.mems.host 0 (host + j) = bs.getD j 0) ∧
    (∃ u, exec .seizeRelease s = .next u ∧ u.trust.seizure = none ∧ u.work = s.work) ∧
    (∀ img, Commanded s (.sealedImageRestore p img) (∃ x, s.polder? p = some x ∧ s.okSealed x img = true) (fun u =>
      (∃ y, u.polder? p = some y ∧ y.seized = false) ∧ ∀ b, OfPolder s p b → (s.block b).place = .sealed → (u.block b).place = .saved)) ∧
    (∀ h k ck, Map.find? s.cp.colls h = some k → k.local_ = some ck → (Map.find? s.cp.copy ck).isSome →
      k.since + 1000000 * (if k.timeout = 0 then 1000 else k.timeout) ≤ s.ag.clock → k.data = [] →
      (∃ j, j < 64 ∧ k.members.getLsbD j = true ∧ j ≠ Config.package.toNat) →
      ∃ u c, exec (.collectiveTimeout h) s = .next u ∧ Map.find? u.cp.copy ck = some c ∧
        ((∃ x, s.polder? k.polder = some x ∧ x.suspended = true) → c.status = 7) ∧
        ((∀ x, s.polder? k.polder = some x → x.suspended = false) → (c.status = 8 ∨ c.status = 7) ∧ .run (.copyComplete ck) ∈ u.ag.todo))

/-- R382, R383: a DOE mailbox answers a request that is in order and otherwise gives an SPDM error; the session of the function
moves with its requests; a tenant's blocks are given to the authenticated tenant alone. The order of the requests, and the number
that an answer begins with, are the model's (log 8, log 23). -/
def Obligations.SpdmRequestsAreAnsweredInOrder : Prop :=
  ∀ (s : State) (fn slot off len idx code : Nat) (nonce : BitVec 256) (data : List Byte) (ide secured : Bool), s.hasDoe fn = true →
    let x := s.session fn
    let vf := fun (u : State) => (u.polder? (fn - 1)).map (·.vf)
    let answers := fun (i : Instr) (n : Nat) (ok : Prop) (y : Session) (body : List Byte → Prop) => ∃ u, exec i s = .next u ∧
      (ok → u.session fn = y ∧ ∃ b, u.trust.responses.head? = some (fn, bytesOf 1 n ++ b) ∧ body b) ∧
      (¬ ok → u.trust.polder = s.trust.polder ∧ u.trust.pfSess = s.trust.pfSess ∧ u.trust.responses.head? = some (fn, [0x7F]))
    let any := fun (_ : List Byte) => True
    let tenant := fn ≠ 0 ∧ x.fin = true
    answers (.getVersion fn) 1 (fn = 0 ∨ (s.polder? (fn - 1)).isSome) { x with version := true, caps := false, algs := false } any ∧
    answers (.getCapabilities fn) 2 (x.version = true) { x with caps := true } any ∧
    answers (.negotiateAlgorithms fn) 3 (x.caps = true) { x with algs := true } any ∧
    answers (.getDigests fn) 4 (x.algs = true) x (fun b => b.length = 32) ∧
    answers (.getCertificate fn slot off len) 5 (x.algs = true ∧ slot = 0) x (fun b => b.length ≤ len) ∧
    answers (.challenge fn nonce) 6 (x.algs = true) x (fun b => ∃ m, b = bytesOf 32 nonce.toNat ++ m ++ Config.falconSign (bytesOf 32 nonce.toNat ++ m)) ∧
    answers (.getMeasurements fn ⟨idx, secured⟩) 7 (x.algs = true ∧ (1 ≤ idx ∧ idx ≤ 6 ∨ tenant ∧ secured = true ∧ (idx = 7 ∨ idx = 8))) x
      (fun b => ∀ p, s.polder? (fn - 1) = some p →
        (idx = 7 → b = bytesOf 32 p.policy.digest.toNat) ∧ (idx = 8 → p.vf.st = .unlocked → ∀ e ∈ b, e = 0) ∧
        (idx = 8 → p.vf.st ≠ .unlocked → b = bytesOf 1 p.vf.st.code ++ bytesOf 32 p.vf.digest.toNat)) ∧
    answers (.keyExchange fn data) 8 (x.algs = true)
      { x with keyed := true, fin := false, th := Config.shake256 (data ++ Config.spdmBody 8 s.ag.free) } (fun b => b = Config.spdmBody 8 s.ag.free) ∧
    answers (.finish fn data) 9 (x.keyed = true ∧ (fn = 0 ∨ ∃ p, s.polder? (fn - 1) = some p ∧ Config.falconVerify p.policy.pk (bytesOf 32 x.th.toNat) data = true))
      { x with fin := true } any ∧
    answers (.endSession fn) 10 (x.keyed = true) { x with keyed := false, fin := false, epoch := x.epoch + 1 } any ∧
    answers (.vendorDefinedRequest fn ide data) 11 (tenant ∧ ide = true) x any ∧
    (tenant → ide = true → ∃ u v, exec (.vendorDefinedRequest fn ide data) s = .next u ∧ vf u = some v ∧ v.keyed = true) ∧
    answers (.spdmUnsupported fn code) 0 False x any

/-- R390 to R394, R407: the trust root locks an unlocked interface with a keyed stream, starts a locked one, stops and unlocks any,
reports its state, and replies on box 1 with the code, the status and the state; COLL_CREATE makes a group of the domain's packages; a
bad request is refused. The model's choices in it: log 104. -/
def Obligations.InterfaceRequestsMoveTheInterface : Prop :=
  ∀ (s : State) (core fn : Nat) (p : Polder), 1 ≤ fn → fn ≤ 8 → s.polder? (fn - 1) = some p →
    let replies := fun (u : State) (code status st : Nat) (ws : List Word) =>
      Map.get u.ctl.seqs 0 (4 * core + 1) = Map.get s.ctl.seqs 0 (4 * core + 1) + 1 ∧
      ((s.group (core + 1)).waits = [] → (s.box core 1).length < 16 → ∃ m, u.box core 1 = s.box core 1 ++ [m] ∧
      m.length = 8 + 8 * ws.length ∧ m.words = BitVec.ofNat 64 (code + status * 2 ^ 8 + st * 2 ^ 16) :: ws)
    let now := fun (u : State) (v : Vf) => ∃ x, u.polder? (fn - 1) = some x ∧ x.vf = v
    let words := fun (d : BitVec 256) => (List.range 4).map (fun k => BitVec.ofNat 64 (d.toNat / 2 ^ (64 * k)))
    let tail := fun (seq : BitVec 32) => [BitVec.ofNat 64 (s.bar0 fn), BitVec.ofNat 64 (seq.toNat + p.handle.toNat * 2 ^ 32)]
    (∃ u, exec (.ifLock core fn) s = .next u ∧ (p.vf.st ≠ .unlocked → now u p.vf ∧ replies u 1 1 p.vf.st.code []) ∧
      (p.vf.st = .unlocked → p.vf.keyed = false → now u p.vf ∧ replies u 1 2 0 []) ∧
      (p.vf.st = .unlocked → p.vf.keyed = true → let d := Config.shake256 (s.lockBytes fn p.vf)
        now u { p.vf with st := .locked, digest := d, seq := p.vf.seq + 1 } ∧ replies u 1 0 1 (words d ++ tail (p.vf.seq + 1)))) ∧
    (∃ u, exec (.ifStart core fn) s = .next u ∧ (p.vf.st ≠ .locked → now u p.vf ∧ replies u 2 1 p.vf.st.code []) ∧
      (p.vf.st = .locked → now u { p.vf with st := .run } ∧ replies u 2 0 2 [])) ∧
    (∃ u x, exec (.ifStop core fn) s = .next u ∧ u.polder? (fn - 1) = some x ∧ x.vf.st = .unlocked ∧ x.vf.keyed = false ∧ x.vf.sess.fin = false ∧
      (p.vf.st = .unlocked ∨ p.vf.st = .locked → p.vf.stopping = [] →
        (∀ q ∈ s.fe.queue, q.2.polder = fn - 1 → q.2.st ≠ .resetting) → replies u 3 0 0 [])) ∧
    (∃ u, exec (.ifState core fn) s = .next u ∧ now u p.vf ∧ replies u 4 0 p.vf.st.code []) ∧
    (∃ u, exec (.ifInfo core fn) s = .next u ∧ now u p.vf ∧ replies u 5 0 p.vf.st.code (words p.policy.digest ++ tail p.vf.seq)) ∧
    (∀ w : Word, w.toNat / 2 ^ 8 % 2 ^ 8 = fn → ∃ u, exec (.trustRootBadRequest core w) s = .next u ∧ now u p.vf ∧
      replies u (w.toNat % 2 ^ 8) 3 p.vf.st.code []) ∧
    (∀ (members : Word) (timeout h : Nat), h < 65536 → Map.find? s.cp.colls h = none → (∀ j, j < h → (Map.find? s.cp.colls j).isSome) →
      let known := ∀ k, members.getLsbD k = true → k = Config.package.toNat ∨ (Map.find? s.fab.domain k).isSome
      ∃ u, exec (.collCreate core fn members timeout) s = .next u ∧
        (timeout ≤ 60000 → known → replies u 0x10 0 p.vf.st.code [BitVec.ofNat 64 h] ∧
          ∃ g, Map.find? u.cp.colls h = some g ∧ g.polder = fn - 1 ∧ g.members = members ∧ g.timeout = timeout) ∧
        (60000 < timeout ∨ ¬ known → replies u 0x10 3 p.vf.st.code [] ∧ u.cp.colls = s.cp.colls))

/-- R273, R390, R396: a TDISP request of the authenticated tenant goes to box 0 of the active complex with its function and code; a
message that a box receives joins it with the box's sequence number, and any other leaves the boxes as they are. R389, R391, R393: a
write to a frozen register does not land and puts the interface into ERROR, its keys gone and its copies suspended; an unlocked one
takes it; a TLP outside the stream is dropped and counted while the interface is locked or running. The model's choices in it: log 103. -/
def Obligations.RequestsReachTheFirmwareAndFrozenRegistersAreGuarded : Prop :=
  (∀ (s : State) (vf core box : Nat) (m : Msg), core < 4 →
     let quiet := fun (c b : Nat) => (s.group (c + 1)).waits = [] ∧ (s.box c b).length < 16
     let seq := fun (t : State) (c b : Nat) => Map.get t.ctl.seqs 0 (4 * c + b)
     let gets := fun (u : State) (c b : Nat) (m : Msg) => seq u c b = seq s c b + 1 ∧
       (quiet c b → u.box c b = s.box c b ++ [{ m with seq := seq s c b % 65536 }])
     let a := 2 * s.ctl.active
     (s.hasDoe vf = true → s.tenant vf = true → ∀ q ∈ ([(.lockInterface vf, 1), (.startInterface vf, 2), (.stopInterface vf, 3),
       (.getDeviceInterfaceState vf, 4)] : List (Instr × Nat)), ∃ u, exec q.1 s = .next u ∧
         gets u a 0 { seq := 0, fn := vf, length := 8, words := [BitVec.ofNat 64 q.2] }) ∧
     (∀ off len, s.hasDoe vf = true → s.tenant vf = true → len ≠ 0 → off < 108 →
       let n := min (min len 64) (108 - off)
       let ask := fun (k : Nat) => ({ seq := 0, fn := vf, length := 8, words := [BitVec.ofNat 64 (5 + 256 * k)] } : Msg)
       ∃ u, exec (.getDeviceInterfaceReport vf off len) s = .next u ∧ (off + n ≤ 64 → gets u a 0 (ask 0)) ∧ (64 ≤ off → gets u a 0 (ask 1)) ∧
         (off < 64 → 64 < off + n → seq u a 0 = seq s a 0 + 2 ∧ (quiet a 0 → (s.box a 0).length < 15 → u.box a 0 = s.box a 0 ++
           [{ ask 0 with seq := seq s a 0 % 65536 }, { ask 1 with seq := (seq s a 0 + 1) % 65536 }]))) ∧
     (m.length ≤ 64 → m.fn ≤ 8 → (box = 1 ∨ box = 2 ∨ (box = 0 ∧ core = a) ∨ (box = 3 ∧ core = a + 1)) →
       ∃ u, exec (.mboxMessageArrival core box m) s = .next u ∧ gets u core box m ∧
         ((s.group (core + 1)).waits = [] → 16 ≤ (s.box core box).length → u.box core box = s.box core box ∧
           Map.get u.ctl.waiting [] (4 * core + box) = Map.get s.ctl.waiting [] (4 * core + box) ++ [{ m with seq := seq s core box % 65536 }])) ∧
     (64 < m.length ∨ 8 < m.fn ∨ 3 < box ∨ (box = 0 ∧ core ≠ a) ∨ (box = 3 ∧ core ≠ a + 1) →
       ∃ u, exec (.mboxMessageArrival core box m) s = .next u ∧ u = s)) ∧
  (∀ (s : State) (vf off : Nat) (x : Byte) (p : Polder), 1 ≤ vf → vf ≤ 8 → s.polder? (vf - 1) = some p →
     let held := p.vf.st = .locked ∨ p.vf.st = .run
     let err := fun (u : State) => ∃ y, u.polder? (vf - 1) = some y ∧ y.vf.st = .error ∧ y.suspended = true ∧ y.vf.keyed = false ∧
       y.vf.sess.fin = false ∧ y.vf.cfg = p.vf.cfg ∧ y.vf.digest = p.vf.digest
     (off < 256 → ∃ u, exec (.frozenRegisterWrite vf off false x) s = .next u ∧ (held → err u) ∧
       (p.vf.st = .unlocked → ∃ y, u.polder? (vf - 1) = some y ∧ y.vf.st = .unlocked ∧ ∀ k, Map.get y.vf.cfg 0 k = if k = off then x else Map.get p.vf.cfg 0 k)) ∧
     (let at_ := off - Config.srIovAt.toNat
      Config.srIovAt.toNat ≤ off → at_ < 64 → ∃ u, exec (.frozenRegisterWrite vf off true x) s = .next u ∧
        (held → err u ∧ u.trust.srIov = s.trust.srIov) ∧
        ((∀ q ∈ s.trust.polder, q.2.vf.st = .unlocked) → u.trust.polder = s.trust.polder ∧
          ∀ k, Map.get u.trust.srIov 0 k = if k = at_ then x else Map.get s.trust.srIov 0 k)) ∧
     (∃ u, exec (.ideTlpDrop vf) s = .next u ∧ u.trust = s.trust ∧ u.mems = s.mems ∧ u.fe = s.fe ∧ u.tr = s.tr ∧
       Map.get u.tele.counters 0 (instFn vf * 65536 + 0x502) =
         Map.get s.tele.counters 0 (instFn vf * 65536 + 0x502) + if p.vf.st = .locked ∨ p.vf.st = .run then 1 else 0))

/-! ### Reliability, bring-up and telemetry (23, 25, 26) -/

/-- R423 to R425, R431: an uncorrectable error poisons its unit and is reported, a corrected one is counted, a flit is sent again; a
report goes to the log and to box 3; a fatal error writes the dump and stops the arbiter. The model's choices in it: log 116, log 118,
log 154, log 157. -/
def Obligations.ErrorsArePoisonedReportedAndFatal : Prop :=
  ∀ (s : State) (a g reg b off link : Nat) (r : Report) (x : Word),
    let reports := fun (u : State) (q : Report) => .run (.errorReport q) ∈ u.ag.todo
    let dev := fun (u : State) (sel : Nat) => Map.get u.tele.counters 0 (instDev * 65536 + sel)
    let rep : Report := { cls := 1, source := 6, cd := a / 2 ^ 38, unit := 0, polder := s.ownerOf (a / 2 ^ 38), addr := a, time := s.ag.clock, launch := 0 }
    (∃ u, exec (.uncorrectableError (.dram a)) s = .next u ∧ NatSet.mem u.mems.poisonD (a / 64) = true ∧ reports u rep ∧ u.mems.dram = s.mems.dram) ∧
    ((Map.find? s.work.groups g).isSome → ∃ u q, exec (.uncorrectableError (.vreg g reg)) s = .next u ∧ NatSet.mem (u.group g).poisonV reg = true ∧
      reports u q ∧ q.cls = 1 ∧ q.source = 1) ∧
    ((Map.find? s.work.blocks b).isSome → ∃ u q, exec (.uncorrectableError (.shared b off)) s = .next u ∧
      NatSet.mem (u.block b).poison (off / 8) = true ∧ reports u q ∧ q.cls = 1 ∧ q.source = 4) ∧
    (∀ i : Instr, i = .uncorrectableError (.link link) ∨ i = .flitCrcRetry link → ∃ u, exec i s = .next u ∧
      Map.get u.fab.retries 0 link = Map.get s.fab.retries 0 link + 1) ∧
    (∃ u q, exec (.uncorrectableError (.anchor off)) s = .next u ∧ .run (.fatalError q) ∈ u.ag.todo ∧ q.cls = 6) ∧
    (∃ u, exec (.correctedError (.dram a)) s = .next u ∧ u.mems = s.mems ∧ dev u 0x0700 = dev s 0x0700 + 1 ∧
      Map.get u.rel.rowErrs [] (a / 2048) = s.ag.clock :: s.lastDay (Map.get s.rel.rowErrs [] (a / 2048))) ∧
    (∃ u, exec (.patrolRead (.dram a)) s = .next u ∧ (u = s.bump ∨ (u.mems = s.mems ∧ dev u 0x0702 = dev s 0x0702 + 1) ∨
      (NatSet.mem u.mems.poisonD (a / 64) = true ∧ reports u rep))) ∧
    (s.ctl.arbDead = false → let core := 2 * s.ctl.active + 1
      ∃ u, exec (.errorReport r) s = .next u ∧ u.ctl.reports.head? = some r ∧
        ((s.group (core + 1)).waits = [] → (s.box core 3).length < 16 → ∃ m, u.box core 3 = s.box core 3 ++ [m] ∧ m.length = 32 ∧
          m.words = reportWords r)) ∧
    (s.ctl.arbDead = false → let base := s.rel.dumpBase.toNat / 2 ^ 12 % 2 ^ 44 * 4096
      ∃ u, exec (.fatalError r) s = .next u ∧ u.ctl.arbDead = true ∧ u.ctl.ready = false ∧
        (s.rel.dumpBase.toNat % 2 ^ 12 ≠ 0 → Mem.read u.mems.host base 2 = bytesOf 2 0x4455 ∧ Mem.read u.mems.host (base + 8) 8 = bytesOf 8 s.ag.clock) ∧
        (s.rel.dumpBase.toNat % 2 ^ 12 = 0 → u.mems.host = s.mems.host)) ∧
    (s.ctl.arbDead = true → exec (.errorReport r) s = .next s ∧ exec (.fatalError r) s = .next s) ∧
    (∃ u, exec (.dumpBase x) s = .next u ∧ u.rel.dumpBase = x ∧ u.mems = s.mems ∧ u.rel.remap = s.rel.remap)

/-- R426, R427: a drain stops the blocks of a core that is exposed and neither scanned nor kept by a seizure, and the next drain of the
CD follows after 125 µs; an empty core is scanned for 12 µs; a drain that lasts 1 ms is given up; a passed scan moves the certified
point, and a failed one makes what ran there since suspect and retires the core, unless an injector may have caused it (R422). R103,
R404, R405, R415, R428: a failing unit gives its number to a spare or is withdrawn, a row moves to a spare row, a frame's page moves to
another frame, a failed stack's copies are failed and its pages poisoned, and each retirement is reported as class 5. The model's
choices in it: log 100, log 115, log 116, log 122, log 154, log 156. -/
def Obligations.ScansAndRetirementsTakeUnitsOut : Prop :=
  (∀ (s : State) (core b l : Nat) (passed : Bool),
     let cd := core / 32
     let c := s.core core
     let scans := fun (u : State) => (u.core core).scanning = true ∧ (u.core core).draining = false ∧ (u.core core).scanBegan = s.ag.clock ∧
       ∃ ok, (s.ag.clock + 12000, .scanComplete core ok) ∈ u.ag.atClock
     (c.draining = true → s.heldBlocks core = [] → ∃ u, exec (.scanDrainStart core) s = .next u ∧ scans u) ∧
     (c.draining = false → c.scanning = false → s.trust.seizure = none → core % 32 ∈ s.exposed cd → ∃ u, exec (.scanDrainStart core) s = .next u ∧
       (s.ag.clock + 125000, .scanDrainStart (s.nextScan core)) ∈ u.ag.atClock ∧ (s.heldBlocks core = [] → scans u) ∧
       (∀ x, Map.find? s.work.blocks b = some x → x.core = core → x.place = .live → (u.core core).draining = true ∧
         (u.block b).place = .saving ∧ (u.block b).alone = true ∧ (s.ag.clock + 1000000, .scanDrainTimeout core) ∈ u.ag.atClock)) ∧
     (c.draining = true → ∃ u, exec (.scanDrainTimeout core) s = .next u ∧ (u.core core).draining = false ∧
       ∀ x, Map.find? s.work.blocks b = some x → x.core = core → x.place = .saving → x.alone = true →
         s.placesWork (s.launch x.launch).polder = true → x.stopBy = 0 → s.allStopped b = false → (u.block b).place = .live) ∧
     (c.scanning = true → Map.sorted s.rel.remap = true → ∃ u r, exec (.scanComplete core passed) s = .next u ∧ (u.core core).scanning = false ∧
       .run (.errorReport r) ∈ u.ag.todo ∧ r.cls = (if passed then 3 else 4) ∧ r.cd = cd ∧ r.unit = core % 32 ∧
       (passed = true → (u.core core).lastPass = c.scanBegan ∧ u.rel.remap = s.rel.remap) ∧
       (passed = false → (u.core core).lastPass = c.lastPass ∧
         (∀ x t, Map.find? s.work.launches l = some x → (core, t) ∈ x.ranOn → (t = 0 ∨ c.lastPass < t) → (u.launch l).suspect = true) ∧
         let flagged := ∃ o p, s.ownerOf cd = some o ∧ s.polder? o = some p ∧ p.test = true ∧ p.injCtl.getLsbD 0 = true ∧ p.injCtl.getLsbD 1 = true
         (flagged ∧ u.rel.remap = s.rel.remap) ∨
         ∀ k, holderOf s.rel.remap (64 * cd) 64 (core % 32) = some k → Map.find? u.rel.remap k = some { st := 2, exp := 0 } ∧
           holderOf u.rel.remap (64 * cd) 64 (core % 32) ≠ some k ∧
           ∀ j, spareOf s.rel.remap (64 * cd) 64 = some j → Map.find? u.rel.remap j = some { st := 0, exp := core % 32 }))) ∧
  (∀ (s : State) (cd n stack row spare lane dest : Nat),
     let reports := fun (u : State) (cd unit : Nat) => ∃ r, .run (.errorReport r) ∈ u.ag.todo ∧ r.cls = 5 ∧ r.cd = cd ∧ r.unit = unit
     let base := 1024 + 16 * cd
     (∀ k, Map.sorted s.rel.remap = true → holderOf s.rel.remap base 16 n = some k → ∃ u, exec (.engineRetire cd n) s = .next u ∧
       Map.find? u.rel.remap k = some { st := 2, exp := 0 } ∧ reports u cd n ∧
       ∀ j, spareOf s.rel.remap base 16 = some j → Map.find? u.rel.remap j = some { st := 0, exp := n }) ∧
     (stack < 8 → ∃ u, exec (.dramRowRepair stack row spare) s = .next u ∧ Map.find? u.mems.rowMap (stack * 2 ^ 32 + row) = some spare ∧
       u.mems.dram = s.mems.dram ∧ u.mems.poisonD = s.mems.poisonD ∧ reports u stack 0) ∧
     (stack < 8 → n < 8 → ∃ u, exec (.dramLayerFail stack n) s = .next u ∧ NatSet.mem u.mems.layers (8 * stack + n) = true ∧
       u.mems.dram = s.mems.dram ∧ reports u stack 0) ∧
     (stack < 8 → ∃ u, exec (.dramStackFail stack) s = .next u ∧ NatSet.mem u.mems.deadStk stack = true ∧ reports u stack 0 ∧
       ∀ p x, Map.find? s.tr.polder p = some x →
         (∀ e ∈ x.leaves, e.entry.toNat / 2 ^ 56 % 16 = 0 → let at_ := e.entry.toNat / 2 ^ 12 % 2 ^ 44 * 4096
           at_ / 2 ^ 38 = stack → ∀ j, j < levelSize e.level → NatSet.mem u.mems.poisonD ((at_ + j) / 64) = true) ∧
         (∀ key desc k, Map.find? x.majDesc key = some desc → (∀ q ∈ s.tr.polder, ∀ d ∈ q.2.majDesc, d.2 % 4096 = 0) → k < s.copyN desc →
           (s.copyWord desc k).toNat / 2 ^ 56 % 8 = stack → u.copySt desc k = 1)) ∧
     (cd < 8 → n < 16384 → NatSet.mem s.mems.badFrm (16384 * cd + n) = false → ∃ u, exec (.dwsFrameRetire cd n dest) s = .next u ∧
       NatSet.mem u.mems.badFrm (16384 * cd + n) = true ∧ reports u cd 0 ∧
       ∀ p q, s.ownerOf cd = some p → (Map.find? s.tr.polder p).isSome → Mem.wf s.mems.dws = true →
         ((s.xlat p).residents cd).find? (fun q => q.2 == n) = some q → dest < 16384 → dest ≠ n → (∀ r ∈ (s.xlat p).residents cd, r.2 ≠ dest) →
         NatSet.mem s.mems.badFrm (16384 * cd + dest) = false →
         let e := Map.get (s.xlat p).s2dws 0 q.1
         Map.get (u.xlat p).s2dws 0 q.1 = withFrame e true dest ∧
           ∀ j, j < 65536 → Map.get u.mems.dws 0 (dwsPa (withFrame e true dest) + j) = Map.get s.mems.dws 0 (dwsPa e + j)) ∧
     ((s.fab.lanesBad.filter (fun q => q.1 / 4096 == n)).length < 2 → lane < 4096 → NatSet.mem s.fab.lanesBad (4096 * n + lane) = false →
       ∃ u, exec (.linkLaneSpare n lane) s = .next u ∧ NatSet.mem u.fab.lanesBad (4096 * n + lane) = true ∧ u.fab.portUp = s.fab.portUp ∧
         reports u 0 n) ∧
     (n < 16 → s.fab.portUp.getD n false = true → ∃ u, exec (.fabricPortRetire n) s = .next u ∧ u.fab.portUp.getD n false = false ∧ reports u 0 n ∧
       ∀ k, k ≠ n → u.fab.portUp.getD k false = s.fab.portUp.getD k false) ∧
     (∃ u, exec (.hostLinkDown n) s = .next u ∧ u.fab.hostUp.getD n false = false ∧
       ∀ k, k ≠ n → u.fab.hostUp.getD k false = s.fab.hostUp.getD k false))

/-- R420, R421: a hop grants channel 0 first, then the lowest channel that 256 grants have passed, then channel 1, then a channel of
the weighted turns, and what it grants gives up a flit and a slot; `qos_weights` takes a value whose reserved bits are zero. R429,
R430: the injector's registers are for a polder flagged for test; each eligible event steps its generator and strikes below the rate.
The model's choices in it: log 81, log 126, log 154, log 155. -/
def Obligations.ChannelsAndInjectorFollowTheirRules : Prop :=
  ∀ (s : State) (k a vf : Nat) (x : Word),
    let h := Map.get s.fab.hops Hop.idle k
    let may := fun (c : Nat) => 0 < h.ready.getD c 0 ∧ 0 < h.credits.getD c 0
    let starved := fun (c : Nat) => may c ∧ 256 ≤ h.passed.getD c 0
    (∃ u, exec (.hopArbitration k) s = .next u ∧
      let h' := Map.get u.fab.hops Hop.idle k
      let grants := fun (c : Nat) => h'.granted.head? = some c ∧ h'.ready.getD c 0 + 1 = h.ready.getD c 0 ∧
        (∀ d, d ≠ c → h'.ready.getD d 0 = h.ready.getD d 0) ∧ (h'.credits.getD c 0 + 1 = h.credits.getD c 0 ∨ h'.credits.getD c 0 = h.credits.getD c 0)
      (may 0 → grants 0) ∧ (∀ c, c < 5 → ¬ may 0 → starved c → (∀ d, d < c → ¬ starved d) → grants c) ∧
      (¬ may 0 → (∀ c, c < 5 → ¬ starved c) → may 1 → grants 1) ∧
      (¬ may 0 → (∀ c, c < 5 → ¬ starved c) → ¬ may 1 → 2 ≤ h.turn → h.turn ≤ 4 → (∃ c, 2 ≤ c ∧ c ≤ 4 ∧ may c) → ∃ c, 2 ≤ c ∧ c ≤ 4 ∧ may c ∧ grants c) ∧
      ((∀ c, c < 5 → ¬ may c) → h'.ready = h.ready) ∧ ((∃ n ∈ h'.ready, 0 < n) → (s.ag.cycle + 1, .hopArbitration k) ∈ u.ag.atCycle)) ∧
    (∃ u, exec (.qosWeights x) s = .next u ∧ u.fab.weights = if x.toNat / 2 ^ 24 = 0 then x else s.fab.weights) ∧
    (∀ p, 1 ≤ vf → vf ≤ 8 → s.polder? (vf - 1) = some p → p.vf.st ≠ .error →
      let drops := fun (i : Instr) => ∃ u, exec i s = .next u ∧ Dropped s u vf
      let takes := fun (i : Instr) (f : Polder → Polder) => ∃ u, exec i s = .next u ∧ u.polder? (vf - 1) = some (f p)
      (p.test = false → drops (.injSeed vf x) ∧ drops (.injRate vf x) ∧ drops (.injCtl vf x)) ∧
      (p.test = true → (x ≠ 0 → takes (.injSeed vf x) (fun p => { p with injSeed := x })) ∧
        (x.toNat < 2 ^ 32 → takes (.injRate vf x) (fun p => { p with injRate := x })) ∧ (2 ^ 32 ≤ x.toNat → drops (.injRate vf x)) ∧
        (x.toNat < 2 ^ 10 → takes (.injCtl vf x) (fun p => { p with injCtl := x &&& ~~~0xC0, injCount := 0 })) ∧ (2 ^ 10 ≤ x.toNat → drops (.injCtl vf x)))) ∧
    (∀ p, 1 ≤ vf → s.polder? (vf - 1) = some p → s.ownerOf (a / 2 ^ 38) = some (vf - 1) →
      let y := p.injSeed ^^^ (p.injSeed <<< 13)
      let z := y ^^^ (y >>> 7)
      let w := z ^^^ (z <<< 17)
      let kind := p.injCtl.toNat / 2 ^ 8 % 4
      ∃ u q, exec (.errorInjectStep vf (.dram a)) s = .next u ∧ u.polder? (vf - 1) = some q ∧
        (p.test = true ∧ p.injCtl.getLsbD 0 = true ∧ p.injCtl.getLsbD 4 = true → q.injSeed = w ∧
          (w.toNat / 2 ^ 32 < p.injRate.toNat → q.injCount = p.injCount + 1 ∧
            (kind = 2 → NatSet.mem u.mems.poisonD (a / 64) = true) ∧
            (kind < 2 → u.mems = s.mems ∧ Map.get u.rel.rowErrs [] (a / 2048) = s.ag.clock :: s.lastDay (Map.get s.rel.rowErrs [] (a / 2048)))) ∧
          (p.injRate.toNat ≤ w.toNat / 2 ^ 32 → q.injCount = p.injCount ∧ u.mems = s.mems)) ∧
        (p.test = false ∨ p.injCtl.getLsbD 0 = false ∨ p.injCtl.getLsbD 4 = false → q = p ∧ u.mems = s.mems))

/-- R408 to R410, R412 to R414, R431: a cold reset starts from empty memories with the fuses kept, or stops at the step that fails; a
warm reset tears every polder down; an update boots the standby complex, which takes over with the boxes once its table is accepted; the
power manager steps the matrix engines and the thermal manager the clock and the refresh. The model's choices in it: log 18, log 127,
log 128, log 130, log 131, log 134, log 135, log 136. -/
def Obligations.ResetsUpdatesAndPowerStepsAct : Prop :=
  ∀ (s : State) (k major minor stack junction temp : Nat) (x : Word) (image : List Byte),
    let c := s.ctl.active
    (∀ f, ∃ u, exec (.coldReset f) s = .next u ∧ u.trust.polder = [] ∧ u.mems.dram = [] ∧ u.mems.dws = [] ∧ u.work.blocks = [] ∧
      u.work.launches = [] ∧ u.rel.remap = s.rel.remap ∧ u.rel.cdMap = s.rel.cdMap ∧ u.ctl.arbDead = false ∧ u.ctl.active = 0 ∧
      (f = none → u.ctl.ready = true ∧ ∀ n, n < 4 → (u.group (n + 1)).system = true) ∧
      (f = some k → 1 ≤ k → k ≤ 8 → u.ctl.ready = false ∧ u.ctl.failStep = some k ∧ (k ≤ 4 → u.work.groups = []))) ∧
    (s.ctl.arbDead = false → ∃ u, exec .warmReset s = .next u ∧ u.trust.polder = [] ∧ u.ctl.ready = true ∧ u.ctl.active = 0 ∧
      u.rel.dumpBase = 0 ∧ u.rel.remap = s.rel.remap ∧ (∀ n, n < 4 → (u.group (n + 1)).system = true ∧ u.box n 0 = [])) ∧
    (s.ctl.arbDead = true → exec .warmReset s = .next s) ∧
    Commanded s (.liveUpdate image) (Config.fwGood image = true ∧ s.ctl.updating = false) (fun u => u.ctl.updating = true ∧ u.ctl.active = c ∧
      u.ctl.mirrored = none ∧ ∀ j, j < image.length → j < 2 ^ 23 →
        Map.get (if 1 - c = 0 then u.mems.sramA else u.mems.sramB) 0 j = image.getD j 0) ∧
    (∃ u, exec (.stateTableImport major minor) s = .next u ∧ u.ctl.active = c ∧
      let own := s.ownTable
      (major = own.1 ∧ minor ≤ own.2 → u.ctl.mirrored = some (major, minor) ∧
        (s.ctl.updating = true → ∃ n, n ≤ s.ag.clock + 10000000 ∧ (n, .standbyTakeover) ∈ u.ag.atClock)) ∧
      (¬ (major = own.1 ∧ minor ≤ own.2) → u.ctl.updating = false ∧ u.ctl.mirrored = s.ctl.mirrored)) ∧
    (let n := 1 - c
     let able := ∃ i, i < 2 ∧ NatSet.mem s.ctl.stopped (2 * n + i) = false
     let due := (s.ctl.updating = true ∧ s.ctl.mirrored ≠ none) ∨ ∃ i, i < 2 ∧ NatSet.mem s.ctl.stopped (2 * c + i) = true
     c ≤ 1 → s.ctl.arbDead = false → able → due → Map.sorted s.ctl.boxes = true → (∀ i, i < 2 → (s.group (2 * n + i + 1)).waits = []) →
      ∃ u, exec .standbyTakeover s = .next u ∧ u.ctl.active = n ∧ u.ctl.updating = false ∧
        ∀ i b, i < 2 → b < 4 → b ≠ 2 → u.box (2 * n + i) b = s.box (2 * c + i) b) ∧
    (∃ u, exec (.pwrCap x) s = .next u ∧ u.rel.pwrCap = if x.toNat / 2 ^ 16 = 0 then x else s.rel.pwrCap) ∧
    (∃ u, exec .powerCapExceeded s = .next u ∧ u.rel.overCap = true ∧ u.rel.matLimit = max 1 (s.rel.matLimit - 1)) ∧
    (∃ u, exec .powerStepDown s = .next u ∧ u.rel.matLimit = if s.rel.overCap then max 1 (s.rel.matLimit - 1) else s.rel.matLimit) ∧
    (∃ u, exec .powerStepUp s = .next u ∧ u.rel.overCap = false ∧ u.rel.matLimit = min 16 (s.rel.matLimit + 1)) ∧
    (∃ u, exec (.thermalThrottle stack junction temp) s = .next u ∧ (stack < 8 → (NatSet.mem u.rel.refresh2 stack = true ↔ 85 < temp)) ∧
      (105 ≤ junction → s.rel.clkSteps < 19 → u.rel.clkSteps = s.rel.clkSteps + 1) ∧ (junction < 105 → u.rel.clkSteps = 0))

/-- R432 to R440: a sweep adds what the counters have counted to the totals and raises the sequence; the telemetry registers take values
whose reserved bits are zero; a pennant's record is staged, and the halyard writes the first record whose ring has room at the ring's
index, a loss record first. The model's choices in it: log 17, log 123, log 124, log 129. -/
def Obligations.CountersPennantsAndTraceAreKept : Prop :=
  ∀ (s : State) (fn part cd sel : Nat) (x : Word),
    let live := fn = 0 ∨ (1 ≤ fn ∧ VfLive s (fn - 1))
    let n := x.toNat
    let drops := fun (i : Instr) => ∃ u, exec i s = .next u ∧ Dropped s u fn
    let cores := fun (u : State) (k : Nat) => (u.core k).staged
    (let b := Map.get s.tele.ctrBase 0 0
     let base := b.toNat / 2 ^ 12 % 2 ^ 44 * 4096
     let num := fun (t : State) (a : Nat) => numOf (Mem.read t.mems.host a 8)
     let now := Map.get s.tele.counters 0 (instDev * 65536 + sel)
     b.toNat % 2 = 1 → ∃ u m, exec (.counterSweep 0) s = .next u ∧ num u base = (num s base + 1) % 2 ^ 64 ∧
      (0x700 ≤ sel → sel < 0x704 → num u (base + 4096 + 8 * sel) =
        (num s (base + 4096 + 8 * sel) + (now - Map.get s.tele.swept 0 (sweptKey 0 instDev sel)).toNat) % 2 ^ 64) ∧
      u.tele.counters = s.tele.counters ∧ s.ag.clock < m ∧ m ≤ s.ag.clock + 100000000 ∧ (m, .counterSweep 0) ∈ u.ag.atClock) ∧
    (live →
      (n / 2 ^ 56 = 0 → n / 2 % 2 ^ 11 = 0 → ∃ u, exec (.ctrBase fn x) s = .next u ∧ Map.get u.tele.ctrBase 0 fn = x ∧
        (n % 2 = 1 → ∃ m, (m, .counterSweep fn) ∈ u.ag.atClock)) ∧
      (n / 2 ^ 56 ≠ 0 ∨ n / 2 % 2 ^ 11 ≠ 0 → drops (.ctrBase fn x)) ∧
      (n / 2 ^ 56 = 0 → n / 2 ^ 4 % 2 ^ 8 = 0 → 10 ≤ n % 16 → ∃ u, exec (.traceBase fn x) s = .next u ∧ Map.find? u.tele.trBase fn = some x ∧
        ∀ cd ∈ s.fnCds fn, ∃ m, (m, .halyardRecordWrite cd) ∈ u.ag.atCycle) ∧
      (n / 2 ^ 56 ≠ 0 ∨ n / 2 ^ 4 % 2 ^ 8 ≠ 0 ∨ n % 16 < 10 → drops (.traceBase fn x)) ∧
      (Map.get s.tele.trRd 0 fn ≤ n → n ≤ Map.get s.tele.trWr 0 fn → ∃ u, exec (.traceRd fn x) s = .next u ∧ Map.get u.tele.trRd 0 fn = n ∧
        u.tele.trWr = s.tele.trWr) ∧
      (n < Map.get s.tele.trRd 0 fn ∨ Map.get s.tele.trWr 0 fn < n → drops (.traceRd fn x)) ∧
      (1 ≤ fn → n < 2 ^ 5 → ∃ u, exec (.pennantCtl fn x) s = .next u ∧ Map.get u.tele.pennCtl 0 fn = x) ∧
      (1 ≤ fn → 2 ^ 5 ≤ n → drops (.pennantCtl fn x))) ∧
    (∀ q, s.tele.penns.find? (fun q => q.part == part) = some q → ∃ u, exec (.pennantRecord part) s = .next u ∧
      let core := part / 4
      let y := if 32 ≤ (cores s core).length then s.unstage core else s
      ((cores y core).length < 32 → (∃ r, cores u core = cores y core ++ [r] ∧ r.fn = q.fn ∧ r.words[1]? = some (BitVec.ofNat 64 q.clock) ∧
        r.words[2]? = some q.pc) ∧ (u.part part).tagged = false ∧ ∃ m, (m, .halyardRecordWrite (core / 32)) ∈ u.ag.atCycle) ∧
      (32 ≤ (cores y core).length → s.traceMode q.fn = 2 → cores u core = cores y core ∧ (u.part part).tagged = false ∧
        Map.get u.tele.lost 0 (16 * q.fn + core / 32) = Map.get y.tele.lost 0 (16 * q.fn + core / 32) + 1) ∧
      (32 ≤ (cores y core).length → s.traceMode q.fn ≠ 2 → q ∈ u.tele.penns ∧ ∃ m, (m, .pennantRecord part) ∈ u.ag.atCycle)) ∧
    (∀ r, (∀ k, cores s k = []) → (Map.get s.tele.cdBuf [] cd).find? (fun r => s.ringRoom r.fn) = some r → r.fn = 0 →
      let b := (Map.get s.tele.trBase 0 0).toNat
      let i := Map.get s.tele.trWr 0 0
      let lost := Map.get s.tele.lost 0 cd
      let a := b / 2 ^ 12 % 2 ^ 44 * 4096 + 64 * (i % 2 ^ (b % 16))
      ∃ u, exec (.halyardRecordWrite cd) s = .next u ∧ Map.get u.tele.trWr 0 0 = i + 1 ∧
        (lost = 0 → (∀ j, j < r.words.length → Mem.read u.mems.host (a + 8 * j) 8 = bytesOf 8 (r.words.getD j 0).toNat) ∧
          Mem.read u.mems.host (a + 8 * r.words.length) 8 = bytesOf 8 (i % 2 ^ 64) ∧
          Map.get u.tele.cdBuf [] cd = (Map.get s.tele.cdBuf [] cd).erase r) ∧
        (lost ≠ 0 → Mem.read u.mems.host (a + 16) 8 = bytesOf 8 (lost % 2 ^ 64) ∧ Map.get u.tele.lost 0 cd = 0 ∧
          Map.get u.tele.cdBuf [] cd = Map.get s.tele.cdBuf [] cd))
end

