-- ==== Sys2Proof/Laws/Map.lean ====
section
/-! SUPPORT. Laws of the sparse tables: a read after a write, and the canonical form that every operation keeps. -/

namespace Sys2Proof.Machine

variable {α : Type}

/-! ### Reading after an operation -/

@[simp] theorem Map.find?_nil (x : Nat) : Map.find? ([] : Map α) x = none := rfl

theorem Map.find?_cons (k : Nat) (b : α) (m : Map α) (x : Nat) :
    Map.find? ((k, b) :: m) x = if k = x then some b else Map.find? m x := rfl

theorem Map.find?_insert (m : Map α) (x : Nat) (a : α) (y : Nat) :
    Map.find? (Map.insert m x a) y = if x = y then some a else Map.find? m y := by
  induction m with
  | nil => simp [Map.insert, Map.find?]
  | cons p m ih =>
    obtain ⟨k, b⟩ := p
    simp only [Map.insert]
    split
    · simp [Map.find?_cons]
    · split
      · subst_vars; simp only [Map.find?_cons]; split <;> rfl
      · simp only [Map.find?_cons, ih]
        split <;> split <;> simp_all

@[simp] theorem Map.find?_insert_self (m : Map α) (x : Nat) (a : α) : Map.find? (Map.insert m x a) x = some a := by
  simp [Map.find?_insert]

theorem Map.find?_insert_ne (m : Map α) {x y : Nat} (a : α) (h : x ≠ y) :
    Map.find? (Map.insert m x a) y = Map.find? m y := by
  simp [Map.find?_insert, h]

theorem Map.find?_erase (m : Map α) (x y : Nat) :
    Map.find? (Map.erase m x) y = if x = y then none else Map.find? m y := by
  induction m with
  | nil => simp [Map.erase, Map.find?]
  | cons p m ih =>
    obtain ⟨k, b⟩ := p
    simp only [Map.erase]
    split
    · rw [ih, Map.find?_cons]; split <;> simp_all
    · simp only [Map.find?_cons, ih]; split <;> split <;> simp_all

theorem Map.find?_adjust (m : Map α) (x : Nat) (f : α → α) (y : Nat) :
    Map.find? (Map.adjust m x f) y = if x = y then (Map.find? m y).map f else Map.find? m y := by
  induction m with
  | nil => simp [Map.adjust, Map.find?]
  | cons p m ih =>
    obtain ⟨k, b⟩ := p
    simp only [Map.adjust]
    split
    · subst_vars; simp only [Map.find?_cons]; split <;> simp_all
    · simp only [Map.find?_cons, ih]; split <;> split <;> simp_all

theorem Map.get_insert (m : Map α) (d : α) (x : Nat) (a : α) (y : Nat) :
    Map.get (Map.insert m x a) d y = if x = y then a else Map.get m d y := by
  simp only [Map.get, Map.find?_insert]; split <;> rfl

@[simp] theorem Map.get_insert_self (m : Map α) (d : α) (x : Nat) (a : α) : Map.get (Map.insert m x a) d x = a := by
  simp [Map.get_insert]

theorem Map.get_insert_ne (m : Map α) (d : α) {x y : Nat} (a : α) (h : x ≠ y) :
    Map.get (Map.insert m x a) d y = Map.get m d y := by
  simp [Map.get_insert, h]

theorem Map.get_erase (m : Map α) (d : α) (x y : Nat) :
    Map.get (Map.erase m x) d y = if x = y then d else Map.get m d y := by
  simp only [Map.get, Map.find?_erase]; split <;> rfl

theorem Map.get_put [DecidableEq α] (m : Map α) (d : α) (x : Nat) (a : α) (y : Nat) :
    Map.get (Map.put m d x a) d y = if x = y then a else Map.get m d y := by
  unfold Map.put
  split
  · rw [Map.get_erase]; simp_all
  · rw [Map.get_insert]

@[simp] theorem Map.get_put_self [DecidableEq α] (m : Map α) (d : α) (x : Nat) (a : α) :
    Map.get (Map.put m d x a) d x = a := by
  simp [Map.get_put]

theorem Map.get_put_ne [DecidableEq α] (m : Map α) (d : α) {x y : Nat} (a : α) (h : x ≠ y) :
    Map.get (Map.put m d x a) d y = Map.get m d y := by
  simp [Map.get_put, h]

theorem Map.get_adjust (m : Map α) (d : α) (x : Nat) (f : α → α) (y : Nat) :
    Map.get (Map.adjust m x f) d y =
      if x = y ∧ (Map.find? m y).isSome then f (Map.get m d y) else Map.get m d y := by
  simp only [Map.get, Map.find?_adjust]
  cases hq : Map.find? m y <;> by_cases hx : x = y <;> simp [hx]

theorem Map.get_adjust_ne (m : Map α) (d : α) {x y : Nat} (f : α → α) (h : x ≠ y) :
    Map.get (Map.adjust m x f) d y = Map.get m d y := by
  simp [Map.get_adjust, h]

theorem Map.get_adjust_self (m : Map α) (d : α) (x : Nat) (f : α → α) (h : (Map.find? m x).isSome) :
    Map.get (Map.adjust m x f) d x = f (Map.get m d x) := by
  simp [Map.get_adjust, h]

@[simp] theorem Map.isSome_adjust (m : Map α) (x : Nat) (f : α → α) (y : Nat) :
    (Map.find? (Map.adjust m x f) y).isSome = (Map.find? m y).isSome := by
  rw [Map.find?_adjust]; split <;> simp

/-! ### The canonical form -/

/-- A bound that every key of a table lies above. -/
def Map.above (k : Nat) (m : Map α) : Prop := ∀ p ∈ m, k < p.1

theorem Map.sorted_cons (k : Nat) (a : α) (m : Map α) :
    Map.sorted ((k, a) :: m) = true ↔ Map.above k m ∧ Map.sorted m = true := by
  induction m generalizing k a with
  | nil => simp [Map.sorted, Map.above]
  | cons p m ih =>
    obtain ⟨k', b⟩ := p
    simp only [Map.sorted, Bool.and_eq_true, decide_eq_true_eq]
    constructor
    · rintro ⟨hk, hs⟩
      refine ⟨?_, hs⟩
      have hab := ((ih k' b).mp hs).1
      intro p hp
      rcases List.mem_cons.mp hp with rfl | hp
      · exact hk
      · exact lt_trans hk (hab p hp)
    · rintro ⟨ha, hs⟩
      exact ⟨ha (k', b) (by simp), hs⟩

theorem Map.above_insert (m : Map α) {k x : Nat} (a : α) (hk : Map.above k m) (hx : k < x) :
    Map.above k (Map.insert m x a) := by
  induction m with
  | nil => simpa [Map.insert, Map.above] using hx
  | cons p m ih =>
    obtain ⟨j, b⟩ := p
    have hj : k < j := hk (j, b) (by simp)
    have hm : Map.above k m := fun p hp => hk p (by simp [hp])
    simp only [Map.insert]
    split
    · intro p hp
      rcases List.mem_cons.mp hp with rfl | hp
      · exact hx
      · exact hk p hp
    · split
      · intro p hp
        rcases List.mem_cons.mp hp with rfl | hp
        · exact hx
        · exact hm p hp
      · intro p hp
        rcases List.mem_cons.mp hp with rfl | hp
        · exact hj
        · exact ih hm p hp

theorem Map.above_erase (m : Map α) {k : Nat} (x : Nat) (hk : Map.above k m) : Map.above k (Map.erase m x) := by
  induction m with
  | nil => simpa [Map.erase] using hk
  | cons p m ih =>
    obtain ⟨j, b⟩ := p
    have hm : Map.above k m := fun p hp => hk p (by simp [hp])
    simp only [Map.erase]
    split
    · exact ih hm
    · intro p hp
      rcases List.mem_cons.mp hp with rfl | hp
      · exact hk _ (by simp)
      · exact ih hm p hp

theorem Map.sorted_insert (m : Map α) (x : Nat) (a : α) (h : Map.sorted m = true) :
    Map.sorted (Map.insert m x a) = true := by
  induction m with
  | nil => simp [Map.insert, Map.sorted]
  | cons p m ih =>
    obtain ⟨k, b⟩ := p
    obtain ⟨ha, hs⟩ := (Map.sorted_cons k b m).mp h
    simp only [Map.insert]
    split
    · rename_i hxk
      refine (Map.sorted_cons _ _ _).mpr ⟨?_, h⟩
      intro p hp
      rcases List.mem_cons.mp hp with rfl | hp
      · exact hxk
      · exact lt_trans hxk (ha p hp)
    · split
      · subst_vars; exact (Map.sorted_cons _ _ _).mpr ⟨ha, hs⟩
      · exact (Map.sorted_cons _ _ _).mpr ⟨Map.above_insert m a ha (by omega), ih hs⟩

theorem Map.sorted_erase (m : Map α) (x : Nat) (h : Map.sorted m = true) : Map.sorted (Map.erase m x) = true := by
  induction m with
  | nil => rfl
  | cons p m ih =>
    obtain ⟨k, b⟩ := p
    obtain ⟨ha, hs⟩ := (Map.sorted_cons k b m).mp h
    simp only [Map.erase]
    split
    · exact ih hs
    · exact (Map.sorted_cons _ _ _).mpr ⟨Map.above_erase m x ha, ih hs⟩

theorem Map.mem_insert {m : Map α} {x : Nat} {a : α} {p : Nat × α} (h : p ∈ Map.insert m x a) : p = (x, a) ∨ p ∈ m := by
  induction m with
  | nil => simpa [Map.insert] using h
  | cons q m ih =>
    obtain ⟨k, b⟩ := q
    simp only [Map.insert] at h
    split at h
    · simpa using h
    · split at h
      · rcases List.mem_cons.mp h with rfl | h
        · exact .inl rfl
        · exact .inr (by simp [h])
      · rcases List.mem_cons.mp h with rfl | h
        · exact .inr (by simp)
        · rcases ih h with h | h
          · exact .inl h
          · exact .inr (by simp [h])

theorem Map.mem_erase {m : Map α} {x : Nat} {p : Nat × α} (h : p ∈ Map.erase m x) : p ∈ m := by
  induction m with
  | nil => simpa [Map.erase] using h
  | cons q m ih =>
    obtain ⟨k, b⟩ := q
    simp only [Map.erase] at h
    split at h
    · simp [ih h]
    · rcases List.mem_cons.mp h with rfl | h
      · simp
      · simp [ih h]

theorem Map.wf_iff [DecidableEq α] (m : Map α) (d : α) :
    Map.wf m d = true ↔ Map.sorted m = true ∧ ∀ p ∈ m, p.2 ≠ d := by
  simp [Map.wf]

/-- Writing a key keeps the canonical form. -/
theorem Map.wf_put [DecidableEq α] (m : Map α) (d : α) (x : Nat) (a : α) (h : Map.wf m d = true) :
    Map.wf (Map.put m d x a) d = true := by
  obtain ⟨hs, hd⟩ := (Map.wf_iff m d).mp h
  unfold Map.put
  split
  · exact (Map.wf_iff _ d).mpr ⟨Map.sorted_erase m x hs, fun p hp => hd p (Map.mem_erase hp)⟩
  · rename_i hne
    refine (Map.wf_iff _ d).mpr ⟨Map.sorted_insert m x a hs, fun p hp => ?_⟩
    rcases Map.mem_insert hp with rfl | hp
    · exact hne
    · exact hd p hp

/-- Removing a key keeps the canonical form. -/
theorem Map.wf_erase [DecidableEq α] (m : Map α) (d : α) (x : Nat) (h : Map.wf m d = true) :
    Map.wf (Map.erase m x) d = true := by
  obtain ⟨hs, hd⟩ := (Map.wf_iff m d).mp h
  exact (Map.wf_iff _ d).mpr ⟨Map.sorted_erase m x hs, fun p hp => hd p (Map.mem_erase hp)⟩

/-- Two canonical tables that read alike are the same table. -/
theorem Map.ext_of_wf [DecidableEq α] {m n : Map α} {d : α} (hm : Map.wf m d = true) (hn : Map.wf n d = true)
    (h : ∀ x, Map.get m d x = Map.get n d x) : m = n := by
  obtain ⟨sm, dm⟩ := (Map.wf_iff m d).mp hm
  obtain ⟨sn, dn⟩ := (Map.wf_iff n d).mp hn
  clear hm hn
  have none_below : ∀ (q : Map α) (k : Nat), Map.above k q → ∀ x, x ≤ k → Map.get q d x = d := by
    intro q k hq x hx
    induction q with
    | nil => rfl
    | cons p q ih =>
      obtain ⟨j, b⟩ := p
      have hj : k < j := hq (j, b) (by simp)
      simp only [Map.get, Map.find?_cons, if_neg (show ¬ j = x by omega)]
      exact ih (fun p hp => hq p (by simp [hp]))
  induction m generalizing n with
  | nil =>
    cases n with
    | nil => rfl
    | cons p n =>
      obtain ⟨k, b⟩ := p
      have := h k
      simp [Map.get, Map.find?_cons] at this
      exact absurd this.symm (dn (k, b) (by simp))
  | cons p m ih =>
    obtain ⟨k, a⟩ := p
    cases n with
    | nil =>
      have := h k
      simp [Map.get, Map.find?_cons] at this
      exact absurd this (dm (k, a) (by simp))
    | cons q n =>
      obtain ⟨j, b⟩ := q
      obtain ⟨am, sm'⟩ := (Map.sorted_cons k a m).mp sm
      obtain ⟨an, sn'⟩ := (Map.sorted_cons j b n).mp sn
      have hk := h k
      have hj := h j
      rcases lt_trichotomy k j with hlt | rfl | hlt
      · exfalso
        rw [none_below ((j, b) :: n) k (by
          intro p hp; rcases List.mem_cons.mp hp with rfl | hp
          · exact hlt
          · exact lt_trans hlt (an p hp)) k le_rfl] at hk
        simp [Map.get, Map.find?_cons] at hk
        exact dm (k, a) (by simp) hk
      · have hab : a = b := by simpa [Map.get, Map.find?_cons] using hk
        subst hab
        have : m = n := by
          refine ih (fun x => ?_) sm' (fun p hp => dm p (by simp [hp])) sn' (fun p hp => dn p (by simp [hp]))
          have hx := h x
          by_cases hkx : k = x
          · subst hkx
            rw [none_below m k am k le_rfl, none_below n k an k le_rfl]
          · simpa [Map.get, Map.find?_cons, hkx] using hx
        rw [this]
      · exfalso
        rw [none_below ((k, a) :: m) j (by
          intro p hp; rcases List.mem_cons.mp hp with rfl | hp
          · exact hlt
          · exact lt_trans hlt (am p hp)) j le_rfl] at hj
        simp [Map.get, Map.find?_cons] at hj
        exact dn (j, b) (by simp) hj.symm

end Sys2Proof.Machine
end

