-- ==== Sys2Proof/Laws/State.lean ====
section
/-! SUPPORT. What each update of the state leaves alone, field by field, and what it makes of the one it changes. -/

namespace Sys2Proof.Machine

/-! ### `setGroup` -/

@[simp] theorem State.setGroup_ag (s : State) (g : Nat) (x : Group) : (s.setGroup g x).ag = s.ag := rfl
@[simp] theorem State.setGroup_cores (s : State) (g : Nat) (x : Group) : (s.setGroup g x).cores = s.cores := rfl
@[simp] theorem State.setGroup_mems (s : State) (g : Nat) (x : Group) : (s.setGroup g x).mems = s.mems := rfl
@[simp] theorem State.setGroup_tr (s : State) (g : Nat) (x : Group) : (s.setGroup g x).tr = s.tr := rfl
@[simp] theorem State.setGroup_cp (s : State) (g : Nat) (x : Group) : (s.setGroup g x).cp = s.cp := rfl
@[simp] theorem State.setGroup_fe (s : State) (g : Nat) (x : Group) : (s.setGroup g x).fe = s.fe := rfl
@[simp] theorem State.setGroup_trust (s : State) (g : Nat) (x : Group) : (s.setGroup g x).trust = s.trust := rfl
@[simp] theorem State.setGroup_ctl (s : State) (g : Nat) (x : Group) : (s.setGroup g x).ctl = s.ctl := rfl
@[simp] theorem State.setGroup_fab (s : State) (g : Nat) (x : Group) : (s.setGroup g x).fab = s.fab := rfl
@[simp] theorem State.setGroup_rel (s : State) (g : Nat) (x : Group) : (s.setGroup g x).rel = s.rel := rfl
@[simp] theorem State.setGroup_tele (s : State) (g : Nat) (x : Group) : (s.setGroup g x).tele = s.tele := rfl
@[simp] theorem State.setGroup_work_nextKey (s : State) (g : Nat) (x : Group) : (s.setGroup g x).work.nextKey = s.work.nextKey := rfl
@[simp] theorem State.setGroup_work_blocks (s : State) (g : Nat) (x : Group) : (s.setGroup g x).work.blocks = s.work.blocks := rfl
@[simp] theorem State.setGroup_work_clusters (s : State) (g : Nat) (x : Group) : (s.setGroup g x).work.clusters = s.work.clusters := rfl
@[simp] theorem State.setGroup_work_launches (s : State) (g : Nat) (x : Group) : (s.setGroup g x).work.launches = s.work.launches := rfl
@[simp] theorem State.setGroup_work_spawns (s : State) (g : Nat) (x : Group) : (s.setGroup g x).work.spawns = s.work.spawns := rfl

/-! ### `modGroup` -/

@[simp] theorem State.modGroup_ag (s : State) (g : Nat) (f : Group → Group) : (s.modGroup g f).ag = s.ag := rfl
@[simp] theorem State.modGroup_cores (s : State) (g : Nat) (f : Group → Group) : (s.modGroup g f).cores = s.cores := rfl
@[simp] theorem State.modGroup_mems (s : State) (g : Nat) (f : Group → Group) : (s.modGroup g f).mems = s.mems := rfl
@[simp] theorem State.modGroup_tr (s : State) (g : Nat) (f : Group → Group) : (s.modGroup g f).tr = s.tr := rfl
@[simp] theorem State.modGroup_cp (s : State) (g : Nat) (f : Group → Group) : (s.modGroup g f).cp = s.cp := rfl
@[simp] theorem State.modGroup_fe (s : State) (g : Nat) (f : Group → Group) : (s.modGroup g f).fe = s.fe := rfl
@[simp] theorem State.modGroup_trust (s : State) (g : Nat) (f : Group → Group) : (s.modGroup g f).trust = s.trust := rfl
@[simp] theorem State.modGroup_ctl (s : State) (g : Nat) (f : Group → Group) : (s.modGroup g f).ctl = s.ctl := rfl
@[simp] theorem State.modGroup_fab (s : State) (g : Nat) (f : Group → Group) : (s.modGroup g f).fab = s.fab := rfl
@[simp] theorem State.modGroup_rel (s : State) (g : Nat) (f : Group → Group) : (s.modGroup g f).rel = s.rel := rfl
@[simp] theorem State.modGroup_tele (s : State) (g : Nat) (f : Group → Group) : (s.modGroup g f).tele = s.tele := rfl
@[simp] theorem State.modGroup_work_nextKey (s : State) (g : Nat) (f : Group → Group) : (s.modGroup g f).work.nextKey = s.work.nextKey := rfl
@[simp] theorem State.modGroup_work_blocks (s : State) (g : Nat) (f : Group → Group) : (s.modGroup g f).work.blocks = s.work.blocks := rfl
@[simp] theorem State.modGroup_work_clusters (s : State) (g : Nat) (f : Group → Group) : (s.modGroup g f).work.clusters = s.work.clusters := rfl
@[simp] theorem State.modGroup_work_launches (s : State) (g : Nat) (f : Group → Group) : (s.modGroup g f).work.launches = s.work.launches := rfl
@[simp] theorem State.modGroup_work_spawns (s : State) (g : Nat) (f : Group → Group) : (s.modGroup g f).work.spawns = s.work.spawns := rfl

/-! ### `setBlock` -/

@[simp] theorem State.setBlock_ag (s : State) (b : Nat) (x : Block) : (s.setBlock b x).ag = s.ag := rfl
@[simp] theorem State.setBlock_cores (s : State) (b : Nat) (x : Block) : (s.setBlock b x).cores = s.cores := rfl
@[simp] theorem State.setBlock_mems (s : State) (b : Nat) (x : Block) : (s.setBlock b x).mems = s.mems := rfl
@[simp] theorem State.setBlock_tr (s : State) (b : Nat) (x : Block) : (s.setBlock b x).tr = s.tr := rfl
@[simp] theorem State.setBlock_cp (s : State) (b : Nat) (x : Block) : (s.setBlock b x).cp = s.cp := rfl
@[simp] theorem State.setBlock_fe (s : State) (b : Nat) (x : Block) : (s.setBlock b x).fe = s.fe := rfl
@[simp] theorem State.setBlock_trust (s : State) (b : Nat) (x : Block) : (s.setBlock b x).trust = s.trust := rfl
@[simp] theorem State.setBlock_ctl (s : State) (b : Nat) (x : Block) : (s.setBlock b x).ctl = s.ctl := rfl
@[simp] theorem State.setBlock_fab (s : State) (b : Nat) (x : Block) : (s.setBlock b x).fab = s.fab := rfl
@[simp] theorem State.setBlock_rel (s : State) (b : Nat) (x : Block) : (s.setBlock b x).rel = s.rel := rfl
@[simp] theorem State.setBlock_tele (s : State) (b : Nat) (x : Block) : (s.setBlock b x).tele = s.tele := rfl
@[simp] theorem State.setBlock_work_nextKey (s : State) (b : Nat) (x : Block) : (s.setBlock b x).work.nextKey = s.work.nextKey := rfl
@[simp] theorem State.setBlock_work_groups (s : State) (b : Nat) (x : Block) : (s.setBlock b x).work.groups = s.work.groups := rfl
@[simp] theorem State.setBlock_work_clusters (s : State) (b : Nat) (x : Block) : (s.setBlock b x).work.clusters = s.work.clusters := rfl
@[simp] theorem State.setBlock_work_launches (s : State) (b : Nat) (x : Block) : (s.setBlock b x).work.launches = s.work.launches := rfl
@[simp] theorem State.setBlock_work_spawns (s : State) (b : Nat) (x : Block) : (s.setBlock b x).work.spawns = s.work.spawns := rfl

/-! ### `modBlock` -/

@[simp] theorem State.modBlock_ag (s : State) (b : Nat) (f : Block → Block) : (s.modBlock b f).ag = s.ag := rfl
@[simp] theorem State.modBlock_cores (s : State) (b : Nat) (f : Block → Block) : (s.modBlock b f).cores = s.cores := rfl
@[simp] theorem State.modBlock_mems (s : State) (b : Nat) (f : Block → Block) : (s.modBlock b f).mems = s.mems := rfl
@[simp] theorem State.modBlock_tr (s : State) (b : Nat) (f : Block → Block) : (s.modBlock b f).tr = s.tr := rfl
@[simp] theorem State.modBlock_cp (s : State) (b : Nat) (f : Block → Block) : (s.modBlock b f).cp = s.cp := rfl
@[simp] theorem State.modBlock_fe (s : State) (b : Nat) (f : Block → Block) : (s.modBlock b f).fe = s.fe := rfl
@[simp] theorem State.modBlock_trust (s : State) (b : Nat) (f : Block → Block) : (s.modBlock b f).trust = s.trust := rfl
@[simp] theorem State.modBlock_ctl (s : State) (b : Nat) (f : Block → Block) : (s.modBlock b f).ctl = s.ctl := rfl
@[simp] theorem State.modBlock_fab (s : State) (b : Nat) (f : Block → Block) : (s.modBlock b f).fab = s.fab := rfl
@[simp] theorem State.modBlock_rel (s : State) (b : Nat) (f : Block → Block) : (s.modBlock b f).rel = s.rel := rfl
@[simp] theorem State.modBlock_tele (s : State) (b : Nat) (f : Block → Block) : (s.modBlock b f).tele = s.tele := rfl
@[simp] theorem State.modBlock_work_nextKey (s : State) (b : Nat) (f : Block → Block) : (s.modBlock b f).work.nextKey = s.work.nextKey := rfl
@[simp] theorem State.modBlock_work_groups (s : State) (b : Nat) (f : Block → Block) : (s.modBlock b f).work.groups = s.work.groups := rfl
@[simp] theorem State.modBlock_work_clusters (s : State) (b : Nat) (f : Block → Block) : (s.modBlock b f).work.clusters = s.work.clusters := rfl
@[simp] theorem State.modBlock_work_launches (s : State) (b : Nat) (f : Block → Block) : (s.modBlock b f).work.launches = s.work.launches := rfl
@[simp] theorem State.modBlock_work_spawns (s : State) (b : Nat) (f : Block → Block) : (s.modBlock b f).work.spawns = s.work.spawns := rfl

/-! ### `setCluster` -/

@[simp] theorem State.setCluster_ag (s : State) (c : Nat) (x : Cluster) : (s.setCluster c x).ag = s.ag := rfl
@[simp] theorem State.setCluster_cores (s : State) (c : Nat) (x : Cluster) : (s.setCluster c x).cores = s.cores := rfl
@[simp] theorem State.setCluster_mems (s : State) (c : Nat) (x : Cluster) : (s.setCluster c x).mems = s.mems := rfl
@[simp] theorem State.setCluster_tr (s : State) (c : Nat) (x : Cluster) : (s.setCluster c x).tr = s.tr := rfl
@[simp] theorem State.setCluster_cp (s : State) (c : Nat) (x : Cluster) : (s.setCluster c x).cp = s.cp := rfl
@[simp] theorem State.setCluster_fe (s : State) (c : Nat) (x : Cluster) : (s.setCluster c x).fe = s.fe := rfl
@[simp] theorem State.setCluster_trust (s : State) (c : Nat) (x : Cluster) : (s.setCluster c x).trust = s.trust := rfl
@[simp] theorem State.setCluster_ctl (s : State) (c : Nat) (x : Cluster) : (s.setCluster c x).ctl = s.ctl := rfl
@[simp] theorem State.setCluster_fab (s : State) (c : Nat) (x : Cluster) : (s.setCluster c x).fab = s.fab := rfl
@[simp] theorem State.setCluster_rel (s : State) (c : Nat) (x : Cluster) : (s.setCluster c x).rel = s.rel := rfl
@[simp] theorem State.setCluster_tele (s : State) (c : Nat) (x : Cluster) : (s.setCluster c x).tele = s.tele := rfl
@[simp] theorem State.setCluster_work_nextKey (s : State) (c : Nat) (x : Cluster) : (s.setCluster c x).work.nextKey = s.work.nextKey := rfl
@[simp] theorem State.setCluster_work_groups (s : State) (c : Nat) (x : Cluster) : (s.setCluster c x).work.groups = s.work.groups := rfl
@[simp] theorem State.setCluster_work_blocks (s : State) (c : Nat) (x : Cluster) : (s.setCluster c x).work.blocks = s.work.blocks := rfl
@[simp] theorem State.setCluster_work_launches (s : State) (c : Nat) (x : Cluster) : (s.setCluster c x).work.launches = s.work.launches := rfl
@[simp] theorem State.setCluster_work_spawns (s : State) (c : Nat) (x : Cluster) : (s.setCluster c x).work.spawns = s.work.spawns := rfl

/-! ### `modCluster` -/

@[simp] theorem State.modCluster_ag (s : State) (c : Nat) (f : Cluster → Cluster) : (s.modCluster c f).ag = s.ag := rfl
@[simp] theorem State.modCluster_cores (s : State) (c : Nat) (f : Cluster → Cluster) : (s.modCluster c f).cores = s.cores := rfl
@[simp] theorem State.modCluster_mems (s : State) (c : Nat) (f : Cluster → Cluster) : (s.modCluster c f).mems = s.mems := rfl
@[simp] theorem State.modCluster_tr (s : State) (c : Nat) (f : Cluster → Cluster) : (s.modCluster c f).tr = s.tr := rfl
@[simp] theorem State.modCluster_cp (s : State) (c : Nat) (f : Cluster → Cluster) : (s.modCluster c f).cp = s.cp := rfl
@[simp] theorem State.modCluster_fe (s : State) (c : Nat) (f : Cluster → Cluster) : (s.modCluster c f).fe = s.fe := rfl
@[simp] theorem State.modCluster_trust (s : State) (c : Nat) (f : Cluster → Cluster) : (s.modCluster c f).trust = s.trust := rfl
@[simp] theorem State.modCluster_ctl (s : State) (c : Nat) (f : Cluster → Cluster) : (s.modCluster c f).ctl = s.ctl := rfl
@[simp] theorem State.modCluster_fab (s : State) (c : Nat) (f : Cluster → Cluster) : (s.modCluster c f).fab = s.fab := rfl
@[simp] theorem State.modCluster_rel (s : State) (c : Nat) (f : Cluster → Cluster) : (s.modCluster c f).rel = s.rel := rfl
@[simp] theorem State.modCluster_tele (s : State) (c : Nat) (f : Cluster → Cluster) : (s.modCluster c f).tele = s.tele := rfl
@[simp] theorem State.modCluster_work_nextKey (s : State) (c : Nat) (f : Cluster → Cluster) : (s.modCluster c f).work.nextKey = s.work.nextKey := rfl
@[simp] theorem State.modCluster_work_groups (s : State) (c : Nat) (f : Cluster → Cluster) : (s.modCluster c f).work.groups = s.work.groups := rfl
@[simp] theorem State.modCluster_work_blocks (s : State) (c : Nat) (f : Cluster → Cluster) : (s.modCluster c f).work.blocks = s.work.blocks := rfl
@[simp] theorem State.modCluster_work_launches (s : State) (c : Nat) (f : Cluster → Cluster) : (s.modCluster c f).work.launches = s.work.launches := rfl
@[simp] theorem State.modCluster_work_spawns (s : State) (c : Nat) (f : Cluster → Cluster) : (s.modCluster c f).work.spawns = s.work.spawns := rfl

/-! ### `setLaunch` -/

@[simp] theorem State.setLaunch_ag (s : State) (l : Nat) (x : Launch) : (s.setLaunch l x).ag = s.ag := rfl
@[simp] theorem State.setLaunch_cores (s : State) (l : Nat) (x : Launch) : (s.setLaunch l x).cores = s.cores := rfl
@[simp] theorem State.setLaunch_mems (s : State) (l : Nat) (x : Launch) : (s.setLaunch l x).mems = s.mems := rfl
@[simp] theorem State.setLaunch_tr (s : State) (l : Nat) (x : Launch) : (s.setLaunch l x).tr = s.tr := rfl
@[simp] theorem State.setLaunch_cp (s : State) (l : Nat) (x : Launch) : (s.setLaunch l x).cp = s.cp := rfl
@[simp] theorem State.setLaunch_fe (s : State) (l : Nat) (x : Launch) : (s.setLaunch l x).fe = s.fe := rfl
@[simp] theorem State.setLaunch_trust (s : State) (l : Nat) (x : Launch) : (s.setLaunch l x).trust = s.trust := rfl
@[simp] theorem State.setLaunch_ctl (s : State) (l : Nat) (x : Launch) : (s.setLaunch l x).ctl = s.ctl := rfl
@[simp] theorem State.setLaunch_fab (s : State) (l : Nat) (x : Launch) : (s.setLaunch l x).fab = s.fab := rfl
@[simp] theorem State.setLaunch_rel (s : State) (l : Nat) (x : Launch) : (s.setLaunch l x).rel = s.rel := rfl
@[simp] theorem State.setLaunch_tele (s : State) (l : Nat) (x : Launch) : (s.setLaunch l x).tele = s.tele := rfl
@[simp] theorem State.setLaunch_work_nextKey (s : State) (l : Nat) (x : Launch) : (s.setLaunch l x).work.nextKey = s.work.nextKey := rfl
@[simp] theorem State.setLaunch_work_groups (s : State) (l : Nat) (x : Launch) : (s.setLaunch l x).work.groups = s.work.groups := rfl
@[simp] theorem State.setLaunch_work_blocks (s : State) (l : Nat) (x : Launch) : (s.setLaunch l x).work.blocks = s.work.blocks := rfl
@[simp] theorem State.setLaunch_work_clusters (s : State) (l : Nat) (x : Launch) : (s.setLaunch l x).work.clusters = s.work.clusters := rfl
@[simp] theorem State.setLaunch_work_spawns (s : State) (l : Nat) (x : Launch) : (s.setLaunch l x).work.spawns = s.work.spawns := rfl

/-! ### `modLaunch` -/

@[simp] theorem State.modLaunch_ag (s : State) (l : Nat) (f : Launch → Launch) : (s.modLaunch l f).ag = s.ag := rfl
@[simp] theorem State.modLaunch_cores (s : State) (l : Nat) (f : Launch → Launch) : (s.modLaunch l f).cores = s.cores := rfl
@[simp] theorem State.modLaunch_mems (s : State) (l : Nat) (f : Launch → Launch) : (s.modLaunch l f).mems = s.mems := rfl
@[simp] theorem State.modLaunch_tr (s : State) (l : Nat) (f : Launch → Launch) : (s.modLaunch l f).tr = s.tr := rfl
@[simp] theorem State.modLaunch_cp (s : State) (l : Nat) (f : Launch → Launch) : (s.modLaunch l f).cp = s.cp := rfl
@[simp] theorem State.modLaunch_fe (s : State) (l : Nat) (f : Launch → Launch) : (s.modLaunch l f).fe = s.fe := rfl
@[simp] theorem State.modLaunch_trust (s : State) (l : Nat) (f : Launch → Launch) : (s.modLaunch l f).trust = s.trust := rfl
@[simp] theorem State.modLaunch_ctl (s : State) (l : Nat) (f : Launch → Launch) : (s.modLaunch l f).ctl = s.ctl := rfl
@[simp] theorem State.modLaunch_fab (s : State) (l : Nat) (f : Launch → Launch) : (s.modLaunch l f).fab = s.fab := rfl
@[simp] theorem State.modLaunch_rel (s : State) (l : Nat) (f : Launch → Launch) : (s.modLaunch l f).rel = s.rel := rfl
@[simp] theorem State.modLaunch_tele (s : State) (l : Nat) (f : Launch → Launch) : (s.modLaunch l f).tele = s.tele := rfl
@[simp] theorem State.modLaunch_work_nextKey (s : State) (l : Nat) (f : Launch → Launch) : (s.modLaunch l f).work.nextKey = s.work.nextKey := rfl
@[simp] theorem State.modLaunch_work_groups (s : State) (l : Nat) (f : Launch → Launch) : (s.modLaunch l f).work.groups = s.work.groups := rfl
@[simp] theorem State.modLaunch_work_blocks (s : State) (l : Nat) (f : Launch → Launch) : (s.modLaunch l f).work.blocks = s.work.blocks := rfl
@[simp] theorem State.modLaunch_work_clusters (s : State) (l : Nat) (f : Launch → Launch) : (s.modLaunch l f).work.clusters = s.work.clusters := rfl
@[simp] theorem State.modLaunch_work_spawns (s : State) (l : Nat) (f : Launch → Launch) : (s.modLaunch l f).work.spawns = s.work.spawns := rfl

/-! ### `modLane` -/

@[simp] theorem State.modLane_ag (s : State) (g l : Nat) (f : Lane → Lane) : (s.modLane g l f).ag = s.ag := rfl
@[simp] theorem State.modLane_cores (s : State) (g l : Nat) (f : Lane → Lane) : (s.modLane g l f).cores = s.cores := rfl
@[simp] theorem State.modLane_mems (s : State) (g l : Nat) (f : Lane → Lane) : (s.modLane g l f).mems = s.mems := rfl
@[simp] theorem State.modLane_tr (s : State) (g l : Nat) (f : Lane → Lane) : (s.modLane g l f).tr = s.tr := rfl
@[simp] theorem State.modLane_cp (s : State) (g l : Nat) (f : Lane → Lane) : (s.modLane g l f).cp = s.cp := rfl
@[simp] theorem State.modLane_fe (s : State) (g l : Nat) (f : Lane → Lane) : (s.modLane g l f).fe = s.fe := rfl
@[simp] theorem State.modLane_trust (s : State) (g l : Nat) (f : Lane → Lane) : (s.modLane g l f).trust = s.trust := rfl
@[simp] theorem State.modLane_ctl (s : State) (g l : Nat) (f : Lane → Lane) : (s.modLane g l f).ctl = s.ctl := rfl
@[simp] theorem State.modLane_fab (s : State) (g l : Nat) (f : Lane → Lane) : (s.modLane g l f).fab = s.fab := rfl
@[simp] theorem State.modLane_rel (s : State) (g l : Nat) (f : Lane → Lane) : (s.modLane g l f).rel = s.rel := rfl
@[simp] theorem State.modLane_tele (s : State) (g l : Nat) (f : Lane → Lane) : (s.modLane g l f).tele = s.tele := rfl
@[simp] theorem State.modLane_work_nextKey (s : State) (g l : Nat) (f : Lane → Lane) : (s.modLane g l f).work.nextKey = s.work.nextKey := rfl
@[simp] theorem State.modLane_work_blocks (s : State) (g l : Nat) (f : Lane → Lane) : (s.modLane g l f).work.blocks = s.work.blocks := rfl
@[simp] theorem State.modLane_work_clusters (s : State) (g l : Nat) (f : Lane → Lane) : (s.modLane g l f).work.clusters = s.work.clusters := rfl
@[simp] theorem State.modLane_work_launches (s : State) (g l : Nat) (f : Lane → Lane) : (s.modLane g l f).work.launches = s.work.launches := rfl
@[simp] theorem State.modLane_work_spawns (s : State) (g l : Nat) (f : Lane → Lane) : (s.modLane g l f).work.spawns = s.work.spawns := rfl

/-! ### `modLanes` -/

@[simp] theorem State.modLanes_ag (s : State) (g : Nat) (m : LaneMask) (f : Nat → Lane → Lane) : (s.modLanes g m f).ag = s.ag := rfl
@[simp] theorem State.modLanes_cores (s : State) (g : Nat) (m : LaneMask) (f : Nat → Lane → Lane) : (s.modLanes g m f).cores = s.cores := rfl
@[simp] theorem State.modLanes_mems (s : State) (g : Nat) (m : LaneMask) (f : Nat → Lane → Lane) : (s.modLanes g m f).mems = s.mems := rfl
@[simp] theorem State.modLanes_tr (s : State) (g : Nat) (m : LaneMask) (f : Nat → Lane → Lane) : (s.modLanes g m f).tr = s.tr := rfl
@[simp] theorem State.modLanes_cp (s : State) (g : Nat) (m : LaneMask) (f : Nat → Lane → Lane) : (s.modLanes g m f).cp = s.cp := rfl
@[simp] theorem State.modLanes_fe (s : State) (g : Nat) (m : LaneMask) (f : Nat → Lane → Lane) : (s.modLanes g m f).fe = s.fe := rfl
@[simp] theorem State.modLanes_trust (s : State) (g : Nat) (m : LaneMask) (f : Nat → Lane → Lane) : (s.modLanes g m f).trust = s.trust := rfl
@[simp] theorem State.modLanes_ctl (s : State) (g : Nat) (m : LaneMask) (f : Nat → Lane → Lane) : (s.modLanes g m f).ctl = s.ctl := rfl
@[simp] theorem State.modLanes_fab (s : State) (g : Nat) (m : LaneMask) (f : Nat → Lane → Lane) : (s.modLanes g m f).fab = s.fab := rfl
@[simp] theorem State.modLanes_rel (s : State) (g : Nat) (m : LaneMask) (f : Nat → Lane → Lane) : (s.modLanes g m f).rel = s.rel := rfl
@[simp] theorem State.modLanes_tele (s : State) (g : Nat) (m : LaneMask) (f : Nat → Lane → Lane) : (s.modLanes g m f).tele = s.tele := rfl
@[simp] theorem State.modLanes_work_nextKey (s : State) (g : Nat) (m : LaneMask) (f : Nat → Lane → Lane) : (s.modLanes g m f).work.nextKey = s.work.nextKey := rfl
@[simp] theorem State.modLanes_work_blocks (s : State) (g : Nat) (m : LaneMask) (f : Nat → Lane → Lane) : (s.modLanes g m f).work.blocks = s.work.blocks := rfl
@[simp] theorem State.modLanes_work_clusters (s : State) (g : Nat) (m : LaneMask) (f : Nat → Lane → Lane) : (s.modLanes g m f).work.clusters = s.work.clusters := rfl
@[simp] theorem State.modLanes_work_launches (s : State) (g : Nat) (m : LaneMask) (f : Nat → Lane → Lane) : (s.modLanes g m f).work.launches = s.work.launches := rfl
@[simp] theorem State.modLanes_work_spawns (s : State) (g : Nat) (m : LaneMask) (f : Nat → Lane → Lane) : (s.modLanes g m f).work.spawns = s.work.spawns := rfl

/-! ### `advance` -/

@[simp] theorem State.advance_ag (s : State) (g : Nat) (m : LaneMask) : (s.advance g m).ag = s.ag := rfl
@[simp] theorem State.advance_cores (s : State) (g : Nat) (m : LaneMask) : (s.advance g m).cores = s.cores := rfl
@[simp] theorem State.advance_mems (s : State) (g : Nat) (m : LaneMask) : (s.advance g m).mems = s.mems := rfl
@[simp] theorem State.advance_tr (s : State) (g : Nat) (m : LaneMask) : (s.advance g m).tr = s.tr := rfl
@[simp] theorem State.advance_cp (s : State) (g : Nat) (m : LaneMask) : (s.advance g m).cp = s.cp := rfl
@[simp] theorem State.advance_fe (s : State) (g : Nat) (m : LaneMask) : (s.advance g m).fe = s.fe := rfl
@[simp] theorem State.advance_trust (s : State) (g : Nat) (m : LaneMask) : (s.advance g m).trust = s.trust := rfl
@[simp] theorem State.advance_ctl (s : State) (g : Nat) (m : LaneMask) : (s.advance g m).ctl = s.ctl := rfl
@[simp] theorem State.advance_fab (s : State) (g : Nat) (m : LaneMask) : (s.advance g m).fab = s.fab := rfl
@[simp] theorem State.advance_rel (s : State) (g : Nat) (m : LaneMask) : (s.advance g m).rel = s.rel := rfl
@[simp] theorem State.advance_tele (s : State) (g : Nat) (m : LaneMask) : (s.advance g m).tele = s.tele := rfl
@[simp] theorem State.advance_work_nextKey (s : State) (g : Nat) (m : LaneMask) : (s.advance g m).work.nextKey = s.work.nextKey := rfl
@[simp] theorem State.advance_work_blocks (s : State) (g : Nat) (m : LaneMask) : (s.advance g m).work.blocks = s.work.blocks := rfl
@[simp] theorem State.advance_work_clusters (s : State) (g : Nat) (m : LaneMask) : (s.advance g m).work.clusters = s.work.clusters := rfl
@[simp] theorem State.advance_work_launches (s : State) (g : Nat) (m : LaneMask) : (s.advance g m).work.launches = s.work.launches := rfl
@[simp] theorem State.advance_work_spawns (s : State) (g : Nat) (m : LaneMask) : (s.advance g m).work.spawns = s.work.spawns := rfl

/-! ### `setPart` -/

@[simp] theorem State.setPart_ag (s : State) (p : Nat) (x : Partition) : (s.setPart p x).ag = s.ag := rfl
@[simp] theorem State.setPart_work (s : State) (p : Nat) (x : Partition) : (s.setPart p x).work = s.work := rfl
@[simp] theorem State.setPart_mems (s : State) (p : Nat) (x : Partition) : (s.setPart p x).mems = s.mems := rfl
@[simp] theorem State.setPart_tr (s : State) (p : Nat) (x : Partition) : (s.setPart p x).tr = s.tr := rfl
@[simp] theorem State.setPart_cp (s : State) (p : Nat) (x : Partition) : (s.setPart p x).cp = s.cp := rfl
@[simp] theorem State.setPart_fe (s : State) (p : Nat) (x : Partition) : (s.setPart p x).fe = s.fe := rfl
@[simp] theorem State.setPart_trust (s : State) (p : Nat) (x : Partition) : (s.setPart p x).trust = s.trust := rfl
@[simp] theorem State.setPart_ctl (s : State) (p : Nat) (x : Partition) : (s.setPart p x).ctl = s.ctl := rfl
@[simp] theorem State.setPart_fab (s : State) (p : Nat) (x : Partition) : (s.setPart p x).fab = s.fab := rfl
@[simp] theorem State.setPart_rel (s : State) (p : Nat) (x : Partition) : (s.setPart p x).rel = s.rel := rfl
@[simp] theorem State.setPart_tele (s : State) (p : Nat) (x : Partition) : (s.setPart p x).tele = s.tele := rfl
@[simp] theorem State.setPart_cores_core (s : State) (p : Nat) (x : Partition) : (s.setPart p x).cores.core = s.cores.core := rfl
@[simp] theorem State.setPart_cores_rings (s : State) (p : Nat) (x : Partition) : (s.setPart p x).cores.rings = s.cores.rings := rfl
@[simp] theorem State.setPart_cores_convs (s : State) (p : Nat) (x : Partition) : (s.setPart p x).cores.convs = s.cores.convs := rfl
@[simp] theorem State.setPart_cores_matOps (s : State) (p : Nat) (x : Partition) : (s.setPart p x).cores.matOps = s.cores.matOps := rfl
@[simp] theorem State.setPart_cores_moves (s : State) (p : Nat) (x : Partition) : (s.setPart p x).cores.moves = s.cores.moves := rfl
@[simp] theorem State.setPart_cores_stale (s : State) (p : Nat) (x : Partition) : (s.setPart p x).cores.stale = s.cores.stale := rfl

/-! ### `modCore` -/

@[simp] theorem State.modCore_ag (s : State) (c : Nat) (f : Core → Core) : (s.modCore c f).ag = s.ag := rfl
@[simp] theorem State.modCore_work (s : State) (c : Nat) (f : Core → Core) : (s.modCore c f).work = s.work := rfl
@[simp] theorem State.modCore_mems (s : State) (c : Nat) (f : Core → Core) : (s.modCore c f).mems = s.mems := rfl
@[simp] theorem State.modCore_tr (s : State) (c : Nat) (f : Core → Core) : (s.modCore c f).tr = s.tr := rfl
@[simp] theorem State.modCore_cp (s : State) (c : Nat) (f : Core → Core) : (s.modCore c f).cp = s.cp := rfl
@[simp] theorem State.modCore_fe (s : State) (c : Nat) (f : Core → Core) : (s.modCore c f).fe = s.fe := rfl
@[simp] theorem State.modCore_trust (s : State) (c : Nat) (f : Core → Core) : (s.modCore c f).trust = s.trust := rfl
@[simp] theorem State.modCore_ctl (s : State) (c : Nat) (f : Core → Core) : (s.modCore c f).ctl = s.ctl := rfl
@[simp] theorem State.modCore_fab (s : State) (c : Nat) (f : Core → Core) : (s.modCore c f).fab = s.fab := rfl
@[simp] theorem State.modCore_rel (s : State) (c : Nat) (f : Core → Core) : (s.modCore c f).rel = s.rel := rfl
@[simp] theorem State.modCore_tele (s : State) (c : Nat) (f : Core → Core) : (s.modCore c f).tele = s.tele := rfl
@[simp] theorem State.modCore_cores_part (s : State) (c : Nat) (f : Core → Core) : (s.modCore c f).cores.part = s.cores.part := rfl
@[simp] theorem State.modCore_cores_rings (s : State) (c : Nat) (f : Core → Core) : (s.modCore c f).cores.rings = s.cores.rings := rfl
@[simp] theorem State.modCore_cores_convs (s : State) (c : Nat) (f : Core → Core) : (s.modCore c f).cores.convs = s.cores.convs := rfl
@[simp] theorem State.modCore_cores_matOps (s : State) (c : Nat) (f : Core → Core) : (s.modCore c f).cores.matOps = s.cores.matOps := rfl
@[simp] theorem State.modCore_cores_moves (s : State) (c : Nat) (f : Core → Core) : (s.modCore c f).cores.moves = s.cores.moves := rfl
@[simp] theorem State.modCore_cores_stale (s : State) (c : Nat) (f : Core → Core) : (s.modCore c f).cores.stale = s.cores.stale := rfl

/-! ### `modXlat` -/

@[simp] theorem State.modXlat_ag (s : State) (p : Nat) (f : Xlat → Xlat) : (s.modXlat p f).ag = s.ag := rfl
@[simp] theorem State.modXlat_work (s : State) (p : Nat) (f : Xlat → Xlat) : (s.modXlat p f).work = s.work := rfl
@[simp] theorem State.modXlat_cores (s : State) (p : Nat) (f : Xlat → Xlat) : (s.modXlat p f).cores = s.cores := rfl
@[simp] theorem State.modXlat_mems (s : State) (p : Nat) (f : Xlat → Xlat) : (s.modXlat p f).mems = s.mems := rfl
@[simp] theorem State.modXlat_cp (s : State) (p : Nat) (f : Xlat → Xlat) : (s.modXlat p f).cp = s.cp := rfl
@[simp] theorem State.modXlat_fe (s : State) (p : Nat) (f : Xlat → Xlat) : (s.modXlat p f).fe = s.fe := rfl
@[simp] theorem State.modXlat_trust (s : State) (p : Nat) (f : Xlat → Xlat) : (s.modXlat p f).trust = s.trust := rfl
@[simp] theorem State.modXlat_ctl (s : State) (p : Nat) (f : Xlat → Xlat) : (s.modXlat p f).ctl = s.ctl := rfl
@[simp] theorem State.modXlat_fab (s : State) (p : Nat) (f : Xlat → Xlat) : (s.modXlat p f).fab = s.fab := rfl
@[simp] theorem State.modXlat_rel (s : State) (p : Nat) (f : Xlat → Xlat) : (s.modXlat p f).rel = s.rel := rfl
@[simp] theorem State.modXlat_tele (s : State) (p : Nat) (f : Xlat → Xlat) : (s.modXlat p f).tele = s.tele := rfl
@[simp] theorem State.modXlat_tr_tlb (s : State) (p : Nat) (f : Xlat → Xlat) : (s.modXlat p f).tr.tlb = s.tr.tlb := rfl
@[simp] theorem State.modXlat_tr_tables (s : State) (p : Nat) (f : Xlat → Xlat) : (s.modXlat p f).tr.tables = s.tr.tables := rfl
@[simp] theorem State.modXlat_tr_walks (s : State) (p : Nat) (f : Xlat → Xlat) : (s.modXlat p f).tr.walks = s.tr.walks := rfl
@[simp] theorem State.modXlat_tr_faults (s : State) (p : Nat) (f : Xlat → Xlat) : (s.modXlat p f).tr.faults = s.tr.faults := rfl
@[simp] theorem State.modXlat_tr_held (s : State) (p : Nat) (f : Xlat → Xlat) : (s.modXlat p f).tr.held = s.tr.held := rfl

/-! ### `modQueue` -/

@[simp] theorem State.modQueue_ag (s : State) (q : Nat) (f : Queue → Queue) : (s.modQueue q f).ag = s.ag := rfl
@[simp] theorem State.modQueue_work (s : State) (q : Nat) (f : Queue → Queue) : (s.modQueue q f).work = s.work := rfl
@[simp] theorem State.modQueue_cores (s : State) (q : Nat) (f : Queue → Queue) : (s.modQueue q f).cores = s.cores := rfl
@[simp] theorem State.modQueue_mems (s : State) (q : Nat) (f : Queue → Queue) : (s.modQueue q f).mems = s.mems := rfl
@[simp] theorem State.modQueue_tr (s : State) (q : Nat) (f : Queue → Queue) : (s.modQueue q f).tr = s.tr := rfl
@[simp] theorem State.modQueue_cp (s : State) (q : Nat) (f : Queue → Queue) : (s.modQueue q f).cp = s.cp := rfl
@[simp] theorem State.modQueue_trust (s : State) (q : Nat) (f : Queue → Queue) : (s.modQueue q f).trust = s.trust := rfl
@[simp] theorem State.modQueue_ctl (s : State) (q : Nat) (f : Queue → Queue) : (s.modQueue q f).ctl = s.ctl := rfl
@[simp] theorem State.modQueue_fab (s : State) (q : Nat) (f : Queue → Queue) : (s.modQueue q f).fab = s.fab := rfl
@[simp] theorem State.modQueue_rel (s : State) (q : Nat) (f : Queue → Queue) : (s.modQueue q f).rel = s.rel := rfl
@[simp] theorem State.modQueue_tele (s : State) (q : Nat) (f : Queue → Queue) : (s.modQueue q f).tele = s.tele := rfl
@[simp] theorem State.modQueue_fe_pend (s : State) (q : Nat) (f : Queue → Queue) : (s.modQueue q f).fe.pend = s.fe.pend := rfl
@[simp] theorem State.modQueue_fe_pendBlk (s : State) (q : Nat) (f : Queue → Queue) : (s.modQueue q f).fe.pendBlk = s.fe.pendBlk := rfl
@[simp] theorem State.modQueue_fe_cdFor (s : State) (q : Nat) (f : Queue → Queue) : (s.modQueue q f).fe.cdFor = s.fe.cdFor := rfl
@[simp] theorem State.modQueue_fe_nextLid (s : State) (q : Nat) (f : Queue → Queue) : (s.modQueue q f).fe.nextLid = s.fe.nextLid := rfl
@[simp] theorem State.modQueue_fe_failed (s : State) (q : Nat) (f : Queue → Queue) : (s.modQueue q f).fe.failed = s.fe.failed := rfl
@[simp] theorem State.modQueue_fe_rr (s : State) (q : Nat) (f : Queue → Queue) : (s.modQueue q f).fe.rr = s.fe.rr := rfl

/-! ### `modPolder` -/

@[simp] theorem State.modPolder_ag (s : State) (p : Nat) (f : Polder → Polder) : (s.modPolder p f).ag = s.ag := rfl
@[simp] theorem State.modPolder_work (s : State) (p : Nat) (f : Polder → Polder) : (s.modPolder p f).work = s.work := rfl
@[simp] theorem State.modPolder_cores (s : State) (p : Nat) (f : Polder → Polder) : (s.modPolder p f).cores = s.cores := rfl
@[simp] theorem State.modPolder_mems (s : State) (p : Nat) (f : Polder → Polder) : (s.modPolder p f).mems = s.mems := rfl
@[simp] theorem State.modPolder_tr (s : State) (p : Nat) (f : Polder → Polder) : (s.modPolder p f).tr = s.tr := rfl
@[simp] theorem State.modPolder_cp (s : State) (p : Nat) (f : Polder → Polder) : (s.modPolder p f).cp = s.cp := rfl
@[simp] theorem State.modPolder_fe (s : State) (p : Nat) (f : Polder → Polder) : (s.modPolder p f).fe = s.fe := rfl
@[simp] theorem State.modPolder_ctl (s : State) (p : Nat) (f : Polder → Polder) : (s.modPolder p f).ctl = s.ctl := rfl
@[simp] theorem State.modPolder_fab (s : State) (p : Nat) (f : Polder → Polder) : (s.modPolder p f).fab = s.fab := rfl
@[simp] theorem State.modPolder_rel (s : State) (p : Nat) (f : Polder → Polder) : (s.modPolder p f).rel = s.rel := rfl
@[simp] theorem State.modPolder_tele (s : State) (p : Nat) (f : Polder → Polder) : (s.modPolder p f).tele = s.tele := rfl
@[simp] theorem State.modPolder_trust_nextHnd (s : State) (p : Nat) (f : Polder → Polder) : (s.modPolder p f).trust.nextHnd = s.trust.nextHnd := rfl
@[simp] theorem State.modPolder_trust_keyDraws (s : State) (p : Nat) (f : Polder → Polder) : (s.modPolder p f).trust.keyDraws = s.trust.keyDraws := rfl
@[simp] theorem State.modPolder_trust_pfSess (s : State) (p : Nat) (f : Polder → Polder) : (s.modPolder p f).trust.pfSess = s.trust.pfSess := rfl
@[simp] theorem State.modPolder_trust_srIov (s : State) (p : Nat) (f : Polder → Polder) : (s.modPolder p f).trust.srIov = s.trust.srIov := rfl
@[simp] theorem State.modPolder_trust_responses (s : State) (p : Nat) (f : Polder → Polder) : (s.modPolder p f).trust.responses = s.trust.responses := rfl
@[simp] theorem State.modPolder_trust_seizure (s : State) (p : Nat) (f : Polder → Polder) : (s.modPolder p f).trust.seizure = s.trust.seizure := rfl
@[simp] theorem State.modPolder_trust_images (s : State) (p : Nat) (f : Polder → Polder) : (s.modPolder p f).trust.images = s.trust.images := rfl
@[simp] theorem State.modPolder_trust_exported (s : State) (p : Nat) (f : Polder → Polder) : (s.modPolder p f).trust.exported = s.trust.exported := rfl

/-! ### `bump` -/

@[simp] theorem State.bump_work (s : State) : (s.bump).work = s.work := rfl
@[simp] theorem State.bump_cores (s : State) : (s.bump).cores = s.cores := rfl
@[simp] theorem State.bump_mems (s : State) : (s.bump).mems = s.mems := rfl
@[simp] theorem State.bump_tr (s : State) : (s.bump).tr = s.tr := rfl
@[simp] theorem State.bump_cp (s : State) : (s.bump).cp = s.cp := rfl
@[simp] theorem State.bump_fe (s : State) : (s.bump).fe = s.fe := rfl
@[simp] theorem State.bump_trust (s : State) : (s.bump).trust = s.trust := rfl
@[simp] theorem State.bump_ctl (s : State) : (s.bump).ctl = s.ctl := rfl
@[simp] theorem State.bump_fab (s : State) : (s.bump).fab = s.fab := rfl
@[simp] theorem State.bump_rel (s : State) : (s.bump).rel = s.rel := rfl
@[simp] theorem State.bump_tele (s : State) : (s.bump).tele = s.tele := rfl
@[simp] theorem State.bump_ag_cycle (s : State) : (s.bump).ag.cycle = s.ag.cycle := rfl
@[simp] theorem State.bump_ag_clock (s : State) : (s.bump).ag.clock = s.ag.clock := rfl
@[simp] theorem State.bump_ag_frac (s : State) : (s.bump).ag.frac = s.ag.frac := rfl
@[simp] theorem State.bump_ag_todo (s : State) : (s.bump).ag.todo = s.ag.todo := rfl
@[simp] theorem State.bump_ag_atCycle (s : State) : (s.bump).ag.atCycle = s.ag.atCycle := rfl
@[simp] theorem State.bump_ag_atClock (s : State) : (s.bump).ag.atClock = s.ag.atClock := rfl
@[simp] theorem State.bump_ag_inputs (s : State) : (s.bump).ag.inputs = s.ag.inputs := rfl
@[simp] theorem State.bump_ag_cur (s : State) : (s.bump).ag.cur = s.ag.cur := rfl
@[simp] theorem State.bump_ag_snap (s : State) : (s.bump).ag.snap = s.ag.snap := rfl
@[simp] theorem State.bump_ag_nextId (s : State) : (s.bump).ag.nextId = s.ag.nextId := rfl

/-! ### `after` -/

@[simp] theorem State.after_work (s : State) (dt : Nat) (i : Instr) : (s.after dt i).work = s.work := rfl
@[simp] theorem State.after_cores (s : State) (dt : Nat) (i : Instr) : (s.after dt i).cores = s.cores := rfl
@[simp] theorem State.after_mems (s : State) (dt : Nat) (i : Instr) : (s.after dt i).mems = s.mems := rfl
@[simp] theorem State.after_tr (s : State) (dt : Nat) (i : Instr) : (s.after dt i).tr = s.tr := rfl
@[simp] theorem State.after_cp (s : State) (dt : Nat) (i : Instr) : (s.after dt i).cp = s.cp := rfl
@[simp] theorem State.after_fe (s : State) (dt : Nat) (i : Instr) : (s.after dt i).fe = s.fe := rfl
@[simp] theorem State.after_trust (s : State) (dt : Nat) (i : Instr) : (s.after dt i).trust = s.trust := rfl
@[simp] theorem State.after_ctl (s : State) (dt : Nat) (i : Instr) : (s.after dt i).ctl = s.ctl := rfl
@[simp] theorem State.after_fab (s : State) (dt : Nat) (i : Instr) : (s.after dt i).fab = s.fab := rfl
@[simp] theorem State.after_rel (s : State) (dt : Nat) (i : Instr) : (s.after dt i).rel = s.rel := rfl
@[simp] theorem State.after_tele (s : State) (dt : Nat) (i : Instr) : (s.after dt i).tele = s.tele := rfl
@[simp] theorem State.after_ag_cycle (s : State) (dt : Nat) (i : Instr) : (s.after dt i).ag.cycle = s.ag.cycle := rfl
@[simp] theorem State.after_ag_clock (s : State) (dt : Nat) (i : Instr) : (s.after dt i).ag.clock = s.ag.clock := rfl
@[simp] theorem State.after_ag_frac (s : State) (dt : Nat) (i : Instr) : (s.after dt i).ag.frac = s.ag.frac := rfl
@[simp] theorem State.after_ag_todo (s : State) (dt : Nat) (i : Instr) : (s.after dt i).ag.todo = s.ag.todo := rfl
@[simp] theorem State.after_ag_atClock (s : State) (dt : Nat) (i : Instr) : (s.after dt i).ag.atClock = s.ag.atClock := rfl
@[simp] theorem State.after_ag_inputs (s : State) (dt : Nat) (i : Instr) : (s.after dt i).ag.inputs = s.ag.inputs := rfl
@[simp] theorem State.after_ag_cur (s : State) (dt : Nat) (i : Instr) : (s.after dt i).ag.cur = s.ag.cur := rfl
@[simp] theorem State.after_ag_snap (s : State) (dt : Nat) (i : Instr) : (s.after dt i).ag.snap = s.ag.snap := rfl
@[simp] theorem State.after_ag_free (s : State) (dt : Nat) (i : Instr) : (s.after dt i).ag.free = s.ag.free := rfl
@[simp] theorem State.after_ag_nextId (s : State) (dt : Nat) (i : Instr) : (s.after dt i).ag.nextId = s.ag.nextId := rfl

/-! ### `atNs` -/

@[simp] theorem State.atNs_work (s : State) (t : Nat) (i : Instr) : (s.atNs t i).work = s.work := rfl
@[simp] theorem State.atNs_cores (s : State) (t : Nat) (i : Instr) : (s.atNs t i).cores = s.cores := rfl
@[simp] theorem State.atNs_mems (s : State) (t : Nat) (i : Instr) : (s.atNs t i).mems = s.mems := rfl
@[simp] theorem State.atNs_tr (s : State) (t : Nat) (i : Instr) : (s.atNs t i).tr = s.tr := rfl
@[simp] theorem State.atNs_cp (s : State) (t : Nat) (i : Instr) : (s.atNs t i).cp = s.cp := rfl
@[simp] theorem State.atNs_fe (s : State) (t : Nat) (i : Instr) : (s.atNs t i).fe = s.fe := rfl
@[simp] theorem State.atNs_trust (s : State) (t : Nat) (i : Instr) : (s.atNs t i).trust = s.trust := rfl
@[simp] theorem State.atNs_ctl (s : State) (t : Nat) (i : Instr) : (s.atNs t i).ctl = s.ctl := rfl
@[simp] theorem State.atNs_fab (s : State) (t : Nat) (i : Instr) : (s.atNs t i).fab = s.fab := rfl
@[simp] theorem State.atNs_rel (s : State) (t : Nat) (i : Instr) : (s.atNs t i).rel = s.rel := rfl
@[simp] theorem State.atNs_tele (s : State) (t : Nat) (i : Instr) : (s.atNs t i).tele = s.tele := rfl
@[simp] theorem State.atNs_ag_cycle (s : State) (t : Nat) (i : Instr) : (s.atNs t i).ag.cycle = s.ag.cycle := rfl
@[simp] theorem State.atNs_ag_clock (s : State) (t : Nat) (i : Instr) : (s.atNs t i).ag.clock = s.ag.clock := rfl
@[simp] theorem State.atNs_ag_frac (s : State) (t : Nat) (i : Instr) : (s.atNs t i).ag.frac = s.ag.frac := rfl
@[simp] theorem State.atNs_ag_todo (s : State) (t : Nat) (i : Instr) : (s.atNs t i).ag.todo = s.ag.todo := rfl
@[simp] theorem State.atNs_ag_atCycle (s : State) (t : Nat) (i : Instr) : (s.atNs t i).ag.atCycle = s.ag.atCycle := rfl
@[simp] theorem State.atNs_ag_inputs (s : State) (t : Nat) (i : Instr) : (s.atNs t i).ag.inputs = s.ag.inputs := rfl
@[simp] theorem State.atNs_ag_cur (s : State) (t : Nat) (i : Instr) : (s.atNs t i).ag.cur = s.ag.cur := rfl
@[simp] theorem State.atNs_ag_snap (s : State) (t : Nat) (i : Instr) : (s.atNs t i).ag.snap = s.ag.snap := rfl
@[simp] theorem State.atNs_ag_free (s : State) (t : Nat) (i : Instr) : (s.atNs t i).ag.free = s.ag.free := rfl
@[simp] theorem State.atNs_ag_nextId (s : State) (t : Nat) (i : Instr) : (s.atNs t i).ag.nextId = s.ag.nextId := rfl

/-! ### `next` -/

@[simp] theorem State.next_work (s : State) (i : Instr) : (s.next i).work = s.work := rfl
@[simp] theorem State.next_cores (s : State) (i : Instr) : (s.next i).cores = s.cores := rfl
@[simp] theorem State.next_mems (s : State) (i : Instr) : (s.next i).mems = s.mems := rfl
@[simp] theorem State.next_tr (s : State) (i : Instr) : (s.next i).tr = s.tr := rfl
@[simp] theorem State.next_cp (s : State) (i : Instr) : (s.next i).cp = s.cp := rfl
@[simp] theorem State.next_fe (s : State) (i : Instr) : (s.next i).fe = s.fe := rfl
@[simp] theorem State.next_trust (s : State) (i : Instr) : (s.next i).trust = s.trust := rfl
@[simp] theorem State.next_ctl (s : State) (i : Instr) : (s.next i).ctl = s.ctl := rfl
@[simp] theorem State.next_fab (s : State) (i : Instr) : (s.next i).fab = s.fab := rfl
@[simp] theorem State.next_rel (s : State) (i : Instr) : (s.next i).rel = s.rel := rfl
@[simp] theorem State.next_tele (s : State) (i : Instr) : (s.next i).tele = s.tele := rfl
@[simp] theorem State.next_ag_cycle (s : State) (i : Instr) : (s.next i).ag.cycle = s.ag.cycle := rfl
@[simp] theorem State.next_ag_clock (s : State) (i : Instr) : (s.next i).ag.clock = s.ag.clock := rfl
@[simp] theorem State.next_ag_frac (s : State) (i : Instr) : (s.next i).ag.frac = s.ag.frac := rfl
@[simp] theorem State.next_ag_atCycle (s : State) (i : Instr) : (s.next i).ag.atCycle = s.ag.atCycle := rfl
@[simp] theorem State.next_ag_atClock (s : State) (i : Instr) : (s.next i).ag.atClock = s.ag.atClock := rfl
@[simp] theorem State.next_ag_inputs (s : State) (i : Instr) : (s.next i).ag.inputs = s.ag.inputs := rfl
@[simp] theorem State.next_ag_cur (s : State) (i : Instr) : (s.next i).ag.cur = s.ag.cur := rfl
@[simp] theorem State.next_ag_snap (s : State) (i : Instr) : (s.next i).ag.snap = s.ag.snap := rfl
@[simp] theorem State.next_ag_free (s : State) (i : Instr) : (s.next i).ag.free = s.ag.free := rfl
@[simp] theorem State.next_ag_nextId (s : State) (i : Instr) : (s.next i).ag.nextId = s.ag.nextId := rfl

/-! ### `soon` -/

@[simp] theorem State.soon_work (s : State) (i : Instr) : (s.soon i).work = s.work := rfl
@[simp] theorem State.soon_cores (s : State) (i : Instr) : (s.soon i).cores = s.cores := rfl
@[simp] theorem State.soon_mems (s : State) (i : Instr) : (s.soon i).mems = s.mems := rfl
@[simp] theorem State.soon_tr (s : State) (i : Instr) : (s.soon i).tr = s.tr := rfl
@[simp] theorem State.soon_cp (s : State) (i : Instr) : (s.soon i).cp = s.cp := rfl
@[simp] theorem State.soon_fe (s : State) (i : Instr) : (s.soon i).fe = s.fe := rfl
@[simp] theorem State.soon_trust (s : State) (i : Instr) : (s.soon i).trust = s.trust := rfl
@[simp] theorem State.soon_ctl (s : State) (i : Instr) : (s.soon i).ctl = s.ctl := rfl
@[simp] theorem State.soon_fab (s : State) (i : Instr) : (s.soon i).fab = s.fab := rfl
@[simp] theorem State.soon_rel (s : State) (i : Instr) : (s.soon i).rel = s.rel := rfl
@[simp] theorem State.soon_tele (s : State) (i : Instr) : (s.soon i).tele = s.tele := rfl
@[simp] theorem State.soon_ag_cycle (s : State) (i : Instr) : (s.soon i).ag.cycle = s.ag.cycle := rfl
@[simp] theorem State.soon_ag_clock (s : State) (i : Instr) : (s.soon i).ag.clock = s.ag.clock := rfl
@[simp] theorem State.soon_ag_frac (s : State) (i : Instr) : (s.soon i).ag.frac = s.ag.frac := rfl
@[simp] theorem State.soon_ag_todo (s : State) (i : Instr) : (s.soon i).ag.todo = s.ag.todo := rfl
@[simp] theorem State.soon_ag_atClock (s : State) (i : Instr) : (s.soon i).ag.atClock = s.ag.atClock := rfl
@[simp] theorem State.soon_ag_inputs (s : State) (i : Instr) : (s.soon i).ag.inputs = s.ag.inputs := rfl
@[simp] theorem State.soon_ag_cur (s : State) (i : Instr) : (s.soon i).ag.cur = s.ag.cur := rfl
@[simp] theorem State.soon_ag_snap (s : State) (i : Instr) : (s.soon i).ag.snap = s.ag.snap := rfl
@[simp] theorem State.soon_ag_nextId (s : State) (i : Instr) : (s.soon i).ag.nextId = s.ag.nextId := rfl

/-! ### `count` -/

@[simp] theorem State.count_ag (s : State) (inst sel n : Nat) : (s.count inst sel n).ag = s.ag := rfl
@[simp] theorem State.count_work (s : State) (inst sel n : Nat) : (s.count inst sel n).work = s.work := rfl
@[simp] theorem State.count_cores (s : State) (inst sel n : Nat) : (s.count inst sel n).cores = s.cores := rfl
@[simp] theorem State.count_mems (s : State) (inst sel n : Nat) : (s.count inst sel n).mems = s.mems := rfl
@[simp] theorem State.count_tr (s : State) (inst sel n : Nat) : (s.count inst sel n).tr = s.tr := rfl
@[simp] theorem State.count_cp (s : State) (inst sel n : Nat) : (s.count inst sel n).cp = s.cp := rfl
@[simp] theorem State.count_fe (s : State) (inst sel n : Nat) : (s.count inst sel n).fe = s.fe := rfl
@[simp] theorem State.count_trust (s : State) (inst sel n : Nat) : (s.count inst sel n).trust = s.trust := rfl
@[simp] theorem State.count_ctl (s : State) (inst sel n : Nat) : (s.count inst sel n).ctl = s.ctl := rfl
@[simp] theorem State.count_fab (s : State) (inst sel n : Nat) : (s.count inst sel n).fab = s.fab := rfl
@[simp] theorem State.count_rel (s : State) (inst sel n : Nat) : (s.count inst sel n).rel = s.rel := rfl
@[simp] theorem State.count_tele_swept (s : State) (inst sel n : Nat) : (s.count inst sel n).tele.swept = s.tele.swept := rfl
@[simp] theorem State.count_tele_ctrBase (s : State) (inst sel n : Nat) : (s.count inst sel n).tele.ctrBase = s.tele.ctrBase := rfl
@[simp] theorem State.count_tele_pennCtl (s : State) (inst sel n : Nat) : (s.count inst sel n).tele.pennCtl = s.tele.pennCtl := rfl
@[simp] theorem State.count_tele_penns (s : State) (inst sel n : Nat) : (s.count inst sel n).tele.penns = s.tele.penns := rfl
@[simp] theorem State.count_tele_trBase (s : State) (inst sel n : Nat) : (s.count inst sel n).tele.trBase = s.tele.trBase := rfl
@[simp] theorem State.count_tele_trRd (s : State) (inst sel n : Nat) : (s.count inst sel n).tele.trRd = s.tele.trRd := rfl
@[simp] theorem State.count_tele_trWr (s : State) (inst sel n : Nat) : (s.count inst sel n).tele.trWr = s.tele.trWr := rfl
@[simp] theorem State.count_tele_cdBuf (s : State) (inst sel n : Nat) : (s.count inst sel n).tele.cdBuf = s.tele.cdBuf := rfl
@[simp] theorem State.count_tele_lost (s : State) (inst sel n : Nat) : (s.count inst sel n).tele.lost = s.tele.lost := rfl

/-! ### `closeRegion` -/

@[simp] theorem State.closeRegion_ag (s : State) (who : Accessor) : (s.closeRegion who).ag = s.ag := rfl
@[simp] theorem State.closeRegion_work (s : State) (who : Accessor) : (s.closeRegion who).work = s.work := rfl
@[simp] theorem State.closeRegion_cores (s : State) (who : Accessor) : (s.closeRegion who).cores = s.cores := rfl
@[simp] theorem State.closeRegion_tr (s : State) (who : Accessor) : (s.closeRegion who).tr = s.tr := rfl
@[simp] theorem State.closeRegion_cp (s : State) (who : Accessor) : (s.closeRegion who).cp = s.cp := rfl
@[simp] theorem State.closeRegion_fe (s : State) (who : Accessor) : (s.closeRegion who).fe = s.fe := rfl
@[simp] theorem State.closeRegion_trust (s : State) (who : Accessor) : (s.closeRegion who).trust = s.trust := rfl
@[simp] theorem State.closeRegion_ctl (s : State) (who : Accessor) : (s.closeRegion who).ctl = s.ctl := rfl
@[simp] theorem State.closeRegion_fab (s : State) (who : Accessor) : (s.closeRegion who).fab = s.fab := rfl
@[simp] theorem State.closeRegion_rel (s : State) (who : Accessor) : (s.closeRegion who).rel = s.rel := rfl
@[simp] theorem State.closeRegion_tele (s : State) (who : Accessor) : (s.closeRegion who).tele = s.tele := rfl
@[simp] theorem State.closeRegion_mems_dram (s : State) (who : Accessor) : (s.closeRegion who).mems.dram = s.mems.dram := rfl
@[simp] theorem State.closeRegion_mems_dws (s : State) (who : Accessor) : (s.closeRegion who).mems.dws = s.mems.dws := rfl
@[simp] theorem State.closeRegion_mems_host (s : State) (who : Accessor) : (s.closeRegion who).mems.host = s.mems.host := rfl
@[simp] theorem State.closeRegion_mems_peer (s : State) (who : Accessor) : (s.closeRegion who).mems.peer = s.mems.peer := rfl
@[simp] theorem State.closeRegion_mems_sramA (s : State) (who : Accessor) : (s.closeRegion who).mems.sramA = s.mems.sramA := rfl
@[simp] theorem State.closeRegion_mems_sramB (s : State) (who : Accessor) : (s.closeRegion who).mems.sramB = s.mems.sramB := rfl
@[simp] theorem State.closeRegion_mems_poisonD (s : State) (who : Accessor) : (s.closeRegion who).mems.poisonD = s.mems.poisonD := rfl
@[simp] theorem State.closeRegion_mems_poisonW (s : State) (who : Accessor) : (s.closeRegion who).mems.poisonW = s.mems.poisonW := rfl
@[simp] theorem State.closeRegion_mems_layers (s : State) (who : Accessor) : (s.closeRegion who).mems.layers = s.mems.layers := rfl
@[simp] theorem State.closeRegion_mems_deadStk (s : State) (who : Accessor) : (s.closeRegion who).mems.deadStk = s.mems.deadStk := rfl
@[simp] theorem State.closeRegion_mems_rowMap (s : State) (who : Accessor) : (s.closeRegion who).mems.rowMap = s.mems.rowMap := rfl
@[simp] theorem State.closeRegion_mems_badFrm (s : State) (who : Accessor) : (s.closeRegion who).mems.badFrm = s.mems.badFrm := rfl

/-! ### `Group.modLanes` -/

@[simp] theorem Group.modLanes_blk (x : Group) (m : LaneMask) (f : Nat → Lane → Lane) : (x.modLanes m f).blk = x.blk := rfl
@[simp] theorem Group.modLanes_gid (x : Group) (m : LaneMask) (f : Nat → Lane → Lane) : (x.modLanes m f).gid = x.gid := rfl
@[simp] theorem Group.modLanes_part (x : Group) (m : LaneMask) (f : Nat → Lane → Lane) : (x.modLanes m f).part = x.part := rfl
@[simp] theorem Group.modLanes_slot (x : Group) (m : LaneMask) (f : Nat → Lane → Lane) : (x.modLanes m f).slot = x.slot := rfl
@[simp] theorem Group.modLanes_system (x : Group) (m : LaneMask) (f : Nat → Lane → Lane) : (x.modLanes m f).system = x.system := rfl
@[simp] theorem Group.modLanes_started (x : Group) (m : LaneMask) (f : Nat → Lane → Lane) : (x.modLanes m f).started = x.started := rfl
@[simp] theorem Group.modLanes_retired (x : Group) (m : LaneMask) (f : Nat → Lane → Lane) : (x.modLanes m f).retired = x.retired := rfl
@[simp] theorem Group.modLanes_nregs (x : Group) (m : LaneMask) (f : Nat → Lane → Lane) : (x.modLanes m f).nregs = x.nregs := rfl
@[simp] theorem Group.modLanes_ntiles (x : Group) (m : LaneMask) (f : Nat → Lane → Lane) : (x.modLanes m f).ntiles = x.ntiles := rfl
@[simp] theorem Group.modLanes_spillSz (x : Group) (m : LaneMask) (f : Nat → Lane → Lane) : (x.modLanes m f).spillSz = x.spillSz := rfl
@[simp] theorem Group.modLanes_spillAt (x : Group) (m : LaneMask) (f : Nat → Lane → Lane) : (x.modLanes m f).spillAt = x.spillAt := rfl
@[simp] theorem Group.modLanes_regBase (x : Group) (m : LaneMask) (f : Nat → Lane → Lane) : (x.modLanes m f).regBase = x.regBase := rfl
@[simp] theorem Group.modLanes_v (x : Group) (m : LaneMask) (f : Nat → Lane → Lane) : (x.modLanes m f).v = x.v := rfl
@[simp] theorem Group.modLanes_s (x : Group) (m : LaneMask) (f : Nat → Lane → Lane) : (x.modLanes m f).s = x.s := rfl
@[simp] theorem Group.modLanes_p (x : Group) (m : LaneMask) (f : Nat → Lane → Lane) : (x.modLanes m f).p = x.p := rfl
@[simp] theorem Group.modLanes_j (x : Group) (m : LaneMask) (f : Nat → Lane → Lane) : (x.modLanes m f).j = x.j := rfl
@[simp] theorem Group.modLanes_b (x : Group) (m : LaneMask) (f : Nat → Lane → Lane) : (x.modLanes m f).b = x.b := rfl
@[simp] theorem Group.modLanes_tile (x : Group) (m : LaneMask) (f : Nat → Lane → Lane) : (x.modLanes m f).tile = x.tile := rfl
@[simp] theorem Group.modLanes_tileFmt (x : Group) (m : LaneMask) (f : Nat → Lane → Lane) : (x.modLanes m f).tileFmt = x.tileFmt := rfl
@[simp] theorem Group.modLanes_pending (x : Group) (m : LaneMask) (f : Nat → Lane → Lane) : (x.modLanes m f).pending = x.pending := rfl
@[simp] theorem Group.modLanes_score (x : Group) (m : LaneMask) (f : Nat → Lane → Lane) : (x.modLanes m f).score = x.score := rfl
@[simp] theorem Group.modLanes_waits (x : Group) (m : LaneMask) (f : Nat → Lane → Lane) : (x.modLanes m f).waits = x.waits := rfl
@[simp] theorem Group.modLanes_ages (x : Group) (m : LaneMask) (f : Nat → Lane → Lane) : (x.modLanes m f).ages = x.ages := rfl
@[simp] theorem Group.modLanes_forcedB (x : Group) (m : LaneMask) (f : Nat → Lane → Lane) : (x.modLanes m f).forcedB = x.forcedB := rfl
@[simp] theorem Group.modLanes_lines (x : Group) (m : LaneMask) (f : Nat → Lane → Lane) : (x.modLanes m f).lines = x.lines := rfl
@[simp] theorem Group.modLanes_pausedTo (x : Group) (m : LaneMask) (f : Nat → Lane → Lane) : (x.modLanes m f).pausedTo = x.pausedTo := rfl
@[simp] theorem Group.modLanes_buf (x : Group) (m : LaneMask) (f : Nat → Lane → Lane) : (x.modLanes m f).buf = x.buf := rfl
@[simp] theorem Group.modLanes_spill (x : Group) (m : LaneMask) (f : Nat → Lane → Lane) : (x.modLanes m f).spill = x.spill := rfl
@[simp] theorem Group.modLanes_poisonV (x : Group) (m : LaneMask) (f : Nat → Lane → Lane) : (x.modLanes m f).poisonV = x.poisonV := rfl
@[simp] theorem Group.modLanes_poisonR (x : Group) (m : LaneMask) (f : Nat → Lane → Lane) : (x.modLanes m f).poisonR = x.poisonR := rfl
@[simp] theorem Group.modLanes_poisonT (x : Group) (m : LaneMask) (f : Nat → Lane → Lane) : (x.modLanes m f).poisonT = x.poisonT := rfl
@[simp] theorem Group.modLanes_poisonS (x : Group) (m : LaneMask) (f : Nat → Lane → Lane) : (x.modLanes m f).poisonS = x.poisonS := rfl
@[simp] theorem Group.modLanes_windows (x : Group) (m : LaneMask) (f : Nat → Lane → Lane) : (x.modLanes m f).windows = x.windows := rfl

/-! ### `Group.modLane` -/

@[simp] theorem Group.modLane_blk (x : Group) (l : Nat) (f : Lane → Lane) : (x.modLane l f).blk = x.blk := rfl
@[simp] theorem Group.modLane_gid (x : Group) (l : Nat) (f : Lane → Lane) : (x.modLane l f).gid = x.gid := rfl
@[simp] theorem Group.modLane_part (x : Group) (l : Nat) (f : Lane → Lane) : (x.modLane l f).part = x.part := rfl
@[simp] theorem Group.modLane_slot (x : Group) (l : Nat) (f : Lane → Lane) : (x.modLane l f).slot = x.slot := rfl
@[simp] theorem Group.modLane_system (x : Group) (l : Nat) (f : Lane → Lane) : (x.modLane l f).system = x.system := rfl
@[simp] theorem Group.modLane_started (x : Group) (l : Nat) (f : Lane → Lane) : (x.modLane l f).started = x.started := rfl
@[simp] theorem Group.modLane_retired (x : Group) (l : Nat) (f : Lane → Lane) : (x.modLane l f).retired = x.retired := rfl
@[simp] theorem Group.modLane_nregs (x : Group) (l : Nat) (f : Lane → Lane) : (x.modLane l f).nregs = x.nregs := rfl
@[simp] theorem Group.modLane_ntiles (x : Group) (l : Nat) (f : Lane → Lane) : (x.modLane l f).ntiles = x.ntiles := rfl
@[simp] theorem Group.modLane_spillSz (x : Group) (l : Nat) (f : Lane → Lane) : (x.modLane l f).spillSz = x.spillSz := rfl
@[simp] theorem Group.modLane_spillAt (x : Group) (l : Nat) (f : Lane → Lane) : (x.modLane l f).spillAt = x.spillAt := rfl
@[simp] theorem Group.modLane_regBase (x : Group) (l : Nat) (f : Lane → Lane) : (x.modLane l f).regBase = x.regBase := rfl
@[simp] theorem Group.modLane_v (x : Group) (l : Nat) (f : Lane → Lane) : (x.modLane l f).v = x.v := rfl
@[simp] theorem Group.modLane_s (x : Group) (l : Nat) (f : Lane → Lane) : (x.modLane l f).s = x.s := rfl
@[simp] theorem Group.modLane_p (x : Group) (l : Nat) (f : Lane → Lane) : (x.modLane l f).p = x.p := rfl
@[simp] theorem Group.modLane_j (x : Group) (l : Nat) (f : Lane → Lane) : (x.modLane l f).j = x.j := rfl
@[simp] theorem Group.modLane_b (x : Group) (l : Nat) (f : Lane → Lane) : (x.modLane l f).b = x.b := rfl
@[simp] theorem Group.modLane_tile (x : Group) (l : Nat) (f : Lane → Lane) : (x.modLane l f).tile = x.tile := rfl
@[simp] theorem Group.modLane_tileFmt (x : Group) (l : Nat) (f : Lane → Lane) : (x.modLane l f).tileFmt = x.tileFmt := rfl
@[simp] theorem Group.modLane_pending (x : Group) (l : Nat) (f : Lane → Lane) : (x.modLane l f).pending = x.pending := rfl
@[simp] theorem Group.modLane_score (x : Group) (l : Nat) (f : Lane → Lane) : (x.modLane l f).score = x.score := rfl
@[simp] theorem Group.modLane_waits (x : Group) (l : Nat) (f : Lane → Lane) : (x.modLane l f).waits = x.waits := rfl
@[simp] theorem Group.modLane_ages (x : Group) (l : Nat) (f : Lane → Lane) : (x.modLane l f).ages = x.ages := rfl
@[simp] theorem Group.modLane_forcedB (x : Group) (l : Nat) (f : Lane → Lane) : (x.modLane l f).forcedB = x.forcedB := rfl
@[simp] theorem Group.modLane_lines (x : Group) (l : Nat) (f : Lane → Lane) : (x.modLane l f).lines = x.lines := rfl
@[simp] theorem Group.modLane_pausedTo (x : Group) (l : Nat) (f : Lane → Lane) : (x.modLane l f).pausedTo = x.pausedTo := rfl
@[simp] theorem Group.modLane_buf (x : Group) (l : Nat) (f : Lane → Lane) : (x.modLane l f).buf = x.buf := rfl
@[simp] theorem Group.modLane_spill (x : Group) (l : Nat) (f : Lane → Lane) : (x.modLane l f).spill = x.spill := rfl
@[simp] theorem Group.modLane_poisonV (x : Group) (l : Nat) (f : Lane → Lane) : (x.modLane l f).poisonV = x.poisonV := rfl
@[simp] theorem Group.modLane_poisonR (x : Group) (l : Nat) (f : Lane → Lane) : (x.modLane l f).poisonR = x.poisonR := rfl
@[simp] theorem Group.modLane_poisonT (x : Group) (l : Nat) (f : Lane → Lane) : (x.modLane l f).poisonT = x.poisonT := rfl
@[simp] theorem Group.modLane_poisonS (x : Group) (l : Nat) (f : Lane → Lane) : (x.modLane l f).poisonS = x.poisonS := rfl
@[simp] theorem Group.modLane_windows (x : Group) (l : Nat) (f : Lane → Lane) : (x.modLane l f).windows = x.windows := rfl

/-! ### `Group.putV` -/

@[simp] theorem Group.putV_blk (x : Group) (r : Nat) (m : LaneMask) (f : Nat → Word) : (x.putV r m f).blk = x.blk := rfl
@[simp] theorem Group.putV_gid (x : Group) (r : Nat) (m : LaneMask) (f : Nat → Word) : (x.putV r m f).gid = x.gid := rfl
@[simp] theorem Group.putV_part (x : Group) (r : Nat) (m : LaneMask) (f : Nat → Word) : (x.putV r m f).part = x.part := rfl
@[simp] theorem Group.putV_slot (x : Group) (r : Nat) (m : LaneMask) (f : Nat → Word) : (x.putV r m f).slot = x.slot := rfl
@[simp] theorem Group.putV_system (x : Group) (r : Nat) (m : LaneMask) (f : Nat → Word) : (x.putV r m f).system = x.system := rfl
@[simp] theorem Group.putV_started (x : Group) (r : Nat) (m : LaneMask) (f : Nat → Word) : (x.putV r m f).started = x.started := rfl
@[simp] theorem Group.putV_retired (x : Group) (r : Nat) (m : LaneMask) (f : Nat → Word) : (x.putV r m f).retired = x.retired := rfl
@[simp] theorem Group.putV_nregs (x : Group) (r : Nat) (m : LaneMask) (f : Nat → Word) : (x.putV r m f).nregs = x.nregs := rfl
@[simp] theorem Group.putV_ntiles (x : Group) (r : Nat) (m : LaneMask) (f : Nat → Word) : (x.putV r m f).ntiles = x.ntiles := rfl
@[simp] theorem Group.putV_spillSz (x : Group) (r : Nat) (m : LaneMask) (f : Nat → Word) : (x.putV r m f).spillSz = x.spillSz := rfl
@[simp] theorem Group.putV_spillAt (x : Group) (r : Nat) (m : LaneMask) (f : Nat → Word) : (x.putV r m f).spillAt = x.spillAt := rfl
@[simp] theorem Group.putV_regBase (x : Group) (r : Nat) (m : LaneMask) (f : Nat → Word) : (x.putV r m f).regBase = x.regBase := rfl
@[simp] theorem Group.putV_s (x : Group) (r : Nat) (m : LaneMask) (f : Nat → Word) : (x.putV r m f).s = x.s := rfl
@[simp] theorem Group.putV_p (x : Group) (r : Nat) (m : LaneMask) (f : Nat → Word) : (x.putV r m f).p = x.p := rfl
@[simp] theorem Group.putV_j (x : Group) (r : Nat) (m : LaneMask) (f : Nat → Word) : (x.putV r m f).j = x.j := rfl
@[simp] theorem Group.putV_b (x : Group) (r : Nat) (m : LaneMask) (f : Nat → Word) : (x.putV r m f).b = x.b := rfl
@[simp] theorem Group.putV_tile (x : Group) (r : Nat) (m : LaneMask) (f : Nat → Word) : (x.putV r m f).tile = x.tile := rfl
@[simp] theorem Group.putV_tileFmt (x : Group) (r : Nat) (m : LaneMask) (f : Nat → Word) : (x.putV r m f).tileFmt = x.tileFmt := rfl
@[simp] theorem Group.putV_pending (x : Group) (r : Nat) (m : LaneMask) (f : Nat → Word) : (x.putV r m f).pending = x.pending := rfl
@[simp] theorem Group.putV_score (x : Group) (r : Nat) (m : LaneMask) (f : Nat → Word) : (x.putV r m f).score = x.score := rfl
@[simp] theorem Group.putV_waits (x : Group) (r : Nat) (m : LaneMask) (f : Nat → Word) : (x.putV r m f).waits = x.waits := rfl
@[simp] theorem Group.putV_ages (x : Group) (r : Nat) (m : LaneMask) (f : Nat → Word) : (x.putV r m f).ages = x.ages := rfl
@[simp] theorem Group.putV_forcedB (x : Group) (r : Nat) (m : LaneMask) (f : Nat → Word) : (x.putV r m f).forcedB = x.forcedB := rfl
@[simp] theorem Group.putV_lines (x : Group) (r : Nat) (m : LaneMask) (f : Nat → Word) : (x.putV r m f).lines = x.lines := rfl
@[simp] theorem Group.putV_pausedTo (x : Group) (r : Nat) (m : LaneMask) (f : Nat → Word) : (x.putV r m f).pausedTo = x.pausedTo := rfl
@[simp] theorem Group.putV_buf (x : Group) (r : Nat) (m : LaneMask) (f : Nat → Word) : (x.putV r m f).buf = x.buf := rfl
@[simp] theorem Group.putV_spill (x : Group) (r : Nat) (m : LaneMask) (f : Nat → Word) : (x.putV r m f).spill = x.spill := rfl
@[simp] theorem Group.putV_poisonV (x : Group) (r : Nat) (m : LaneMask) (f : Nat → Word) : (x.putV r m f).poisonV = x.poisonV := rfl
@[simp] theorem Group.putV_poisonR (x : Group) (r : Nat) (m : LaneMask) (f : Nat → Word) : (x.putV r m f).poisonR = x.poisonR := rfl
@[simp] theorem Group.putV_poisonT (x : Group) (r : Nat) (m : LaneMask) (f : Nat → Word) : (x.putV r m f).poisonT = x.poisonT := rfl
@[simp] theorem Group.putV_poisonS (x : Group) (r : Nat) (m : LaneMask) (f : Nat → Word) : (x.putV r m f).poisonS = x.poisonS := rfl
@[simp] theorem Group.putV_windows (x : Group) (r : Nat) (m : LaneMask) (f : Nat → Word) : (x.putV r m f).windows = x.windows := rfl
@[simp] theorem Group.putV_lanes (x : Group) (r : Nat) (m : LaneMask) (f : Nat → Word) : (x.putV r m f).lanes = x.lanes := rfl

/-! ### `Group.putS` -/

@[simp] theorem Group.putS_blk (x : Group) (r : Nat) (w : Word) : (x.putS r w).blk = x.blk := rfl
@[simp] theorem Group.putS_gid (x : Group) (r : Nat) (w : Word) : (x.putS r w).gid = x.gid := rfl
@[simp] theorem Group.putS_part (x : Group) (r : Nat) (w : Word) : (x.putS r w).part = x.part := rfl
@[simp] theorem Group.putS_slot (x : Group) (r : Nat) (w : Word) : (x.putS r w).slot = x.slot := rfl
@[simp] theorem Group.putS_system (x : Group) (r : Nat) (w : Word) : (x.putS r w).system = x.system := rfl
@[simp] theorem Group.putS_started (x : Group) (r : Nat) (w : Word) : (x.putS r w).started = x.started := rfl
@[simp] theorem Group.putS_retired (x : Group) (r : Nat) (w : Word) : (x.putS r w).retired = x.retired := rfl
@[simp] theorem Group.putS_nregs (x : Group) (r : Nat) (w : Word) : (x.putS r w).nregs = x.nregs := rfl
@[simp] theorem Group.putS_ntiles (x : Group) (r : Nat) (w : Word) : (x.putS r w).ntiles = x.ntiles := rfl
@[simp] theorem Group.putS_spillSz (x : Group) (r : Nat) (w : Word) : (x.putS r w).spillSz = x.spillSz := rfl
@[simp] theorem Group.putS_spillAt (x : Group) (r : Nat) (w : Word) : (x.putS r w).spillAt = x.spillAt := rfl
@[simp] theorem Group.putS_regBase (x : Group) (r : Nat) (w : Word) : (x.putS r w).regBase = x.regBase := rfl
@[simp] theorem Group.putS_v (x : Group) (r : Nat) (w : Word) : (x.putS r w).v = x.v := rfl
@[simp] theorem Group.putS_p (x : Group) (r : Nat) (w : Word) : (x.putS r w).p = x.p := rfl
@[simp] theorem Group.putS_j (x : Group) (r : Nat) (w : Word) : (x.putS r w).j = x.j := rfl
@[simp] theorem Group.putS_b (x : Group) (r : Nat) (w : Word) : (x.putS r w).b = x.b := rfl
@[simp] theorem Group.putS_tile (x : Group) (r : Nat) (w : Word) : (x.putS r w).tile = x.tile := rfl
@[simp] theorem Group.putS_tileFmt (x : Group) (r : Nat) (w : Word) : (x.putS r w).tileFmt = x.tileFmt := rfl
@[simp] theorem Group.putS_pending (x : Group) (r : Nat) (w : Word) : (x.putS r w).pending = x.pending := rfl
@[simp] theorem Group.putS_score (x : Group) (r : Nat) (w : Word) : (x.putS r w).score = x.score := rfl
@[simp] theorem Group.putS_waits (x : Group) (r : Nat) (w : Word) : (x.putS r w).waits = x.waits := rfl
@[simp] theorem Group.putS_ages (x : Group) (r : Nat) (w : Word) : (x.putS r w).ages = x.ages := rfl
@[simp] theorem Group.putS_forcedB (x : Group) (r : Nat) (w : Word) : (x.putS r w).forcedB = x.forcedB := rfl
@[simp] theorem Group.putS_lines (x : Group) (r : Nat) (w : Word) : (x.putS r w).lines = x.lines := rfl
@[simp] theorem Group.putS_pausedTo (x : Group) (r : Nat) (w : Word) : (x.putS r w).pausedTo = x.pausedTo := rfl
@[simp] theorem Group.putS_buf (x : Group) (r : Nat) (w : Word) : (x.putS r w).buf = x.buf := rfl
@[simp] theorem Group.putS_spill (x : Group) (r : Nat) (w : Word) : (x.putS r w).spill = x.spill := rfl
@[simp] theorem Group.putS_poisonV (x : Group) (r : Nat) (w : Word) : (x.putS r w).poisonV = x.poisonV := rfl
@[simp] theorem Group.putS_poisonR (x : Group) (r : Nat) (w : Word) : (x.putS r w).poisonR = x.poisonR := rfl
@[simp] theorem Group.putS_poisonT (x : Group) (r : Nat) (w : Word) : (x.putS r w).poisonT = x.poisonT := rfl
@[simp] theorem Group.putS_poisonS (x : Group) (r : Nat) (w : Word) : (x.putS r w).poisonS = x.poisonS := rfl
@[simp] theorem Group.putS_windows (x : Group) (r : Nat) (w : Word) : (x.putS r w).windows = x.windows := rfl
@[simp] theorem Group.putS_lanes (x : Group) (r : Nat) (w : Word) : (x.putS r w).lanes = x.lanes := rfl

/-! ### `Group.putB` -/

@[simp] theorem Group.putB_blk (x : Group) (r : Nat) (w : BitVec 256) : (x.putB r w).blk = x.blk := rfl
@[simp] theorem Group.putB_gid (x : Group) (r : Nat) (w : BitVec 256) : (x.putB r w).gid = x.gid := rfl
@[simp] theorem Group.putB_part (x : Group) (r : Nat) (w : BitVec 256) : (x.putB r w).part = x.part := rfl
@[simp] theorem Group.putB_slot (x : Group) (r : Nat) (w : BitVec 256) : (x.putB r w).slot = x.slot := rfl
@[simp] theorem Group.putB_system (x : Group) (r : Nat) (w : BitVec 256) : (x.putB r w).system = x.system := rfl
@[simp] theorem Group.putB_started (x : Group) (r : Nat) (w : BitVec 256) : (x.putB r w).started = x.started := rfl
@[simp] theorem Group.putB_retired (x : Group) (r : Nat) (w : BitVec 256) : (x.putB r w).retired = x.retired := rfl
@[simp] theorem Group.putB_nregs (x : Group) (r : Nat) (w : BitVec 256) : (x.putB r w).nregs = x.nregs := rfl
@[simp] theorem Group.putB_ntiles (x : Group) (r : Nat) (w : BitVec 256) : (x.putB r w).ntiles = x.ntiles := rfl
@[simp] theorem Group.putB_spillSz (x : Group) (r : Nat) (w : BitVec 256) : (x.putB r w).spillSz = x.spillSz := rfl
@[simp] theorem Group.putB_spillAt (x : Group) (r : Nat) (w : BitVec 256) : (x.putB r w).spillAt = x.spillAt := rfl
@[simp] theorem Group.putB_regBase (x : Group) (r : Nat) (w : BitVec 256) : (x.putB r w).regBase = x.regBase := rfl
@[simp] theorem Group.putB_v (x : Group) (r : Nat) (w : BitVec 256) : (x.putB r w).v = x.v := rfl
@[simp] theorem Group.putB_s (x : Group) (r : Nat) (w : BitVec 256) : (x.putB r w).s = x.s := rfl
@[simp] theorem Group.putB_p (x : Group) (r : Nat) (w : BitVec 256) : (x.putB r w).p = x.p := rfl
@[simp] theorem Group.putB_j (x : Group) (r : Nat) (w : BitVec 256) : (x.putB r w).j = x.j := rfl
@[simp] theorem Group.putB_tile (x : Group) (r : Nat) (w : BitVec 256) : (x.putB r w).tile = x.tile := rfl
@[simp] theorem Group.putB_tileFmt (x : Group) (r : Nat) (w : BitVec 256) : (x.putB r w).tileFmt = x.tileFmt := rfl
@[simp] theorem Group.putB_pending (x : Group) (r : Nat) (w : BitVec 256) : (x.putB r w).pending = x.pending := rfl
@[simp] theorem Group.putB_score (x : Group) (r : Nat) (w : BitVec 256) : (x.putB r w).score = x.score := rfl
@[simp] theorem Group.putB_waits (x : Group) (r : Nat) (w : BitVec 256) : (x.putB r w).waits = x.waits := rfl
@[simp] theorem Group.putB_ages (x : Group) (r : Nat) (w : BitVec 256) : (x.putB r w).ages = x.ages := rfl
@[simp] theorem Group.putB_forcedB (x : Group) (r : Nat) (w : BitVec 256) : (x.putB r w).forcedB = x.forcedB := rfl
@[simp] theorem Group.putB_lines (x : Group) (r : Nat) (w : BitVec 256) : (x.putB r w).lines = x.lines := rfl
@[simp] theorem Group.putB_pausedTo (x : Group) (r : Nat) (w : BitVec 256) : (x.putB r w).pausedTo = x.pausedTo := rfl
@[simp] theorem Group.putB_buf (x : Group) (r : Nat) (w : BitVec 256) : (x.putB r w).buf = x.buf := rfl
@[simp] theorem Group.putB_spill (x : Group) (r : Nat) (w : BitVec 256) : (x.putB r w).spill = x.spill := rfl
@[simp] theorem Group.putB_poisonV (x : Group) (r : Nat) (w : BitVec 256) : (x.putB r w).poisonV = x.poisonV := rfl
@[simp] theorem Group.putB_poisonR (x : Group) (r : Nat) (w : BitVec 256) : (x.putB r w).poisonR = x.poisonR := rfl
@[simp] theorem Group.putB_poisonT (x : Group) (r : Nat) (w : BitVec 256) : (x.putB r w).poisonT = x.poisonT := rfl
@[simp] theorem Group.putB_poisonS (x : Group) (r : Nat) (w : BitVec 256) : (x.putB r w).poisonS = x.poisonS := rfl
@[simp] theorem Group.putB_windows (x : Group) (r : Nat) (w : BitVec 256) : (x.putB r w).windows = x.windows := rfl
@[simp] theorem Group.putB_lanes (x : Group) (r : Nat) (w : BitVec 256) : (x.putB r w).lanes = x.lanes := rfl

/-! ### `Group.putJ` -/

@[simp] theorem Group.putJ_blk (x : Group) (r : Nat) (w : LaneMask) : (x.putJ r w).blk = x.blk := rfl
@[simp] theorem Group.putJ_gid (x : Group) (r : Nat) (w : LaneMask) : (x.putJ r w).gid = x.gid := rfl
@[simp] theorem Group.putJ_part (x : Group) (r : Nat) (w : LaneMask) : (x.putJ r w).part = x.part := rfl
@[simp] theorem Group.putJ_slot (x : Group) (r : Nat) (w : LaneMask) : (x.putJ r w).slot = x.slot := rfl
@[simp] theorem Group.putJ_system (x : Group) (r : Nat) (w : LaneMask) : (x.putJ r w).system = x.system := rfl
@[simp] theorem Group.putJ_started (x : Group) (r : Nat) (w : LaneMask) : (x.putJ r w).started = x.started := rfl
@[simp] theorem Group.putJ_retired (x : Group) (r : Nat) (w : LaneMask) : (x.putJ r w).retired = x.retired := rfl
@[simp] theorem Group.putJ_nregs (x : Group) (r : Nat) (w : LaneMask) : (x.putJ r w).nregs = x.nregs := rfl
@[simp] theorem Group.putJ_ntiles (x : Group) (r : Nat) (w : LaneMask) : (x.putJ r w).ntiles = x.ntiles := rfl
@[simp] theorem Group.putJ_spillSz (x : Group) (r : Nat) (w : LaneMask) : (x.putJ r w).spillSz = x.spillSz := rfl
@[simp] theorem Group.putJ_spillAt (x : Group) (r : Nat) (w : LaneMask) : (x.putJ r w).spillAt = x.spillAt := rfl
@[simp] theorem Group.putJ_regBase (x : Group) (r : Nat) (w : LaneMask) : (x.putJ r w).regBase = x.regBase := rfl
@[simp] theorem Group.putJ_v (x : Group) (r : Nat) (w : LaneMask) : (x.putJ r w).v = x.v := rfl
@[simp] theorem Group.putJ_s (x : Group) (r : Nat) (w : LaneMask) : (x.putJ r w).s = x.s := rfl
@[simp] theorem Group.putJ_p (x : Group) (r : Nat) (w : LaneMask) : (x.putJ r w).p = x.p := rfl
@[simp] theorem Group.putJ_b (x : Group) (r : Nat) (w : LaneMask) : (x.putJ r w).b = x.b := rfl
@[simp] theorem Group.putJ_tile (x : Group) (r : Nat) (w : LaneMask) : (x.putJ r w).tile = x.tile := rfl
@[simp] theorem Group.putJ_tileFmt (x : Group) (r : Nat) (w : LaneMask) : (x.putJ r w).tileFmt = x.tileFmt := rfl
@[simp] theorem Group.putJ_pending (x : Group) (r : Nat) (w : LaneMask) : (x.putJ r w).pending = x.pending := rfl
@[simp] theorem Group.putJ_score (x : Group) (r : Nat) (w : LaneMask) : (x.putJ r w).score = x.score := rfl
@[simp] theorem Group.putJ_waits (x : Group) (r : Nat) (w : LaneMask) : (x.putJ r w).waits = x.waits := rfl
@[simp] theorem Group.putJ_ages (x : Group) (r : Nat) (w : LaneMask) : (x.putJ r w).ages = x.ages := rfl
@[simp] theorem Group.putJ_forcedB (x : Group) (r : Nat) (w : LaneMask) : (x.putJ r w).forcedB = x.forcedB := rfl
@[simp] theorem Group.putJ_lines (x : Group) (r : Nat) (w : LaneMask) : (x.putJ r w).lines = x.lines := rfl
@[simp] theorem Group.putJ_pausedTo (x : Group) (r : Nat) (w : LaneMask) : (x.putJ r w).pausedTo = x.pausedTo := rfl
@[simp] theorem Group.putJ_buf (x : Group) (r : Nat) (w : LaneMask) : (x.putJ r w).buf = x.buf := rfl
@[simp] theorem Group.putJ_spill (x : Group) (r : Nat) (w : LaneMask) : (x.putJ r w).spill = x.spill := rfl
@[simp] theorem Group.putJ_poisonV (x : Group) (r : Nat) (w : LaneMask) : (x.putJ r w).poisonV = x.poisonV := rfl
@[simp] theorem Group.putJ_poisonR (x : Group) (r : Nat) (w : LaneMask) : (x.putJ r w).poisonR = x.poisonR := rfl
@[simp] theorem Group.putJ_poisonT (x : Group) (r : Nat) (w : LaneMask) : (x.putJ r w).poisonT = x.poisonT := rfl
@[simp] theorem Group.putJ_poisonS (x : Group) (r : Nat) (w : LaneMask) : (x.putJ r w).poisonS = x.poisonS := rfl
@[simp] theorem Group.putJ_windows (x : Group) (r : Nat) (w : LaneMask) : (x.putJ r w).windows = x.windows := rfl
@[simp] theorem Group.putJ_lanes (x : Group) (r : Nat) (w : LaneMask) : (x.putJ r w).lanes = x.lanes := rfl

/-! ### Free choices and what follows an event -/

@[simp] theorem State.bump_free (s : State) : s.bump.ag.free = s.ag.free + 1 := rfl
@[simp] theorem State.soon_free (s : State) (i : Instr) : (s.soon i).ag.free = s.ag.free + 1 := rfl
@[simp] theorem State.after_atCycle (s : State) (dt : Nat) (i : Instr) :
    (s.after dt i).ag.atCycle = s.ag.atCycle ++ [(s.ag.cycle + dt, i)] := rfl
@[simp] theorem State.atNs_atClock (s : State) (t : Nat) (i : Instr) :
    (s.atNs t i).ag.atClock = s.ag.atClock ++ [(t, i)] := rfl
@[simp] theorem State.next_todo (s : State) (i : Instr) : (s.next i).ag.todo = s.ag.todo ++ [.run i] := rfl

/-! ### Tables of work -/

@[simp] theorem State.modGroup_groups (s : State) (g : Nat) (f : Group → Group) :
    (s.modGroup g f).work.groups = Map.adjust s.work.groups g f := rfl

@[simp] theorem State.isSome_group_modGroup (s : State) (g : Nat) (f : Group → Group) (k : Nat) :
    (Map.find? (s.modGroup g f).work.groups k).isSome = (Map.find? s.work.groups k).isSome := by
  simp

/-- A change of a group changes no other. -/
theorem State.group_modGroup_ne (s : State) {g k : Nat} (f : Group → Group) (h : g ≠ k) :
    (s.modGroup g f).group k = s.group k := Map.get_adjust_ne _ _ f h

/-- A change of a listed group is seen when it is looked up. -/
theorem State.group_modGroup_self (s : State) (g : Nat) (f : Group → Group) (h : (Map.find? s.work.groups g).isSome) :
    (s.modGroup g f).group g = f (s.group g) := Map.get_adjust_self _ _ _ f h

theorem State.group_setGroup_self (s : State) (g : Nat) (x : Group) : (s.setGroup g x).group g = x :=
  Map.get_insert_self _ _ _ _

theorem State.group_setGroup_ne (s : State) {g k : Nat} (x : Group) (h : g ≠ k) : (s.setGroup g x).group k = s.group k :=
  Map.get_insert_ne _ _ x h

theorem State.block_modBlock_self (s : State) (b : Nat) (f : Block → Block) (h : (Map.find? s.work.blocks b).isSome) :
    (s.modBlock b f).block b = f (s.block b) := Map.get_adjust_self _ _ _ f h

theorem State.block_modBlock_ne (s : State) {b k : Nat} (f : Block → Block) (h : b ≠ k) :
    (s.modBlock b f).block k = s.block k := Map.get_adjust_ne _ _ f h

theorem State.launch_modLaunch_self (s : State) (l : Nat) (f : Launch → Launch) (h : (Map.find? s.work.launches l).isSome) :
    (s.modLaunch l f).launch l = f (s.launch l) := Map.get_adjust_self _ _ _ f h

theorem State.launch_modLaunch_ne (s : State) {l k : Nat} (f : Launch → Launch) (h : l ≠ k) :
    (s.modLaunch l f).launch k = s.launch k := Map.get_adjust_ne _ _ f h

theorem State.cluster_modCluster_self (s : State) (c : Nat) (f : Cluster → Cluster) (h : (Map.find? s.work.clusters c).isSome) :
    (s.modCluster c f).cluster c = f (s.cluster c) := Map.get_adjust_self _ _ _ f h

theorem State.queue_modQueue_self (s : State) (q : Nat) (f : Queue → Queue) : (s.modQueue q f).queue q = f (s.queue q) :=
  Map.get_insert_self _ _ _ _

theorem State.queue_modQueue_ne (s : State) {q k : Nat} (f : Queue → Queue) (h : q ≠ k) :
    (s.modQueue q f).queue k = s.queue k := Map.get_insert_ne _ _ _ h

theorem State.xlat_modXlat_self (s : State) (p : Nat) (f : Xlat → Xlat) (h : (Map.find? s.tr.polder p).isSome) :
    (s.modXlat p f).xlat p = f (s.xlat p) := Map.get_adjust_self _ _ _ f h

theorem State.xlat_modXlat_ne (s : State) {p k : Nat} (f : Xlat → Xlat) (h : p ≠ k) : (s.modXlat p f).xlat k = s.xlat k :=
  Map.get_adjust_ne _ _ f h

theorem State.polder?_modPolder (s : State) (p : Nat) (f : Polder → Polder) (k : Nat) :
    (s.modPolder p f).polder? k = if p = k then (s.polder? k).map f else s.polder? k := Map.find?_adjust _ _ f k

theorem State.part_setPart_self (s : State) (p : Nat) (x : Partition) : (s.setPart p x).part p = x :=
  Map.get_insert_self _ _ _ _

theorem State.core_modCore_self (s : State) (c : Nat) (f : Core → Core) : (s.modCore c f).core c = f (s.core c) :=
  Map.get_insert_self _ _ _ _

/-! ### Lanes -/

@[simp] theorem Group.length_modLanes (x : Group) (m : LaneMask) (f : Nat → Lane → Lane) :
    (x.modLanes m f).lanes.length = x.lanes.length := by simp [Group.modLanes]

/-- A lane after a change of the lanes of a mask. -/
theorem Group.lane_modLanes (x : Group) (m : LaneMask) (f : Nat → Lane → Lane) (l : Nat) (h : l < x.lanes.length) :
    (x.modLanes m f).lane l = if m.getLsbD l then f l (x.lane l) else x.lane l := by
  simp [Group.lane, Group.modLanes, h]

@[simp] theorem Group.length_modLane (x : Group) (l : Nat) (f : Lane → Lane) :
    (x.modLane l f).lanes.length = x.lanes.length := by simp [Group.modLane]

theorem Group.lane_modLane (x : Group) (k : Nat) (f : Lane → Lane) (l : Nat) (h : l < x.lanes.length) :
    (x.modLane k f).lane l = if k = l then f (x.lane l) else x.lane l := by
  unfold Group.lane Group.modLane
  simp only [List.getD_eq_getElem?_getD, List.getElem?_set]
  split
  · subst_vars; simp [Group.lane, h]
  · rfl

/-! ### Masks -/

theorem mem_lanesOf (m : LaneMask) (l : Nat) : l ∈ lanesOf m ↔ m.getLsbD l = true := by
  simp only [lanesOf, List.mem_filter, List.mem_range, and_iff_right_iff_imp]
  exact fun h => BitVec.lt_of_getLsbD h

/-- A mask formed from a test holds the lanes that satisfy it. -/
theorem getLsbD_maskOf (f : Nat → Bool) (l : Nat) (h : l < 32) : (maskOf f).getLsbD l = f l := by
  have key : ∀ n l, l < n →
      ((List.range n).foldl (fun n l => if f l then n + 2 ^ l else n) 0).testBit l = f l ∧
      (List.range n).foldl (fun n l => if f l then n + 2 ^ l else n) 0 < 2 ^ n := by
    intro n
    induction n with
    | zero => intro l hl; omega
    | succ n ih =>
      intro l hl
      simp only [List.range_succ, List.foldl_append, List.foldl_cons, List.foldl_nil]
      generalize hq : (List.range n).foldl (fun n l => if f l then n + 2 ^ l else n) 0 = q at ih ⊢
      have hlt : q < 2 ^ n := by
        cases n with
        | zero => simp at hq; subst hq; simp
        | succ n => exact (ih 0 (by omega)).2
      constructor
      · by_cases hln : l = n
        · subst hln
          cases hf : f l
          · simpa [hf] using Nat.testBit_lt_two_pow hlt
          · simp only [if_true]
            rw [Nat.add_comm, Nat.testBit_two_pow_add_eq, Nat.testBit_lt_two_pow hlt]; rfl
        · have hl' : l < n := by omega
          cases hf : f n
          · simpa [hf] using (ih l hl').1
          · simp only [if_true]
            rw [Nat.add_comm, Nat.testBit_two_pow_add_gt (by omega)]
            exact (ih l hl').1
      · rw [pow_succ]; split <;> omega
  rw [maskOf, BitVec.getLsbD_ofNat, (key 32 l h).1]
  simp [h]

@[simp] theorem getLsbD_bit1 (k l : Nat) : (BitVec.ofNat 32 (2 ^ k)).getLsbD l = decide (k < 32 ∧ k = l) := by
  simp only [BitVec.getLsbD_ofNat, Nat.testBit_two_pow, Bool.decide_and]
  by_cases h : k = l <;> simp [h]

/-! ### Registers -/

/-- A vector register after a write in the lanes of a mask. -/
theorem Group.get_putV (x : Group) (r : Nat) (m : LaneMask) (f : Nat → Word) (k l : Nat) (hl : l < 32) :
    Map.get (x.putV r m f).v 0 (32 * k + l) = if k = r ∧ m.getLsbD l then f l else Map.get x.v 0 (32 * k + l) := by
  have key : ∀ (ls : List Nat) (t : Map Word), (∀ j ∈ ls, j < 32) →
      Map.get (ls.foldl (fun t l => Map.put t 0 (32 * r + l) (f l)) t) 0 (32 * k + l) =
        if k = r ∧ l ∈ ls then f l else Map.get t 0 (32 * k + l) := by
    intro ls
    induction ls with
    | nil => intro t _; simp
    | cons j ls ih =>
      intro t hj
      have hj0 : j < 32 := hj j (by simp)
      rw [List.foldl_cons, ih _ (fun i hi => hj i (by simp [hi]))]
      by_cases hk : k = r
      · subst hk
        by_cases hlj : l = j
        · subst hlj; simp
        · rw [Map.get_put_ne _ _ _ (by omega)]
          simp [hlj]
      · rw [Map.get_put_ne _ _ _ (by omega)]
        simp [hk]
  rw [Group.putV, key _ _ (fun j hj => BitVec.lt_of_getLsbD ((mem_lanesOf m j).mp hj))]
  simp [mem_lanesOf]

/-- A uniform register after a write. -/
theorem Group.get_putS (x : Group) (r : Nat) (v : Word) (k : Nat) :
    Map.get (x.putS r v).s 0 k = if r = k then v else Map.get x.s 0 k := Map.get_put _ _ _ _ _

/-- A record after a write. -/
theorem Group.get_putB (x : Group) (r : Nat) (v : BitVec 256) (k : Nat) :
    Map.get (x.putB r v).b 0 k = if r = k then v else Map.get x.b 0 k := Map.get_put _ _ _ _ _

/-- A rejoin mask after a write. -/
theorem Group.getJ_putJ (x : Group) (r : Nat) (v : LaneMask) (k : Nat) :
    (x.putJ r v).getJ k = if r = k then v else x.getJ k := Map.get_put _ _ _ _ _

/-- A predicate register after a write in the lanes of a mask; a write to p7 is discarded. -/
theorem Group.get_putP (x : Group) (r : Nat) (m : LaneMask) (f : Nat → Bool) (k l : Nat) (hl : l < 32) :
    (Map.get (x.putP r m f).p 0 k).getLsbD l =
      if r ≠ 7 ∧ k = r ∧ m.getLsbD l then f l else (Map.get x.p 0 k).getLsbD l := by
  unfold Group.putP
  split
  · simp [*]
  · rename_i hr
    rw [Map.get_put]
    by_cases hk : r = k
    · subst hk
      rw [if_pos rfl, BitVec.getLsbD_or, BitVec.getLsbD_and, BitVec.getLsbD_and, BitVec.getLsbD_not, getLsbD_maskOf f l hl]
      cases hm : m.getLsbD l <;> simp only [hr, hl, decide_true, Bool.not_false, Bool.not_true, Bool.and_true, Bool.and_false, Bool.or_false, Bool.false_or, and_true, and_false, ne_eq, not_false_eq_true, if_true, if_false, reduceCtorEq]
    · simp [hk, Ne.symm hk]

/-! ### Reading registers: the only part of the state beside the group is the counter of free choices -/

section read
variable {s t : State} (h : s.ag.free = t.ag.free)
include h

theorem State.oldOrNew_free (k : Nat) (ns : List Nat) (o : Nat) : s.oldOrNew k ns o = t.oldOrNew k ns o := by
  induction ns generalizing k o with
  | nil => rfl
  | cons n ns ih =>
    have : s.choose k = t.choose k := by simp only [State.choose, h]
    simp only [State.oldOrNew, this]
    exact ih _ _

theorem State.getV_free (x : Group) (r l : Nat) : s.getV x r l = t.getV x r l := by
  simp only [State.getV, State.oldOrNew_free h]
theorem State.getS_free (x : Group) (r : Nat) (l : Nat) : s.getS x r l = t.getS x r l := by
  simp only [State.getS, State.oldOrNew_free h]
theorem State.getP_free (x : Group) (r : Nat) : s.getP x r = t.getP x r := by
  simp only [State.getP, State.oldOrNew_free h]
theorem State.getB_free (x : Group) (r : Nat) (l : Nat) : s.getB x r l = t.getB x r l := by
  simp only [State.getB, State.oldOrNew_free h]
theorem State.srcVal_free (x : Group) (a : Src) (l : Nat) : s.srcVal x a l = t.srcVal x a l := by
  cases a <;> simp only [State.srcVal, State.getV_free h, State.getS_free h]
theorem State.uVal_free (x : Group) (a : USrc) : s.uVal x a = t.uVal x a := by
  cases a <;> simp only [State.uVal, State.getS_free h]
theorem State.maskVal_free (x : Group) (a : Src) (l : Nat) : s.maskVal x a l = t.maskVal x a l := by
  cases a <;> simp only [State.maskVal, State.getP_free h, State.getS_free h]
theorem State.ixVal_free (x : Group) (a : Ix) (l : Nat) : s.ixVal x a l = t.ixVal x a l := by
  cases a <;> simp only [State.ixVal, State.getV_free h, State.getS_free h]

end read

@[simp] theorem State.getV_advance (s : State) (g : Nat) (m : LaneMask) (x : Group) (r l : Nat) :
    (s.advance g m).getV x r l = s.getV x r l := State.getV_free (s := s.advance g m) (t := s) rfl x r l
@[simp] theorem State.getS_advance (s : State) (g : Nat) (m : LaneMask) (x : Group) (r l : Nat) :
    (s.advance g m).getS x r l = s.getS x r l := State.getS_free (s := s.advance g m) (t := s) rfl x r l
@[simp] theorem State.getP_advance (s : State) (g : Nat) (m : LaneMask) (x : Group) (r : Nat) :
    (s.advance g m).getP x r = s.getP x r := State.getP_free (s := s.advance g m) (t := s) rfl x r
@[simp] theorem State.getB_advance (s : State) (g : Nat) (m : LaneMask) (x : Group) (r l : Nat) :
    (s.advance g m).getB x r l = s.getB x r l := State.getB_free (s := s.advance g m) (t := s) rfl x r l
@[simp] theorem State.srcVal_advance (s : State) (g : Nat) (m : LaneMask) (x : Group) (a : Src) (l : Nat) :
    (s.advance g m).srcVal x a l = s.srcVal x a l := State.srcVal_free (s := s.advance g m) (t := s) rfl x a l
@[simp] theorem State.uVal_advance (s : State) (g : Nat) (m : LaneMask) (x : Group) (a : USrc) :
    (s.advance g m).uVal x a = s.uVal x a := State.uVal_free (s := s.advance g m) (t := s) rfl x a
@[simp] theorem State.maskVal_advance (s : State) (g : Nat) (m : LaneMask) (x : Group) (a : Src) (l : Nat) :
    (s.advance g m).maskVal x a l = s.maskVal x a l := State.maskVal_free (s := s.advance g m) (t := s) rfl x a l
@[simp] theorem State.ixVal_advance (s : State) (g : Nat) (m : LaneMask) (x : Group) (a : Ix) (l : Nat) :
    (s.advance g m).ixVal x a l = s.ixVal x a l := State.ixVal_free (s := s.advance g m) (t := s) rfl x a l

/-! ### Memories -/

theorem Mem.write_nil (m : Mem) (a : Nat) : Mem.write m a [] = m := rfl

/-- A byte after a write: the byte written where the write covers it, else the byte before. -/
theorem Mem.get_write (m : Mem) (a : Nat) (bs : List Byte) (x : Nat) :
    Map.get (Mem.write m a bs) 0 x =
      if h : a ≤ x ∧ x - a < bs.length then bs[x - a]'h.2 else Map.get m 0 x := by
  have key : ∀ (bs : List Byte) (n : Nat) (m : Mem),
      Map.get ((bs.zipIdx n).foldl (fun m (p : Byte × Nat) => Map.put m 0 (a + p.2) p.1) m) 0 x =
        if h : a + n ≤ x ∧ x - (a + n) < bs.length then bs[x - (a + n)]'h.2 else Map.get m 0 x := by
    intro bs
    induction bs with
    | nil => intro n m; simp
    | cons b bs ih =>
      intro n m
      rw [List.zipIdx_cons, List.foldl_cons, ih]
      by_cases h1 : a + n = x
      · subst h1
        simp [Map.get_put]
      · rw [Map.get_put_ne _ _ _ h1]
        by_cases h2 : a + (n + 1) ≤ x ∧ x - (a + (n + 1)) < bs.length
        · have h3 : a + n ≤ x ∧ x - (a + n) < (b :: bs).length := by simp; omega
          rw [dif_pos h2, dif_pos h3]
          have : x - (a + n) = x - (a + (n + 1)) + 1 := by omega
          simp [this]
        · have h3 : ¬ (a + n ≤ x ∧ x - (a + n) < (b :: bs).length) := by simp; omega
          rw [dif_neg h2, dif_neg h3]
  simpa [Mem.write] using key bs 0 m

/-- A write keeps the canonical form. -/
theorem Mem.wf_write (m : Mem) (a : Nat) (bs : List Byte) (h : Mem.wf m = true) : Mem.wf (Mem.write m a bs) = true := by
  unfold Mem.write
  generalize bs.zipIdx = ps
  induction ps generalizing m with
  | nil => exact h
  | cons p ps ih => exact ih _ (Map.wf_put m 0 _ _ h)

/-- Bytes read back after they are written. -/
theorem Mem.read_write_same (m : Mem) (a : Nat) (bs : List Byte) : Mem.read (Mem.write m a bs) a bs.length = bs := by
  apply List.ext_getElem
  · simp [Mem.read]
  · intro i h1 h2
    simp only [Mem.read, List.getElem_map, List.getElem_range, Mem.get_write]
    rw [dif_pos ⟨by omega, by omega⟩]
    simp

/-- A write leaves the bytes outside it alone. -/
theorem Mem.get_write_ne (m : Mem) (a : Nat) (bs : List Byte) (x : Nat) (h : x < a ∨ a + bs.length ≤ x) :
    Map.get (Mem.write m a bs) 0 x = Map.get m 0 x := by
  rw [Mem.get_write, dif_neg (by omega)]

end Sys2Proof.Machine
end

