-- ==== Sys2Proof/Laws/Ops.lean ====
section
/-! SUPPORT. What the shared operations do, once: the pennant tag, performing an instruction, giving it its results. -/

namespace Sys2Proof.Machine

/-! ### The pennant tag (R436) touches telemetry, a partition's mark and the agenda -/

section tag
variable (s : State) (h : Hdr) (i : Instr)

theorem State.tag_cases : s.tag h i = s ∨ ∃ q : Penn, s.tag h i =
    ({ s.setPart s.here.part { s.part s.here.part with tagged := true } with
        tele := { s.tele with penns := s.tele.penns ++ [q] } } : State).soon (.pennantRecord s.here.part) := by
  unfold State.tag
  dsimp only
  split
  · exact .inl rfl
  · exact .inr ⟨_, rfl⟩

@[simp] theorem State.tag_work : (s.tag h i).work = s.work := by
  obtain e | ⟨q, e⟩ := s.tag_cases h i <;> rw [e] <;> rfl
@[simp] theorem State.tag_mems : (s.tag h i).mems = s.mems := by
  obtain e | ⟨q, e⟩ := s.tag_cases h i <;> rw [e] <;> rfl
@[simp] theorem State.tag_tr : (s.tag h i).tr = s.tr := by
  obtain e | ⟨q, e⟩ := s.tag_cases h i <;> rw [e] <;> rfl
@[simp] theorem State.tag_cp : (s.tag h i).cp = s.cp := by
  obtain e | ⟨q, e⟩ := s.tag_cases h i <;> rw [e] <;> rfl
@[simp] theorem State.tag_fe : (s.tag h i).fe = s.fe := by
  obtain e | ⟨q, e⟩ := s.tag_cases h i <;> rw [e] <;> rfl
@[simp] theorem State.tag_trust : (s.tag h i).trust = s.trust := by
  obtain e | ⟨q, e⟩ := s.tag_cases h i <;> rw [e] <;> rfl
@[simp] theorem State.tag_ctl : (s.tag h i).ctl = s.ctl := by
  obtain e | ⟨q, e⟩ := s.tag_cases h i <;> rw [e] <;> rfl
@[simp] theorem State.tag_fab : (s.tag h i).fab = s.fab := by
  obtain e | ⟨q, e⟩ := s.tag_cases h i <;> rw [e] <;> rfl
@[simp] theorem State.tag_rel : (s.tag h i).rel = s.rel := by
  obtain e | ⟨q, e⟩ := s.tag_cases h i <;> rw [e] <;> rfl
@[simp] theorem State.tag_cur : (s.tag h i).ag.cur = s.ag.cur := by
  obtain e | ⟨q, e⟩ := s.tag_cases h i <;> rw [e] <;> rfl
@[simp] theorem State.tag_snap : (s.tag h i).ag.snap = s.ag.snap := by
  obtain e | ⟨q, e⟩ := s.tag_cases h i <;> rw [e] <;> rfl
@[simp] theorem State.tag_cycle : (s.tag h i).ag.cycle = s.ag.cycle := by
  obtain e | ⟨q, e⟩ := s.tag_cases h i <;> rw [e] <;> rfl
@[simp] theorem State.tag_clock : (s.tag h i).ag.clock = s.ag.clock := by
  obtain e | ⟨q, e⟩ := s.tag_cases h i <;> rw [e] <;> rfl
@[simp] theorem State.tag_nextId : (s.tag h i).ag.nextId = s.ag.nextId := by
  obtain e | ⟨q, e⟩ := s.tag_cases h i <;> rw [e] <;> rfl
@[simp] theorem State.tag_todo : (s.tag h i).ag.todo = s.ag.todo := by
  obtain e | ⟨q, e⟩ := s.tag_cases h i <;> rw [e] <;> rfl

@[simp] theorem State.tag_group (g : Nat) : (s.tag h i).group g = s.group g := by simp [State.group]
@[simp] theorem State.tag_lane (g l : Nat) : (s.tag h i).lane g l = s.lane g l := by simp [State.lane]
@[simp] theorem State.tag_block (b : Nat) : (s.tag h i).block b = s.block b := by simp [State.block]
@[simp] theorem State.tag_cluster (c : Nat) : (s.tag h i).cluster c = s.cluster c := by simp [State.cluster]
@[simp] theorem State.tag_launch (l : Nat) : (s.tag h i).launch l = s.launch l := by simp [State.launch]
@[simp] theorem State.tag_src : (s.tag h i).src = s.src := by simp [State.src]
@[simp] theorem State.tag_flagOf (k : Hdr) : (s.tag h i).flagOf k = s.flagOf k := by simp [State.flagOf]

/-- The tag leaves everything but a pennant and the agenda alone. -/
theorem State.tag_device : SameDevice s (s.tag h i) := by constructor <;> simp

theorem State.tag_tele : SameTele s (s.tag h i) := by
  obtain e | ⟨q, e⟩ := s.tag_cases h i <;> rw [e] <;> constructor <;> rfl

theorem State.tag_cores : SameCores s (s.tag h i) := by
  obtain e | ⟨q, e⟩ := s.tag_cases h i <;> rw [e] <;> constructor <;> rfl

theorem State.tag_atCycle (q : Nat × Instr) (hq : q ∈ s.ag.atCycle) : q ∈ (s.tag h i).ag.atCycle := by
  obtain e | ⟨p, e⟩ := s.tag_cases h i <;> rw [e]
  · exact hq
  · exact List.mem_append_left _ hq

end tag

/-! ### Performing an instruction (R137, R142) -/

/-- The state that the effect of an instruction starts from: the bundle's lanes outside the executing set have gone on. -/
abbrev State.begun (s : State) (h : Hdr) (i : Instr) : State :=
  (s.tag h i).advance s.ag.cur.grp (s.ag.cur.lanes &&& ~~~s.running h i)

/-- An instruction that helper lanes execute like any other holds none of them beside it (R17). -/
theorem State.beside_none (s : State) (h : Hdr) {i : Instr} (hk : skipsHelpers i = false) : s.beside h i = 0 := by
  simp [State.beside, hk]

/-- An instruction that runs, that helper lanes do not skip, and that is no forced boundary performs its own effect. -/
theorem State.perform_runs {s : State} {h : Hdr} {i : Instr} (body : Group → Nat → LaneMask → State → State)
    (hk : skipsHelpers i = false) (hb : isBoundary i = false) (hr : Runs s h i) :
    s.perform h i body = .next (body (s.tag h i).src s.ag.cur.grp (s.running h i) (s.begun h i)).bump := by
  obtain ⟨-, hm, he, hp⟩ := hr
  have he' : (s.begun h i).early h i (s.tag h i).src = none := he
  have hz : ∀ m : LaneMask, m ||| 0 = m := fun _ => BitVec.or_zero
  simp only [State.perform, State.performed, State.tag_cur, if_neg hm, State.beside_none _ h hk, State.keepBeside, State.leaveBeside, hk,
    Bool.not_false,
    hz, he', hp, hb, Bool.false_eq_true, if_false, if_true]

/-- One that is a forced boundary does so after its lanes' buffered stores have committed (R56, R58). -/
theorem State.perform_boundary {s : State} {h : Hdr} {i : Instr} (body : Group → Nat → LaneMask → State → State)
    (hk : skipsHelpers i = false) (hb : isBoundary i = true) (hr : Runs s h i) :
    s.perform h i body = .next ((body (s.tag h i).src s.ag.cur.grp (s.running h i)
      ((s.begun h i).boundary s.ag.cur.grp (s.running h i))).stopAtBoundary s.ag.cur.grp (s.running h i)).bump := by
  obtain ⟨-, hm, he, hp⟩ := hr
  have he' : (s.begun h i).early h i (s.tag h i).src = none := he
  have hz : ∀ m : LaneMask, m ||| 0 = m := fun _ => BitVec.or_zero
  simp only [State.perform, State.performed, State.tag_cur, if_neg hm, State.beside_none _ h hk, State.keepBeside, State.leaveBeside, hk,
    Bool.not_false,
    hz, he', hp, hb, if_true]

/-- The executing set lies within the bundle. -/
theorem State.running_le (s : State) (h : Hdr) (i : Instr) (l : Nat) (hl : (s.running h i).getLsbD l = true) :
    s.ag.cur.lanes.getLsbD l = true := by
  simp only [State.running, State.execSet, State.tag_cur] at hl
  split at hl <;> simp_all [BitVec.getLsbD_and]

/-! ### Results (R43, R133) -/

/-- The registers of a group after results, and all else of the group that results leave alone. -/
theorem Group.applyRes_same (x : Group) (m : LaneMask) (r : Res) : SameGroup x (x.applyRes m r) ∧
    (x.applyRes m r).lanes = x.lanes ∧ (x.applyRes m r).pending = x.pending := by
  have trans : ∀ {x y z : Group}, SameGroup x y → SameGroup y z → SameGroup x z := by
    intro x y z a b
    cases a; cases b
    constructor <;> simp_all
  have fold : ∀ {β : Type} (op : Group → β → Group) (_ : ∀ x q, SameGroup x (op x q) ∧ (op x q).lanes = x.lanes ∧ (op x q).pending = x.pending)
      (qs : List β) (x : Group), SameGroup x (qs.foldl op x) ∧ (qs.foldl op x).lanes = x.lanes ∧ (qs.foldl op x).pending = x.pending := by
    intro β op hop qs
    induction qs with
    | nil => intro x; exact ⟨by constructor <;> rfl, rfl, rfl⟩
    | cons q qs ih =>
      intro x
      obtain ⟨a, b, c⟩ := hop x q
      obtain ⟨a', b', c'⟩ := ih (op x q)
      exact ⟨trans a a', b'.trans b, c'.trans c⟩
  obtain ⟨a1, b1, c1⟩ := fold (fun x (q : Nat × (Nat → Word)) => ((x.putV q.1 (m &&& r.vm) q.2).cleanV q.1 (m &&& r.vm)).dirtyV q.1 (m &&& r.vm))
    (by intro x q; unfold Group.dirtyV Group.cleanV; (repeat' split) <;> exact ⟨by constructor <;> rfl, rfl, rfl⟩) r.v x
  unfold Group.applyRes
  dsimp only
  generalize r.v.foldl _ x = y at a1 b1 c1 ⊢
  obtain ⟨a2, b2, c2⟩ := fold (fun x (q : Nat × Word) => { x.putS q.1 q.2 with poisonR := NatSet.del x.poisonR (4096 + q.1) })
    (by intro x q; exact ⟨by constructor <;> rfl, rfl, rfl⟩) r.s y
  generalize r.s.foldl _ y = z at a2 b2 c2 ⊢
  obtain ⟨a3, b3, c3⟩ := fold (fun x (q : Nat × (Nat → Bool)) => x.putP q.1 m q.2)
    (by intro x q; unfold Group.putP; split <;> exact ⟨by constructor <;> rfl, rfl, rfl⟩) r.p z
  generalize r.p.foldl _ z = w at a3 b3 c3 ⊢
  obtain ⟨a4, b4, c4⟩ := fold (fun x (q : Nat × BitVec 256) => { x.putB q.1 q.2 with poisonR := NatSet.del x.poisonR (16384 + q.1) })
    (by intro x q; exact ⟨by constructor <;> rfl, rfl, rfl⟩) r.b w
  exact ⟨trans a1 (trans a2 (trans a3 a4)), b4.trans (b3.trans (b2.trans b1)), c4.trans (c3.trans (c2.trans c1))⟩

/-- A group whose windows are marked by results is otherwise unchanged. -/
theorem Group.dirtyRes_same (x : Group) (m : LaneMask) (r : Res) : ∃ w, x.dirtyRes m r = { x with windows := w } := by
  have : ∀ (qs : List (Nat × (Nat → Word))) (x : Group),
      ∃ w, qs.foldl (fun x (q : Nat × (Nat → Word)) => x.dirtyV q.1 (m &&& r.vm)) x = { x with windows := w } := by
    intro qs
    induction qs with
    | nil => intro x; exact ⟨x.windows, rfl⟩
    | cons q qs ih =>
      intro x
      obtain ⟨w, hw⟩ := ih (x.dirtyV q.1 (m &&& r.vm))
      rw [List.foldl_cons, hw]
      unfold Group.dirtyV
      split <;> exact ⟨_, rfl⟩
  exact this r.v x

/-- A vector register result. -/
theorem Group.applyRes_vec (x : Group) (m : LaneMask) (d : Nat) (f : Nat → Word) :
    (x.applyRes m { v := [(d, f)] }).v = (x.putV d m f).v ∧ (x.applyRes m { v := [(d, f)] }).s = x.s ∧
    (x.applyRes m { v := [(d, f)] }).p = x.p ∧ (x.applyRes m { v := [(d, f)] }).b = x.b := by
  have e : x.applyRes m { v := [(d, f)] } = ((x.putV d m f).cleanV d m).dirtyV d m := by
    simp only [Group.applyRes, List.foldl_cons, List.foldl_nil, BitVec.and_allOnes]
  rw [e]
  unfold Group.dirtyV Group.cleanV
  (repeat' split) <;> exact ⟨rfl, rfl, rfl, rfl⟩

/-- A uniform register result. -/
theorem Group.applyRes_uni (x : Group) (m : LaneMask) (d : Nat) (w : Word) :
    (x.applyRes m { s := [(d, w)] }).v = x.v ∧ (x.applyRes m { s := [(d, w)] }).s = (x.putS d w).s ∧
    (x.applyRes m { s := [(d, w)] }).p = x.p ∧ (x.applyRes m { s := [(d, w)] }).b = x.b := ⟨rfl, rfl, rfl, rfl⟩

/-- A predicate register result. -/
theorem Group.applyRes_pred (x : Group) (m : LaneMask) (d : Nat) (f : Nat → Bool) :
    (x.applyRes m { p := [(d, f)] }).v = x.v ∧ (x.applyRes m { p := [(d, f)] }).s = x.s ∧
    (x.applyRes m { p := [(d, f)] }).p = (x.putP d m f).p ∧ (x.applyRes m { p := [(d, f)] }).b = x.b := by
  have e : x.applyRes m { p := [(d, f)] } = x.putP d m f := rfl
  rw [e]
  unfold Group.putP
  split <;> exact ⟨rfl, rfl, rfl, rfl⟩

/-! ### What computing an instruction's results leaves (R137, R142) -/

theorem OnlyGroup.trans {s t u : State} {g : Nat} (a : OnlyGroup s t g) (b : OnlyGroup t u g) : OnlyGroup s u g := by
  obtain ⟨d1, e1, c1, w1, y1, z1⟩ := a
  obtain ⟨d2, e2, c2, w2, y2, z2⟩ := b
  refine ⟨?_, ?_, ?_, ⟨fun k hk => (w2.groups k hk).trans (w1.groups k hk), ?_, ?_, ?_, ?_⟩, y2.trans y1, z2.trans z1⟩
  · cases d1; cases d2; constructor <;> simp_all
  · cases e1; cases e2; constructor <;> simp_all
  · cases c1; cases c2; constructor <;> simp_all
  all_goals (cases w1; cases w2; simp_all)

theorem OnlyGroup.modGroup (s : State) (g : Nat) (f : Group → Group) : OnlyGroup s (s.modGroup g f) g :=
  ⟨by constructor <;> rfl, by constructor <;> rfl, by constructor <;> rfl,
    ⟨fun _ hk => State.group_modGroup_ne s f (Ne.symm hk), rfl, rfl, rfl, rfl⟩, rfl, rfl⟩

/-- A change of the agenda other than time. -/
theorem OnlyGroup.agenda (s : State) (g : Nat) (a : Agenda) (h1 : a.cycle = s.ag.cycle) (h2 : a.clock = s.ag.clock) :
    OnlyGroup s { s with ag := a } g :=
  ⟨by constructor <;> rfl, by constructor <;> rfl, by constructor <;> rfl, ⟨fun _ _ => rfl, rfl, rfl, rfl, rfl⟩, h1, h2⟩

theorem OnlyGroup.tag (s : State) (h : Hdr) (i : Instr) (g : Nat) : OnlyGroup s (s.tag h i) g :=
  ⟨s.tag_device h i, s.tag_tele h i, s.tag_cores h i, ⟨by simp, by simp, by simp, by simp, by simp⟩, by simp, by simp⟩

theorem OnlyGroup.give (s : State) (g : Nat) (h : Hdr) (m : LaneMask) (lat : Nat) (r : Res) :
    OnlyGroup s (s.give g h m lat r) g := by
  unfold State.give
  split
  · exact ((OnlyGroup.agenda s g { s.ag with nextId := s.ag.nextId + 1 } rfl rfl).trans (OnlyGroup.modGroup _ g _)).trans
      (OnlyGroup.agenda _ g _ rfl rfl)
  · exact OnlyGroup.modGroup s g _

/-- Leave a lane as it is. -/
abbrev asIs : Nat → Lane → Lane := fun _ y => y

/-- Changing no lane changes nothing. -/
theorem State.modLanes_id (s : State) (g : Nat) (m : LaneMask) : s.modLanes g m asIs = s := by
  have h1 : ∀ x : Group, x.modLanes m asIs = x := by
    intro x
    have : x.lanes.mapIdx (fun l y => if m.getLsbD l then asIs l y else y) = x.lanes := by
      apply List.ext_getElem <;> simp
    simp only [Group.modLanes, this]
  have h2 : ∀ q : Map Group, Map.adjust q g (fun x => x.modLanes m asIs) = q := by
    intro q
    induction q with
    | nil => rfl
    | cons p q ih => obtain ⟨k, b⟩ := p; simp only [Map.adjust, ih, h1 b]; split <;> rfl
  simp only [State.modLanes, State.modGroup, h2]

/-- The state after an instruction that gives results to the executing set and goes on. -/
abbrev State.computed (s : State) (h : Hdr) (i : Instr) (E : Nat → Lane → Lane) (r : Res) : State :=
  ((((s.begun h i).give s.ag.cur.grp h (s.running h i) (latency i) r).modLanes s.ag.cur.grp (s.running h i) E).advance
    s.ag.cur.grp (s.running h i)).bump

theorem State.computed_outside (s : State) (h : Hdr) (i : Instr) (E : Nat → Lane → Lane) (r : Res) :
    OnlyGroup s (s.computed h i E r) s.ag.cur.grp :=
  (((((OnlyGroup.tag s h i _).trans (OnlyGroup.modGroup _ _ _)).trans (OnlyGroup.give _ _ _ _ _ _)).trans
    (OnlyGroup.modGroup _ _ _)).trans (OnlyGroup.modGroup _ _ _)).trans (OnlyGroup.agenda _ _ _ rfl rfl)

/-- The lanes of a bundle that have gone on, those outside the executing set first. -/
theorem advance_twice (x : Group) (a m : LaneMask) (hm : ∀ l, m.getLsbD l = true → a.getLsbD l = true) (y : Group)
    (E : Nat → Lane → Lane)
    (hy : y.lanes = (x.modLanes (a &&& ~~~m) (fun _ y => y.advance)).lanes) (l : Nat) (hl : l < x.lanes.length) :
    ((y.modLanes m E).modLanes m (fun _ y => y.advance)).lane l =
      if m.getLsbD l then (E l (x.lane l)).advance else if a.getLsbD l then (x.lane l).advance else x.lane l := by
  have hlen : l < y.lanes.length := by rw [hy]; simpa using hl
  have hyl : y.lane l = (x.modLanes (a &&& ~~~m) (fun _ y => y.advance)).lane l := by simp [Group.lane, hy]
  rw [Group.lane_modLanes _ _ _ _ (by simpa using hlen), Group.lane_modLanes _ _ _ _ hlen, hyl,
    Group.lane_modLanes _ _ _ _ hl, BitVec.getLsbD_and, BitVec.getLsbD_not]
  have hml := hm l
  by_cases h1 : m.getLsbD l = true
  · simp [h1, hml h1]
  · by_cases h2 : a.getLsbD l = true
    · have : l < 32 := BitVec.lt_of_getLsbD h2
      have h1' : m.getLsbD l = false := by simpa using h1
      simp only [h1', h2, this, decide_true, Bool.not_false, Bool.and_true, Bool.false_eq_true, if_false, if_true]
    · simp [h1, h2]

theorem State.begun_isSome (s : State) (h : Hdr) (i : Instr) (g : Nat) :
    (Map.find? (s.begun h i).work.groups g).isSome = (Map.find? s.work.groups g).isSome := by
  show (Map.find? (Map.adjust (s.tag h i).work.groups _ _) g).isSome = _
  simp

section computed
variable {s : State} {h : Hdr} {i : Instr} (E : Nat → Lane → Lane) (r : Res)

/-- Marking races changes the pending results only. -/
theorem Group.race_pending (x : Group) (ws : List RegWrite) : ∃ ps, x.race ws = { x with pending := ps } := by
  unfold Group.race
  split
  · exact ⟨x.pending, rfl⟩
  · exact ⟨_, rfl⟩

/-- The group after an instruction with `lf` = 0. -/
theorem State.computed_group_now (hr : Runs s h i) (hlf : h.lf = false) :
    ∃ ps sc, (s.computed h i E r).group s.ag.cur.grp = (({ (s.here.modLanes (s.ag.cur.lanes &&& ~~~s.running h i)
      (fun _ y => y.advance)).applyRes (s.running h i) r with pending := ps, score := sc } : Group).modLanes (s.running h i) E).modLanes (s.running h i)
        (fun _ y => y.advance) := by
  have hl := hr.1
  rw [show (s.computed h i E r).group s.ag.cur.grp = ((((s.begun h i).give s.ag.cur.grp h (s.running h i) (latency i) r).modLanes
    s.ag.cur.grp (s.running h i) E).advance s.ag.cur.grp (s.running h i)).group s.ag.cur.grp from rfl]
  unfold State.give
  rw [if_neg (by simp [hlf])]
  rw [State.advance, State.modLanes, State.modLanes, State.group_modGroup_self _ _ _ (by simpa [s.begun_isSome h i] using hl),
    State.group_modGroup_self _ _ _ (by simpa [s.begun_isSome h i] using hl),
    State.group_modGroup_self _ _ _ (by simpa [s.begun_isSome h i] using hl)]
  rw [show (s.begun h i).group s.ag.cur.grp = s.here.modLanes (s.ag.cur.lanes &&& ~~~s.running h i) (fun _ y => y.advance) by
    rw [State.begun, State.advance, State.modLanes, State.group_modGroup_self _ _ _ (by simpa using hl)]
    simp]
  obtain ⟨ps, hp⟩ := Group.race_pending ((s.here.modLanes (s.ag.cur.lanes &&& ~~~s.running h i)
    (fun _ y => y.advance)).applyRes (s.running h i) r) (r.writes (s.running h i))
  rw [hp]
  exact ⟨ps, _, rfl⟩

/-- The group after an instruction with `lf` = 1. -/
theorem State.computed_group_later (hr : Runs s h i) (hlf : h.lf = true) :
    ∃ w, (s.computed h i E r).group s.ag.cur.grp = (({ s.here.modLanes (s.ag.cur.lanes &&& ~~~s.running h i)
      (fun _ y => y.advance) with
        windows := w, pending := s.here.pending ++ [{ id := s.ag.nextId, flag := s.flagOf h, lanes := s.running h i, writes := r.writes (s.running h i) }] } :
          Group).modLanes (s.running h i) E).modLanes (s.running h i) (fun _ y => y.advance) := by
  have hl := hr.1
  obtain ⟨w, hw⟩ := Group.dirtyRes_same (s.here.modLanes (s.ag.cur.lanes &&& ~~~s.running h i) (fun _ y => y.advance)) (s.running h i) r
  refine ⟨w, ?_⟩
  rw [show (s.computed h i E r).group s.ag.cur.grp = ((((s.begun h i).give s.ag.cur.grp h (s.running h i) (latency i) r).modLanes
    s.ag.cur.grp (s.running h i) E).advance s.ag.cur.grp (s.running h i)).group s.ag.cur.grp from rfl]
  unfold State.give
  rw [if_pos hlf]
  have hg : (s.begun h i).group s.ag.cur.grp = s.here.modLanes (s.ag.cur.lanes &&& ~~~s.running h i) (fun _ y => y.advance) := by
    rw [State.begun, State.advance, State.modLanes, State.group_modGroup_self _ _ _ (by simpa using hl)]
    simp
  rw [State.advance, State.modLanes, State.modLanes,
    State.group_modGroup_self _ _ _ (by simpa [State.fresh, s.begun_isSome h i] using hl),
    State.group_modGroup_self _ _ _ (by simpa [State.fresh, s.begun_isSome h i] using hl)]
  rw [show ∀ (q : State) (n : Nat) (j : Instr) (g : Nat), (q.after n j).group g = q.group g from fun _ _ _ _ => rfl]
  rw [State.group_modGroup_self _ _ _ (by simpa [State.fresh, s.begun_isSome h i] using hl)]
  rw [show ∀ (q : State) (g : Nat), (State.fresh q).2.group g = q.group g from fun _ _ => rfl, hg, hw]
  have hf : (State.fresh (s.begun h i)).2.flagOf h = s.flagOf h := by
    show (s.tag h i).flagOf h = _; simp
  have hn : (State.fresh (s.begun h i)).1 = s.ag.nextId := by show (s.tag h i).ag.nextId = _; simp
  rw [hf, hn]
  rfl

/-- The event that will write the results. -/
theorem State.computed_event (hlf : h.lf = true) :
    (s.ag.cycle + latency i, .resultWriteback s.ag.cur.grp s.ag.nextId) ∈ (s.computed h i E r).ag.atCycle := by
  have hc : (s.tag h i).ag.cycle = s.ag.cycle := by simp
  have hn : (s.tag h i).ag.nextId = s.ag.nextId := by simp
  show _ ∈ ((s.begun h i).give s.ag.cur.grp h (s.running h i) (latency i) r).ag.atCycle
  unfold State.give
  rw [if_pos hlf]
  show _ ∈ (s.tag h i).ag.atCycle ++ [((s.tag h i).ag.cycle + latency i, Instr.resultWriteback s.ag.cur.grp (s.tag h i).ag.nextId)]
  rw [hc, hn]
  simp

theorem State.computed_lanes (hr : Runs s h i) : LanesMove s (s.computed h i E r) (s.running h i) (fun l y => (E l y).advance) := by
  intro l hl
  cases hlf : h.lf
  · obtain ⟨ps, sc, e⟩ := State.computed_group_now E r hr hlf
    rw [e]
    refine advance_twice s.here _ _ (s.running_le h i) _ E ?_ l hl
    exact (Group.applyRes_same _ _ _).2.1
  · obtain ⟨w, e⟩ := State.computed_group_later E r hr hlf
    rw [e]
    exact advance_twice s.here _ _ (s.running_le h i) _ E rfl l hl

theorem State.computed_inside (hr : Runs s h i) : SameGroup s.here ((s.computed h i E r).group s.ag.cur.grp) := by
  cases hlf : h.lf
  · obtain ⟨ps, sc, e⟩ := State.computed_group_now E r hr hlf
    rw [e]
    have := (Group.applyRes_same (s.here.modLanes (s.ag.cur.lanes &&& ~~~s.running h i) (fun _ y => y.advance)) (s.running h i) r).1
    cases this
    constructor <;> simpa
  · obtain ⟨w, e⟩ := State.computed_group_later E r hr hlf
    rw [e]
    constructor <;> simp

/-- The pending result of an instruction with `lf` = 1. -/
theorem State.computed_pends (hr : Runs s h i) (hlf : h.lf = true) (ws : RegWrite → Prop)
    (hw : ∀ w, w ∈ r.writes (s.running h i) ↔ ws w) : Pends s (s.computed h i E r) h i ws := by
  obtain ⟨w, e⟩ := State.computed_group_later E r hr hlf
  refine ⟨{ id := s.ag.nextId, flag := s.flagOf h, lanes := s.running h i, writes := r.writes (s.running h i) }, ?_, rfl, hw, State.computed_event E r hlf⟩
  rw [e]
  show _ ∈ s.here.pending ++ _
  simp

/-- Registers with `lf` = 1 are unchanged until the results are written. -/
theorem State.computed_regs_later (hr : Runs s h i) (hlf : h.lf = true) :
    ((s.computed h i E r).group s.ag.cur.grp).v = s.here.v ∧ ((s.computed h i E r).group s.ag.cur.grp).s = s.here.s ∧
    ((s.computed h i E r).group s.ag.cur.grp).p = s.here.p ∧ ((s.computed h i E r).group s.ag.cur.grp).b = s.here.b := by
  obtain ⟨w, e⟩ := State.computed_group_later E r hr hlf
  rw [e]
  simp

end computed

/-- An instruction that gives a vector result. -/
theorem State.computed_vec {s : State} {h : Hdr} {i : Instr} (hr : Runs s h i) (E : Nat → Lane → Lane) (d : BitVec 8)
    (f : Nat → Word) : VecResult s (s.computed h i E { v := [(d.toNat, f)] }) h i (fun l y => (E l y).advance) d f := by
  set r : Res := { v := [(d.toNat, f)] } with hrd
  have hv : h.lf = false → ∀ k l, l < 32 → Map.get ((s.computed h i E r).group s.ag.cur.grp).v 0 (32 * k + l) =
      if k = d.toNat ∧ (s.running h i).getLsbD l then f l else Map.get s.here.v 0 (32 * k + l) := by
    intro hlf k l hl
    obtain ⟨ps, sc, e⟩ := State.computed_group_now E r hr hlf
    rw [e]
    have := (Group.applyRes_vec (s.here.modLanes (s.ag.cur.lanes &&& ~~~s.running h i) (fun _ y => y.advance)) (s.running h i)
      d.toNat f).1
    rw [Group.modLanes_v, Group.modLanes_v]
    show Map.get (Group.applyRes _ _ r).v 0 _ = _
    rw [hrd, this, Group.get_putV _ _ _ _ _ _ hl]
    rfl
  have ho : h.lf = false → ((s.computed h i E r).group s.ag.cur.grp).s = s.here.s ∧
      ((s.computed h i E r).group s.ag.cur.grp).p = s.here.p ∧ ((s.computed h i E r).group s.ag.cur.grp).b = s.here.b := by
    intro hlf
    obtain ⟨ps, sc, e⟩ := State.computed_group_now E r hr hlf
    have := (Group.applyRes_vec (s.here.modLanes (s.ag.cur.lanes &&& ~~~s.running h i) (fun _ y => y.advance)) (s.running h i)
      d.toNat f).2
    rw [e]
    simp only [Group.modLanes_s, Group.modLanes_p, Group.modLanes_b]
    exact this
  refine ⟨?_, ?_, ⟨s.computed_outside h i E r, State.computed_inside E r hr, ⟨?_, ?_, ?_, ?_⟩, State.computed_lanes E r hr⟩⟩
  · intro hlf l hl
    rw [hv hlf d.toNat l (BitVec.lt_of_getLsbD hl), if_pos ⟨rfl, hl⟩]
  · intro hlf
    refine State.computed_pends E r hr hlf _ (fun w => ?_)
    simp only [Res.writes, hrd, List.flatMap_cons, List.flatMap_nil, List.append_nil, List.map_nil, List.mem_map, mem_lanesOf,
      BitVec.and_allOnes]
    constructor
    · rintro ⟨l, hl, rfl⟩; exact ⟨rfl, rfl, hl, rfl, rfl⟩
    · rintro ⟨a, b, c, e⟩
      refine ⟨w.lane, c, ?_⟩
      cases w; simp_all
  · intro k l hl hn
    cases hlf : h.lf
    · rw [hv hlf k l hl, if_neg (fun q => hn ⟨hlf, q.1, q.2⟩)]
    · rw [(State.computed_regs_later E r hr hlf).1]
  · intro k _
    cases hlf : h.lf
    · rw [(ho hlf).1]
    · rw [(State.computed_regs_later E r hr hlf).2.1]
  · intro k l _ _
    cases hlf : h.lf
    · rw [(ho hlf).2.1]
    · rw [(State.computed_regs_later E r hr hlf).2.2.1]
  · intro k _
    cases hlf : h.lf
    · rw [(ho hlf).2.2]
    · rw [(State.computed_regs_later E r hr hlf).2.2.2]

/-- An instruction that gives a uniform result. -/
theorem State.computed_uni {s : State} {h : Hdr} {i : Instr} (hr : Runs s h i) (d : BitVec 8) (w : Word) :
    UniResult s (s.computed h i asIs { s := [(d.toNat, w)] }) h i d w := by
  set r : Res := { s := [(d.toNat, w)] } with hrd
  have ho : h.lf = false → ((s.computed h i asIs r).group s.ag.cur.grp).v = s.here.v ∧
      ((s.computed h i asIs r).group s.ag.cur.grp).s = Map.put s.here.s 0 d.toNat w ∧
      ((s.computed h i asIs r).group s.ag.cur.grp).p = s.here.p ∧ ((s.computed h i asIs r).group s.ag.cur.grp).b = s.here.b := by
    intro hlf
    obtain ⟨ps, sc, e⟩ := State.computed_group_now asIs r hr hlf
    rw [e]
    simp only [Group.modLanes_v, Group.modLanes_s, Group.modLanes_p, Group.modLanes_b]
    exact Group.applyRes_uni (s.here.modLanes (s.ag.cur.lanes &&& ~~~s.running h i) (fun _ y => y.advance)) (s.running h i)
      d.toNat w
  refine ⟨?_, ?_, ⟨s.computed_outside h i asIs r, State.computed_inside asIs r hr, ⟨?_, ?_, ?_, ?_⟩, State.computed_lanes asIs r hr⟩⟩
  · intro hlf
    rw [(ho hlf).2.1, Map.get_put_self]
  · intro hlf
    refine State.computed_pends asIs r hr hlf _ (fun w => ?_)
    simp [Res.writes, hrd]
  · intro k l hl _
    cases hlf : h.lf
    · rw [(ho hlf).1]
    · rw [(State.computed_regs_later asIs r hr hlf).1]
  · intro k hn
    cases hlf : h.lf
    · rw [(ho hlf).2.1, Map.get_put_ne _ _ _ (fun q => hn ⟨hlf, q.symm⟩)]
    · rw [(State.computed_regs_later asIs r hr hlf).2.1]
  · intro k l _ _
    cases hlf : h.lf
    · rw [(ho hlf).2.2.1]
    · rw [(State.computed_regs_later asIs r hr hlf).2.2.1]
  · intro k _
    cases hlf : h.lf
    · rw [(ho hlf).2.2.2]
    · rw [(State.computed_regs_later asIs r hr hlf).2.2.2]

/-- An instruction that gives a predicate result. -/
theorem State.computed_pred {s : State} {h : Hdr} {i : Instr} (hr : Runs s h i) (E : Nat → Lane → Lane) (d : BitVec 8)
    (f : Nat → Bool) : PredResult s (s.computed h i E { p := [(d.toNat, f)] }) h i (fun l y => (E l y).advance) d f := by
  set r : Res := { p := [(d.toNat, f)] } with hrd
  have ho : h.lf = false → ((s.computed h i E r).group s.ag.cur.grp).v = s.here.v ∧
      ((s.computed h i E r).group s.ag.cur.grp).s = s.here.s ∧
      ((s.computed h i E r).group s.ag.cur.grp).p = (Group.putP (s.here.modLanes (s.ag.cur.lanes &&& ~~~s.running h i)
        (fun _ y => y.advance)) d.toNat (s.running h i) f).p ∧
      ((s.computed h i E r).group s.ag.cur.grp).b = s.here.b := by
    intro hlf
    obtain ⟨ps, sc, e⟩ := State.computed_group_now E r hr hlf
    rw [e]
    simp only [Group.modLanes_v, Group.modLanes_s, Group.modLanes_p, Group.modLanes_b]
    exact Group.applyRes_pred (s.here.modLanes (s.ag.cur.lanes &&& ~~~s.running h i) (fun _ y => y.advance)) (s.running h i)
      d.toNat f
  refine ⟨?_, ?_, ⟨s.computed_outside h i E r, State.computed_inside E r hr, ⟨?_, ?_, ?_, ?_⟩, State.computed_lanes E r hr⟩⟩
  · intro hlf h7 l hl
    rw [(ho hlf).2.2.1, Group.get_putP _ _ _ _ _ _ (BitVec.lt_of_getLsbD hl), if_pos ⟨h7, rfl, hl⟩]
  · intro hlf
    refine State.computed_pends E r hr hlf _ (fun w => ?_)
    simp only [Res.writes, hrd, List.flatMap_cons, List.flatMap_nil, List.append_nil, List.map_nil, List.mem_map, mem_lanesOf,
      List.nil_append]
    constructor
    · rintro ⟨l, hl, rfl⟩; exact ⟨rfl, rfl, hl, rfl, rfl⟩
    · rintro ⟨a, b, c, e⟩
      refine ⟨w.lane, c, ?_⟩
      cases w; simp_all
  · intro k l hl _
    cases hlf : h.lf
    · rw [(ho hlf).1]
    · rw [(State.computed_regs_later E r hr hlf).1]
  · intro k _
    cases hlf : h.lf
    · rw [(ho hlf).2.1]
    · rw [(State.computed_regs_later E r hr hlf).2.1]
  · intro k l hl hn
    cases hlf : h.lf
    · rw [(ho hlf).2.2.1, Group.get_putP _ _ _ _ _ _ hl, if_neg (fun q => hn ⟨hlf, q.2.1, by rw [q.2.1]; exact q.1, q.2.2⟩)]
      rfl
    · rw [(State.computed_regs_later E r hr hlf).2.2.1]
  · intro k _
    cases hlf : h.lf
    · rw [(ho hlf).2.2.2]
    · rw [(State.computed_regs_later E r hr hlf).2.2.2]

/-- A computing instruction that runs gives its results. -/
theorem State.compute_runs {s : State} {h : Hdr} {i : Instr} {f : State → Group → LaneMask → Res}
    (hk : skipsHelpers i = false) (hb : isBoundary i = false) (hr : Runs s h i) :
    s.compute h i f = .next (s.computed h i asIs (f (s.begun h i) (s.tag h i).src (s.running h i))) := by
  rw [State.compute, State.perform_runs _ hk hb hr, State.computed, State.modLanes_id]

end Sys2Proof.Machine
end

