-- ==== Sys2Proof/Laws/Elements.lean ====
section
/-! SUPPORT. The elements of a packed value (R105, R106): packing and reading back. -/

namespace Sys2Proof.Machine

/-- A sum of digits in base 2^w, read back digit by digit. -/
theorem digits_fold (w : Nat) (f : Nat → Nat) (n : Nat) :
    (List.range n).foldl (fun a k => a + f k % 2 ^ w * 2 ^ (w * k)) 0 < 2 ^ (w * n) ∧
    ∀ k, k < n → (List.range n).foldl (fun a k => a + f k % 2 ^ w * 2 ^ (w * k)) 0 / 2 ^ (w * k) % 2 ^ w = f k % 2 ^ w := by
  induction n with
  | zero => simp
  | succ n ih =>
    obtain ⟨hlt, hd⟩ := ih
    simp only [List.range_succ, List.foldl_append, List.foldl_cons, List.foldl_nil]
    generalize (List.range n).foldl (fun a k => a + f k % 2 ^ w * 2 ^ (w * k)) 0 = q at hlt hd ⊢
    have hw : 0 < 2 ^ w := Nat.two_pow_pos w
    have hm : f n % 2 ^ w < 2 ^ w := Nat.mod_lt _ hw
    constructor
    · rw [Nat.mul_succ, pow_add]
      calc q + f n % 2 ^ w * 2 ^ (w * n) < 2 ^ (w * n) + f n % 2 ^ w * 2 ^ (w * n) := by omega
        _ = (f n % 2 ^ w + 1) * 2 ^ (w * n) := by ring
        _ ≤ 2 ^ w * 2 ^ (w * n) := Nat.mul_le_mul_right _ hm
        _ = 2 ^ (w * n) * 2 ^ w := by ring
    · intro k hk
      by_cases hkn : k = n
      · subst hkn
        rw [Nat.add_mul_div_right _ _ (Nat.two_pow_pos _), Nat.div_eq_of_lt hlt, Nat.zero_add, Nat.mod_mod]
      · have hk' : k < n := by omega
        rw [← hd k hk']
        have : f n % 2 ^ w * 2 ^ (w * n) = 2 ^ (w * k) * (2 ^ w * (f n % 2 ^ w * 2 ^ (w * (n - k - 1)))) := by
          have : w * n = w * k + (w + w * (n - k - 1)) := by
            have : n = k + (1 + (n - k - 1)) := by omega
            conv_lhs => rw [this]
            ring
          rw [this, pow_add, pow_add]; ring
        rw [this, Nat.add_mul_div_left _ _ (Nat.two_pow_pos _), Nat.add_mul_mod_self_left]

theorem Ty.fits (t : Ty) : t.width * t.count ≤ 64 := by cases t <;> decide
theorem Ty.width_pos (t : Ty) : 0 < t.width := by cases t <;> decide
theorem Ty.count_pos (t : Ty) : 0 < t.count := by cases t <;> decide

theorem packElems_toNat (t : Ty) (f : Nat → Nat) : (packElems t f).toNat =
    (List.range t.count).foldl (fun n k => n + f k % 2 ^ t.width * 2 ^ (t.width * k)) 0 := by
  rw [packElems, BitVec.toNat_ofNat, Nat.mod_eq_of_lt]
  exact lt_of_lt_of_le (digits_fold t.width f t.count).1 (Nat.pow_le_pow_right (by omega) (Ty.fits t))

/-- An element of a packed value. -/
theorem elemU_packElems (t : Ty) (f : Nat → Nat) (k : Nat) (hk : k < t.count) :
    elemU t (packElems t f) k = f k % 2 ^ t.width := by
  rw [elemU, packElems_toNat, (digits_fold t.width f t.count).2 k hk]

/-- The bits above the last element are zero. -/
theorem packElems_lt (t : Ty) (f : Nat → Nat) : (packElems t f).toNat < 2 ^ (t.width * t.count) := by
  rw [packElems_toNat]; exact (digits_fold t.width f t.count).1

theorem elemU_lt (t : Ty) (x : Word) (k : Nat) : elemU t x k < 2 ^ t.width := Nat.mod_lt _ (Nat.two_pow_pos _)

/-- A packed value stands in a relation when each of its elements, below 2^w, does. -/
theorem byElem_packElems {t : Ty} {f : Nat → Nat} {R : Nat → Nat → Prop}
    (h : ∀ k, k < t.count → R k (f k % 2 ^ t.width)) : ByElem t (packElems t f) R :=
  ⟨fun k hk => by rw [elemU_packElems t f k hk]; exact h k hk, packElems_lt t f⟩

theorem wrapTo_lt (w : Nat) (r : Int) : wrapTo w r < 2 ^ w := by
  have h1 := Int.emod_lt_of_pos r (show (0 : Int) < ((2 ^ w : Nat) : Int) by positivity)
  have h2 := Int.emod_nonneg r (show ((2 ^ w : Nat) : Int) ≠ 0 by positivity)
  unfold wrapTo; omega

/-- Wrapping keeps an integer modulo 2^w. -/
theorem dvd_wrapTo (w : Nat) (r : Int) : ((2 ^ w : Nat) : Int) ∣ (wrapTo w r : Int) - r := by
  have h2 := Int.emod_nonneg r (show ((2 ^ w : Nat) : Int) ≠ 0 by positivity)
  rw [wrapTo, Int.toNat_of_nonneg h2]
  exact (Int.dvd_sub_self_of_emod_eq rfl)

theorem fits_fitTo (t : Ty) (sat : Bool) (r : Int) : Fits t sat r (fitTo t sat r) :=
  ⟨wrapTo_lt _ _, dvd_wrapTo _ _⟩

/-- The elements of an arithmetic result (R157). -/
theorem byElem_elemwise (t : Ty) (sat : Bool) (op : Int → Int → Int → Int) (a b c : Word) :
    ByElem t (elemwise t sat op a b c) (fun k n => Fits t sat (op (elemI t a k) (elemI t b k) (elemI t c k)) n) := by
  refine byElem_packElems (fun k _ => ?_)
  rw [Nat.mod_eq_of_lt (fits_fitTo t sat _).1]
  exact fits_fitTo t sat _

/-- The elements of an unsigned result. -/
theorem byElem_elemwiseU (t : Ty) (op : Nat → Nat → Nat) (a b : Word) {R : Nat → Nat → Prop}
    (h : ∀ k, k < t.count → R k (op (elemU t a k) (elemU t b k) % 2 ^ t.width)) : ByElem t (elemwiseU t op a b) R :=
  byElem_packElems h

end Sys2Proof.Machine
end

