-- ==== Sys2Proof/Laws/Xlat.lean ====
section
/-! SUPPORT. What a step of a stage-2 walk and the walk itself answer, once. -/

namespace Sys2Proof.Machine

/-- An entry that leads on is valid, is no leaf, stands above the last level, and names the next table. -/
theorem s2Step_table {e : Word} {level t : Nat} (h : s2Step e level = some (.inl t)) :
    okS2 e = true ∧ bitsOf e 6 1 ≠ 1 ∧ level ≠ 4 ∧ t = entryAddr e := by
  unfold s2Step at h
  split_ifs at h <;> simp_all

/-- An entry that maps is a valid leaf, of a level that may map. -/
theorem s2Step_leaf {e e' : Word} {level : Nat} (h : s2Step e level = some (.inr e')) :
    e' = e ∧ okS2 e = true ∧ bitsOf e 6 1 = 1 ∧ 2 ≤ level := by
  unfold s2Step at h
  split_ifs at h with h1 h2 h3
  · have he : e = e' := by simpa using h
    exact ⟨he.symm, by simpa using h1, h2, by omega⟩
  · simp at h

/-- The pages that an entry of a level maps hold the page of the address that is looked up. -/
theorem page_mem (ipa level : Nat) : ipa / levelSize level * levelPages level ≤ ipa / 4096 ∧
    ipa / 4096 < ipa / levelSize level * levelPages level + levelPages level := by
  have hs : levelSize level = 4096 * levelPages level := by rw [levelSize, levelPages, Nat.pow_add]
  have hp : 0 < levelPages level := Nat.two_pow_pos _
  rw [hs, ← Nat.div_div_eq_div_mul]
  exact ⟨Nat.div_mul_le_self _ _, Nat.lt_div_mul_add hp⟩

/-- The leaf of a walk is an entry of the tables, right in form, whose pages hold the address. -/
theorem Xlat.s2walk_leaf (x : Xlat) (p ipa : Nat) {l : S2Leaf} : ∀ (ls : List (Nat × Nat × Nat)) (table : Nat),
    (x.s2walk p ipa ls table).2 = some l →
      Map.get x.s2tab 0 l.at_ = l.entry ∧ okS2 l.entry = true ∧ bitsOf l.entry 6 1 = 1 ∧
        l.page ≤ ipa / 4096 ∧ ipa / 4096 < l.page + levelPages l.level
  | [], _, h => by simp [Xlat.s2walk] at h
  | (level, lo, n) :: rest, table, h => by
    rw [Xlat.s2walk] at h
    dsimp only at h
    split at h
    · simp at h
    · next e he =>
      obtain ⟨rfl, ho, hb, -⟩ := s2Step_leaf he
      obtain rfl := Option.some.inj h
      exact ⟨rfl, ho, hb, page_mem ipa level⟩
    · exact Xlat.s2walk_leaf x p ipa rest _ h

/-- The leaf that maps an intermediate address (R350). -/
theorem Xlat.s2find_leaf {x : Xlat} {ipa : Nat} {l : S2Leaf} (h : x.s2find ipa = some l) :
    Map.get x.s2tab 0 l.at_ = l.entry ∧ okS2 l.entry = true ∧ bitsOf l.entry 6 1 = 1 ∧
      l.page ≤ ipa / 4096 ∧ ipa / 4096 < l.page + levelPages l.level :=
  x.s2walk_leaf 0 ipa walkLevels x.s2root h

/-- Every entry that a walk of a polder reads is tagged with it and with stage 2, and holds the address. -/
theorem Xlat.s2walk_reads (x : Xlat) (p ipa : Nat) : ∀ (ls : List (Nat × Nat × Nat)) (table : Nat),
    ∀ c ∈ (x.s2walk p ipa ls table).1, c.polder = p ∧ c.stage = 2 ∧ c.has (ipa / 4096) = true
  | [], _ => by simp [Xlat.s2walk]
  | (level, lo, n) :: rest, table => by
    have hc : (⟨p, 2, ipa / levelSize level * levelPages level, level, Map.get x.s2tab 0 (table + 8 * (ipa / 2 ^ lo % 2 ^ n))⟩ : Cached).has
        (ipa / 4096) = true := by simpa [Cached.has] using page_mem ipa level
    rw [Xlat.s2walk]
    dsimp only
    split
    · simp
    · simpa using hc
    · intro c h
      rcases List.mem_cons.mp h with rfl | h
      · exact ⟨rfl, rfl, hc⟩
      · exact Xlat.s2walk_reads x p ipa rest _ c h

end Sys2Proof.Machine
end

