-- ==== Sys2Proof/Tests/Slice0.lean ====
section
/-! SUPPORT. Tests: ill-formed terms that well-formedness refuses, words that decode, single steps on the spec's worked values, and
for every statement with hypotheses a concrete state and operands that meet them. -/

namespace Sys2Proof.Tests

open Sys2Proof Sys2Proof.Machine

set_option Elab.async false

/-- A header without predicate, flag or fence. -/
def hd : Hdr := { pr := 7, pn := false, lf := false, fs := false }
/-- The same with the load flag. -/
def hf : Hdr := { hd with lf := true }
/-- Round to nearest, and no rounding field to obey. -/
def rn : Rnd := { dyn := false, rm := 0 }
/-- No source modifier. -/
def m0 : Mod := { abs := false, neg := false }
/-- Addressing of a record with an index register in the vector file and no order. -/
def ma (w : BitVec 4) : MAddr := { rc := 2, ix := .v 9, scope := 0, order := 0, width := w, off := 64 }
/-- A matrix operation on f64 tiles. -/
def mf : MmaF := { ty := .f64, areg := 8, breg := 16, tile := 3, conv := 0, fw := 0, shape := 0, sat := false, zacc := false }
/-- The format word of f64 operands with f64 accumulators. -/
def fmt64 : BitVec 32 := 0x888

/-! ### Well-formedness -/

/-- One ill-formed term for each check. -/
theorem test_wf_refuses : ([
    .nop { hd with fs := true }, .iadd hd .f32 false 1 (.v 2) (.v 3), .iadd hd .i32 false 1 (.s 96) (.v 3), .iabs hd .u32 false 1 (.v 2),
    .icmp hd .i32 6 false 1 (.v 2) (.v 3), .icmp hd .i32 0 true 1 (.v 2) (.v 3), .icmp hd .i32 0 false 8 (.v 2) (.v 3),
    .plop hd 1 (.v 8) (.v 1) (.v 2) 0, .brxU hd 96, .bfx hd .i8x8 1 (.v 2) (.v 3), .bsFill hd 1 .zero 0, .bsSeek hd 3 1 (.v 2),
    .movi hd .f32 1 0, .uadd hd false 96 1 (.reg 2), .uadd hd false 1 2 (.reg 96), .umul hd 3 1 2 (.reg 3), .utern hd 1 2 (.reg 3) 96 0,
    .ushift hd 5 1 2 (.reg 3), .ucmp hd 6 false 1 2 (.reg 3), .sreg hd 1 0x0A, .sset hd 0x00 (.v 1),
    .fadd hd .i32 rn 1 (.v 2) (.v 3) m0 m0, .fadd hd .f32 { dyn := true, rm := 1 } 1 (.v 2) (.v 3) m0 m0,
    .fcmp hd .f32 0 true 1 (.v 2) (.v 3) m0 m0, .fcvt hd .f32 .f16x4 0 rn 1 (.v 2) m0, .fcvt hd .log6x10 .log6x10 0 rn 1 (.v 2) { m0 with neg := true },
    .icvt hd .f32 .f32 0 rn 1 (.v 2), .frcp hd .f64 rn 1 (.v 2) m0, .fdiv hd .f16x4 rn 1 (.v 2) (.v 3) m0 m0, .qx hd 3 1 (.v 2),
    .fold hd .f32 3 false rn 1 (.v 2) m0, .fold hd .i32 1 true rn 1 (.v 2) m0, .fold hd .i32 0 false { dyn := false, rm := 1 } 1 (.v 2) m0,
    .pack hd .f32x2 .f32x2 1 rn 1 (.v 2) (.v 3) m0 m0, .ld hd .u32 2 1 (ma 2), .ld hd .u32 0 1 (ma 3), .ld hd .u64 0 1 (ma 6),
    .ld hd .u64 0 1 { ma 3 with order := 1 }, .ld hd .u64 0 1 { ma 3 with scope := 1, order := 2 }, .ld hd .u64 0 1 { ma 3 with scope := 7, order := 1 },
    .st hd .u64 0 1 { ma 3 with scope := 1, order := 1 }, .ld hd .u64 0 1 { ma 4 with scope := 1, order := 1 },
    .atom hd .u64 8 1 2 { ma 3 with scope := 1 }, .atom hd .f64 1 1 2 { ma 3 with scope := 1 }, .atom hd .u64 0 1 2 (ma 3),
    .atom hd .u64 0 1 2 { ma 2 with scope := 1 }, .cas hd .f64 0 1 2 3 { ma 3 with scope := 1 }, .fence hd 0 3, .recSet hd 1 93, .recGet hd 1 93,
    .spill hd true 1 1 0, .fill hd true 1 6 0, .barInit hd 3 1 0 (.reg 2), .mma hd { mf with shape := 1 }, .mma hd { mf with sat := true },
    .accPut hd .i64 3 8, .convDecl hd 3 1 0 0, .convDecl hd 2 1 0 94, .fmtw hd 4 1 (.v 2) fmt64, .fmtw hd 0 1 (.v 2) fmt64,
    .fmtw hd 1 1 .zero fmt64, .fmtw hd 0 1 .zero 0x887, .spawn hd false 1 87, .qrunCount hd 1 89] : List Instr).all (fun i => !i.wf) = true := by
  decide +kernel

/-! ### Small states -/

/-- A control core about to perform an instruction in its one lane. -/
def sys : State :=
  { State.reset with ag := { State.reset.ag with cur := { grp := 1, pc := 0, lanes := 1, second := false, flagA := 0, flagB := 1, ops := none } } }

/-- A kernel with launch control and room in every memory. -/
def kern : Kernel := { Kernel.none_ with launchCtl := true, regs := 64, groups := 1, tiles := 4, shared := 65536, spill := 65536 }

/-- A policy that grants everything. -/
def pol : Policy :=
  { version := 1, cdCount := 1, seizeBy := 3, grants := 0xFFFF, holdMax := 0xFFFF, dbgBits := 0, dests := [], ctrGrp := 0, trace := 1, flags := 1,
    minSvn := 0, pk := [], digest := 0 }

/-- Polder 0, on CD 0. -/
def pold : Polder :=
  { handle := 1, saveArea := 2, cds := [0], policy := pol, test := false, keyId := 0, paused := false, seized := false, suspended := false, attach := none,
    ctrGrant := 0, trace := false, sealSeq := 0, injSeed := 0, injRate := 0, injCtl := 0, injCount := 0, vf := Vf.fresh }

/-- Group 13 of block 12 of cluster 11 of launch 10 of polder 0, with two running lanes. -/
def g13 : Group :=
  { Group.control 0 with blk := 12, part := 0, system := false, nregs := 64, ntiles := 4, spillSz := 65536, lanes := [Lane.start 64 false, Lane.start 64 false] }

/-- Its block, cluster and launch. -/
def b12 : Block := { Block.none_ with cluster := 11, launch := 10, place := .live, lanesN := 2, sharedSz := 65536, groups := [13] }
/-- See `b12`. -/
def c11 : Cluster := { Cluster.none_ with launch := 10, kernel := kern, nblocks := 1, lanesN := 2, placed := true, blocks := [12], retired := false }
/-- See `b12`. -/
def l10 : Launch := { Launch.none_ with polder := 0, kernel := kern, counter := 1, nextBlock := 1, nextClus := 1, ranOn := [(0, 0)], done := false, tokened := false }

/-- Its translation: one leaf of 1 GiB at each stage maps the first addresses to DRAM; a window of 64 DWS frames of which two are
allocated. -/
def x0 : Xlat :=
  { Xlat.fresh with s1Root := 0x1001, s2root := 0x1000, s2next := 0x8000, s2tab := [(0x1000, 0x2001), (0x2000, 0x3001), (0x3000, 0x79)], s2dws := (List.range 64).map (fun f => (f, BitVec.ofNat 64 (2 ^ 56 + 4 * f + 1))),
                    window := (List.range 64).map (fun f => (f, ())), allocs := [{ base := 0xFF0000, frames := [0, 1], launch := 10, drawn := 0 }] }

/-- Queue 0 of polder 0: command ring at 0xA000, completions at 0xB000, their indices at 0xC000 and 0xD000. -/
def q0 : Queue :=
  { Queue.none_ with st := .ready, cplLog := 4, cmdLog := 4, cplProd := 0xD000, cplBase := 0xB000, cmdCons := 0xC000, cmdBase := 0xA000, prod := 1 }

/-- The state that an outcome answers. -/
def after (o : Host.Outcome State Fault Refusal) : State := match o with | .next t => t | _ => State.reset

/-- A user group about to perform an instruction in its two lanes, with the block, launch and polder it belongs to. -/
def usr : State :=
  { State.reset with
    ag := { State.reset.ag with cur := { grp := 13, pc := 64, lanes := 3, second := false, flagA := 0, flagB := 1, ops := none } }
    work := { nextKey := 16, groups := State.reset.work.groups ++ [(13, g13)], blocks := [(12, b12)], clusters := [(11, c11)], launches := [(10, l10)], spawns := [] }
    mems := { State.reset.mems with dram := [(0x1000, 1), (0x1001, 0x20), (0x2000, 1), (0x2001, 0x30), (0x3000, 0x79), (0x8000, 0x44), (0x8001, 0x4B), (0x8003, 1), (0x8006, 8), (0x8008, 1), (0x801A, 1), (0x9000, 1)] }
    tr := { State.reset.tr with polder := [(0, x0)] }
    fe := { State.reset.fe with queue := [(0, q0)] }
    trust := { State.reset.trust with polder := [(0, pold)] }
    fab := { State.reset.fab with domain := [] } }

/-- `usr` with its group changed. -/
def usrG (f : Group → Group) : State := usr.modGroup 13 f
/-- `usr` with its block changed. -/
def usrB (f : Block → Block) : State := usr.modBlock 12 f

/-! ### Decoding: words written from the fields of 06 to 11 -/

/-- A word from its opcode, type field, `mod` bits 3:0 and the fields of bits 73:0, each with its lowest bit (R136, R139); the
predicate is p7. -/
def word (opc ty md : Nat) (fields : List (Nat × Nat)) : Nat :=
  opc * 2 ^ 88 + 7 * 2 ^ 85 + ty * 2 ^ 80 + md * 2 ^ 76 + (fields.map (fun f => f.1 * 2 ^ f.2)).sum

/-- Every word of a list decodes to its instruction. -/
abbrev Reads (l : List (Nat × Instr)) : Prop := ∀ p ∈ l, decode p.1 = .ok p.2

/-- R136, R137, R133: the header's predicate, its negation, the load flag and the flag select. -/
theorem test_decode_header : Reads [
    (0x0A * 2 ^ 88 + 3 * 2 ^ 85 + 2 ^ 84 + 2 ^ 75 + 2 ^ 74, .nop { pr := 3, pn := true, lf := true, fs := true }),
    (0x0A * 2 ^ 88 + 5 * 2 ^ 85 + 2 ^ 75, .nop { pr := 5, pn := false, lf := true, fs := false })] := by decide +kernel

/-- R146 to R156; the first word is the spec's worked branch. -/
theorem test_decode_control : Reads [
    (0x015003FFFFFFF40000000000, .bra { pr := 2, pn := true, lf := false, fs := false } (-3) 0),
    (word 0x02 0 0 [(200, 31)], .brx hd 200), (word 0x02 0 1 [(95, 31)], .brxU hd 95),
    (word 0x03 0 0 [(5, 42), (4, 39), (31, 31)], .call hd 31 5 4), (word 0x03 0 1 [(31, 31), (77, 0)], .callR hd 31 77),
    (word 0x04 0 0 [(31, 31)], .ret hd 31), (word 0x05 0 0 [], .exit hd), (word 0x06 0 0 [(15, 27)], .joinEnrol hd 15),
    (word 0x07 0 0 [(14, 27)], .joinWait hd 14), (word 0x08 0 0 [(1, 27)], .joinLeave hd 1), (word 0x09 0 0 [], .yield hd),
    (0x0AE000000000000000000000, .nop hd), (word 0x0B 0 0 [(0xFFFF, 0)], .trap hd 0xFFFF), (word 0x0C 0 0 [(0x8001, 0)], .brk hd 0x8001),
    (word 0x0D 0 0 [(1, 66), (2, 58), (3, 50), (1, 38), (2, 36), (0xCA, 0)], .plop hd 1 (.v 2) (.s 3) .zero 0xCA),
    (word 0x0E 0 0 [(1, 66), (2, 58), (2, 38), (2, 36)], .lmaskEvery hd 1 (.v 2)), (word 0x0E 0 1 [(1, 66), (2, 58), (2, 38), (2, 36)], .lmaskSome hd 1 (.v 2)),
    (word 0x0E 0 2 [(1, 66), (2, 58), (2, 38), (2, 36)], .lmaskAlike hd 1 (.v 2)), (word 0x0E 0 3 [(9, 66), (2, 58), (2, 38), (2, 36)], .lmaskBits hd 9 (.v 2)),
    (word 0x0E 0 4 [(9, 66), (2, 58), (2, 38), (2, 36)], .lmaskCount hd 9 (.v 2)), (word 0x0E 0 5 [(9, 66), (60, 58), (1, 40), (2, 38), (2, 36)], .lmaskRank hd 9 (.s 60)),
    (word 0x0F 0 0 [(7, 58), (1, 56), (500, 0)], .sleep hd (.s 7) 500)] := by decide +kernel

/-- R157 to R168, R163; the second and third words are the spec's. -/
theorem test_decode_integer : Reads [
    (word 0x20 4 1 [(1, 66), (2, 58), (3, 50), (2, 36)], .iadd hd .i8x8 true 1 (.v 2) (.v 3)), (0x20E2005054580020_00000000, .iadd hd .i64 false 20 (.v 21) (.v 22)),
    (0x39E1002402000000_00001234, .movi hd .u32 9 0x1234), (word 0x21 0xE 0 [(1, 66), (2, 58), (3, 50), (2, 36)], .isub hd .i32x2 false 1 (.v 2) (.v 3)),
    (word 0x22 3 1 [(1, 66), (2, 58), (3, 50), (1, 38), (2, 36)], .imul hd .u64 true 1 (.v 2) (.s 3)), (word 0x23 1 0 [(1, 66), (2, 58), (3, 50), (2, 36)], .imulh hd .u32 1 (.v 2) (.v 3)),
    (word 0x24 6 0 [(1, 66), (2, 58), (3, 50), (4, 42), (1, 36)], .imad hd .i16x4 false 1 (.v 2) (.v 3) (.s 4)), (word 0x25 7 0 [(1, 66), (2, 58), (2, 38), (2, 36)], .imin hd .u16x4 1 (.v 2) .zero),
    (word 0x26 5 0 [(1, 66), (2, 58), (3, 50), (2, 36)], .imax hd .u8x8 1 (.v 2) (.v 3)), (word 0x27 0 1 [(1, 66), (2, 58), (2, 38), (2, 36)], .iabs hd .i32 true 1 (.v 2)),
    (word 0x28 4 0xB [(6, 66), (2, 58), (3, 50), (2, 36)], .icmp hd .i8x8 3 true 6 (.v 2) (.v 3)), (word 0x29 0 0 [(1, 66), (2, 58), (3, 50), (2, 36)], .shl hd .i32 1 (.v 2) (.v 3)),
    (word 0x2A 1 0 [(1, 66), (2, 58), (3, 50), (2, 36)], .shr hd .u32 1 (.v 2) (.v 3)), (word 0x2B 2 0 [(1, 66), (2, 58), (3, 50), (2, 36)], .sar hd .i64 1 (.v 2) (.v 3)),
    (word 0x2C 0xF 1 [(1, 66), (2, 58), (3, 50), (2, 36)], .rot hd .u32x2 true 1 (.v 2) (.v 3)), (word 0x2D 0 0 [(1, 66), (2, 58), (3, 50), (4, 42), (0x96, 0)], .tern hd 1 (.v 2) (.v 3) (.v 4) 0x96),
    (word 0x2E 3 0 [(1, 66), (2, 58), (2, 38), (2, 36)], .popc hd .u64 1 (.v 2)), (word 0x2F 3 0 [(1, 66), (2, 58), (2, 38), (2, 36)], .clz hd .u64 1 (.v 2)),
    (word 0x30 3 0 [(1, 66), (2, 58), (2, 38), (2, 36)], .ctz hd .u64 1 (.v 2)), (word 0x31 3 0 [(1, 66), (2, 58), (2, 38), (2, 36)], .brev hd .u64 1 (.v 2)),
    (word 0x32 0 0 [(1, 66), (2, 58), (3, 50), (2, 36)], .bfx hd .i32 1 (.v 2) (.v 3)), (word 0x33 3 0 [(1, 66), (2, 58), (3, 50), (4, 42)], .bfi hd .u64 1 (.v 2) (.v 3) (.v 4)),
    (word 0x34 1 1 [(1, 66), (10, 58), (3, 50), (2, 36)], .bsRead hd .u32 true 1 10 (.v 3)), (word 0x35 0 0 [(10, 66), (3, 58), (1, 40), (2, 38), (2, 36), (4, 0)], .bsFill hd 10 (.s 3) 4),
    (word 0x36 3 1 [(10, 66), (3, 58), (2, 38), (2, 36)], .bsSeek hd 1 10 (.v 3)), (word 0x37 0 0 [(1, 66), (2, 58), (3, 50), (2, 36), (0xB, 0)], .sel hd 1 (.v 2) (.v 3) 3 true),
    (word 0x38 0 0 [(1, 66), (2, 58), (1, 40), (2, 38), (2, 36)], .mov hd 1 (.s 2)), (word 0x39 3 1 [(9, 66), (2, 56), (0xDEADBEEF, 0)], .moviHi hd 9 0xDEADBEEF),
    (word 0x3A 0 0 [(1, 66), (2, 58), (3, 50), (2, 36), (7, 0)], .lea hd 1 (.v 2) (.v 3) 7), (word 0x3A 0 1 [(1, 66), (3, 50), (2, 40), (2, 36), (2, 0)], .leaPc hd 1 (.v 3) 2)] := by
  decide +kernel

/-- R169 to R172. -/
theorem test_decode_uniform : Reads [
    (word 0x3B 0 1 [(5, 66), (6, 58), (1, 32), (0xFFFFFFFF, 0)], .uadd hd true 5 6 (.imm 0xFFFFFFFF)), (word 0x3B 0 0 [(5, 66), (6, 58), (7, 50)], .uadd hd false 5 6 (.reg 7)),
    (word 0x3C 0 2 [(5, 66), (6, 58), (7, 50)], .umul hd 2 5 6 (.reg 7)), (word 0x3D 0 0 [(5, 66), (6, 58), (7, 50), (95, 43), (0xE8, 33)], .utern hd 5 6 (.reg 7) 95 0xE8),
    (word 0x3E 0 4 [(5, 66), (6, 58), (1, 32), (3, 0)], .ushift hd 4 5 6 (.imm 3)), (word 0x3F 0 0xD [(5, 66), (6, 58), (7, 50)], .ucmp hd 5 true 5 6 (.reg 7)),
    (word 0x40 0 0 [(5, 66), (6, 58)], .umov hd 5 6), (word 0x40 0 1 [(5, 66), (6, 0)], .umovSx hd 5 6), (word 0x40 0 2 [(5, 66), (6, 0)], .umovZx hd 5 6),
    (word 0x40 0 3 [(5, 66), (6, 0)], .umovHi hd 5 6), (word 0x40 0 4 [(5, 66), (200, 58)], .umovV hd 5 200), (word 0x41 0 0 [(5, 66), (6, 58)], .upredSet hd 5 6),
    (word 0x41 0 1 [(5, 66), (6, 58)], .upredGet hd 5 6), (word 0x41 0 2 [(5, 66), (6, 58)], .upredNz hd 5 6), (word 0x42 0 0 [(5, 66), (2, 56), (8, 0)], .sreg hd 5 8),
    (word 0x42 0 1 [(5, 66), (2, 56), (0x19, 0)], .sregU hd 5 0x19)] := by decide +kernel

/-- R175 to R193; the words of `fadd`, `fdiv`, `ffma` and `fcvt` of a pack are the spec's. -/
theorem test_decode_float : Reads [
    (0x50E90014181C002000000021, .fadd hd .f32 { dyn := false, rm := 1 } 5 (.v 6) (.v 7) m0 { m0 with neg := true }), (0x52E8000C1020400000000000, .ffma hd .f64 rn 3 (.v 4) (.v 8) (.v 16) m0 m0 m0),
    (0x5DE808A0A4A8002000000000, .fdiv hf .f64 rn 40 (.v 41) (.v 42) m0 m0), (0x66EA00300C30002000009A00, .pack hd .f32x2 .log6x10 4 rn 12 (.v 3) (.v 12) m0 m0),
    (word 0x51 0xA 0 [(1, 66), (2, 58), (3, 50), (2, 36), (0x5C, 0)], .fmul hd .f32x2 { dyn := true, rm := 0 } 1 (.v 2) (.v 3) { abs := true, neg := true } { m0 with abs := true }),
    (word 0x52 9 0 [(1, 66), (2, 58), (3, 50), (4, 42), (0x180, 0)], .ffma hd .f32 rn 1 (.v 2) (.v 3) (.v 4) m0 m0 { abs := true, neg := true }),
    (word 0x53 0xB 1 [(1, 66), (2, 58), (3, 50), (2, 36)], .fmin hd .f16x4 true 1 (.v 2) (.v 3) m0 m0), (word 0x54 0xC 0 [(1, 66), (2, 58), (3, 50), (2, 36)], .fmax hd .bf16x4 false 1 (.v 2) (.v 3) m0 m0),
    (word 0x55 0xA 0xF [(1, 66), (2, 58), (3, 50), (2, 36)], .fcmp hd .f32x2 7 true 1 (.v 2) (.v 3) m0 m0), (word 0x56 8 0 [(1, 66), (2, 58), (2, 38), (2, 36)], .fclass hd .f64 1 (.v 2) m0),
    (word 0x57 0xA 0 [(1, 66), (2, 58), (2, 38), (2, 36), (1, 13), (8, 9)], .fcvt hd .f32x2 .f64 1 rn 1 (.v 2) m0), (word 0x58 2 0 [(1, 66), (2, 58), (2, 38), (2, 36), (9, 9), (3, 0)], .icvt hd .i64 .f32 0 { dyn := false, rm := 3 } 1 (.v 2)),
    (word 0x59 8 0 [(1, 66), (2, 58), (2, 38), (2, 36), (2, 9), (8, 0)], .fcvti hd .f64 .i64 0 rn 1 (.v 2) { m0 with neg := true }), (word 0x5A 9 0 [(1, 66), (2, 58), (2, 38), (2, 36)], .frcp hd .f32 rn 1 (.v 2) m0),
    (word 0x5B 9 0 [(1, 66), (2, 58), (2, 38), (2, 36)], .frsq hd .f32 rn 1 (.v 2) m0), (word 0x5C 8 0 [(1, 66), (2, 58), (2, 38), (2, 36)], .fsqrt hd .f64 rn 1 (.v 2) m0),
    (word 0x5E 0xA 0 [(1, 66), (2, 58), (2, 38), (2, 36)], .fex2 hd .f32x2 rn 1 (.v 2) m0), (word 0x5F 9 0 [(1, 66), (2, 58), (2, 38), (2, 36)], .flg2 hd .f32 rn 1 (.v 2) m0),
    (word 0x60 9 0 [(1, 66), (2, 58), (2, 38), (2, 36)], .fsin hd .f32 rn 1 (.v 2) m0), (word 0x61 9 0 [(1, 66), (2, 58), (2, 38), (2, 36)], .fcos hd .f32 rn 1 (.v 2) m0),
    (word 0x62 4 0 [(1, 66), (2, 58), (3, 50), (2, 36)], .xlane hd .i8x8 1 (.v 2) (.v 3) m0), (word 0x63 0 2 [(1, 66), (2, 58), (2, 38), (2, 36)], .qx hd 2 1 (.v 2)),
    (word 0x64 0 8 [(1, 66), (2, 58), (2, 38), (2, 36)], .fold hd .i32 0 true rn 1 (.v 2) m0), (word 0x65 9 0xA [(1, 66), (2, 58), (2, 38), (2, 36)], .scan hd .f32 2 true rn 1 (.v 2) m0),
    (word 0x67 8 0 [(1, 66), (2, 58), (3, 50), (2, 36)], .fscale hd .f64 rn 1 (.v 2) (.v 3) m0), (word 0x68 9 1 [(1, 66), (2, 58), (2, 38), (2, 36), (2, 0)], .frnd hd .f32 true { dyn := false, rm := 2 } 1 (.v 2) m0)] := by
  decide +kernel

/-- R195 to R225; the first word is the spec's. -/
theorem test_decode_memory : Reads [
    (0x80E1101481C0200001000000, .ld hd .u32 1 5 { rc := 2, ix := .v 7, scope := 0, order := 0, width := 2, off := 16 }),
    (word 0x81 3 0 [(1, 66), (15, 62), (95, 54), (1, 53), (2, 50), (2, 48), (3, 44), (0xFFFFFF, 20)], .st hd .u64 0 1 { rc := 15, ix := .s 95, scope := 2, order := 2, width := 3, off := -1 }),
    (word 0x82 9 7 [(1, 66), (2, 62), (9, 54), (6, 50), (3, 48), (2, 44), (4, 12)], .atom hd .f32 7 1 4 { rc := 2, ix := .v 9, scope := 6, order := 3, width := 2, off := 0 }),
    (word 0x83 2 1 [(1, 66), (2, 62), (9, 54), (1, 50), (3, 44), (4, 12), (5, 0)], .cas hd .i64 1 1 4 5 { rc := 2, ix := .v 9, scope := 1, order := 0, width := 3, off := 0 }),
    (word 0x84 0 0 [(5, 50), (1, 48)], .fence hd 5 1), (word 0x85 0 0 [(92, 43), (3, 32)], .recSet hd 3 92), (word 0x85 0 1 [(7, 58), (3, 32)], .recSetBase hd 3 7),
    (word 0x85 0 2 [(7, 58), (3, 32)], .recSetAdv hd 3 7), (word 0x86 0 0 [(92, 43), (3, 32)], .recGet hd 3 92), (word 0x87 0 1 [(20, 66), (5, 44), (64, 20)], .spill hd true 20 5 64),
    (word 0x88 0 1 [(20, 66), (2, 44), (0xFFFFFC, 20)], .fill hd true 20 2 (-4)), (word 0x89 0 0 [(1, 66), (31, 32), (1, 37), (2, 38), (8, 0)], .barInit hd 2 1 31 (.imm 8)),
    (word 0x8A 0 0 [(1, 66), (16, 32), (1, 38)], .barArrive hd true 1 16), (word 0x8B 0 0 [(7, 58), (3, 32)], .barWait hd 3 (.reg 7)), (word 0x8C 0 0 [(1, 66), (3, 32), (1, 37), (1, 38), (1, 0)], .barTest hd true 1 3 (.imm 1)),
    (word 0x8D 0 1 [(1, 66), (2, 58)], .tagWaitany hd true 1 2), (word 0x8E 0 0 [(1, 66), (2, 58)], .tagWaitall hd false 1 2), (word 0x8F 0 1 [(1, 66), (2, 58)], .tagFirst hd true 1 2),
    (word 0x90 0 0 [(1, 66), (2, 58)], .tagRead hd 1 2), (word 0x90 0 1 [(1, 66), (2, 58)], .tagReadSt hd 1 2), (word 0x91 0 0 [(2, 58)], .tagClear hd 2),
    (word 0x92 0 0 [(1, 66), (2, 58), (3, 50)], .cmapWait hd 1 2 3), (word 0x93 0 0 [(1, 66), (2, 58), (3, 50)], .cmapTest hd 1 2 3),
    (word 0x94 0 0 [(1, 66), (2, 58), (3, 50), (16, 0)], .ringBind hd 1 2 3 16), (word 0x95 0 0 [(1, 66), (2, 58)], .ringUnbind hd 1 2), (word 0x96 0 0 [(1, 66), (2, 58), (1, 32), (64, 0)], .dwsPin hd 1 2 (.imm 64)),
    (word 0x97 0 0 [(1, 66), (2, 58), (3, 50)], .dwsUnpin hd 1 2 (.reg 3)), (word 0x98 0 0 [(1, 66), (2, 58)], .dwsAlloc hd 1 (.reg 2)), (word 0x99 0 0 [(1, 66), (2, 58)], .dwsFree hd 1 2)] := by
  decide +kernel

/-- R227 to R245; the word of `fmtw` is the spec's. -/
theorem test_decode_matrix : Reads [
    (word 0xA0 0xC 0 [(16, 66), (18, 58), (1, 53), (2, 50), (20, 42), (2, 38), (1, 36)], .mma hd { ty := .bf16x4, areg := 16, breg := 18, tile := 1, conv := 2, fw := 20, shape := 2, sat := false, zacc := true }),
    (word 0xA1 4 0 [(16, 66), (24, 58), (31, 53), (7, 50), (20, 42), (4, 38), (1, 37)], .mmaBatch hd { ty := .i8x8, areg := 16, breg := 24, tile := 31, conv := 7, fw := 20, shape := 4, sat := true, zacc := false }),
    (word 0xA2 0 0 [], .mfence hd), (word 0xA3 0 0 [(31, 53)], .mwait hd 31), (word 0xA3 0 1 [], .mwaitAll hd), (word 0xA4 0 0 [(8, 66), (3, 53)], .accPut hd .i32 3 8), (word 0xA5 9 0 [(8, 66), (3, 53)], .accGet hd .f32 8 3),
    (word 0xA6 8 0 [(3, 53)], .accZero hd .f64 3), (word 0xA7 0 0 [(1, 66), (93, 43), (5, 32), (2, 35)], .convDecl hd 2 1 5 93), (word 0xA7 0 1 [(1, 66), (5, 32)], .convDeclFree hd 1 5),
    (word 0xA8 0 0 [(1, 66), (7, 32)], .convRead hd 1 7), (0xA9E0005002000000000009CC, .fmtw hd 0 20 .zero 0x9CC), (word 0xA9 0 3 [(20, 66), (4, 58), (1, 56), (0x888, 0)], .fmtw hd 3 20 (.s 4) 0x888)] := by decide +kernel

/-- R248, R249. -/
theorem test_decode_system : Reads [
    (word 0xB0 0 1 [(1, 66), (86, 43)], .spawn hd true 1 86), (word 0xB1 0 0 [(1, 66), (2, 58)], .spawnWait hd 1 2), (word 0xB2 0 0 [(1, 66), (88, 43)], .qrunCount hd 1 88), (word 0xB2 0 1 [(1, 66), (40, 43)], .qrunStop hd 1 40),
    (word 0xB2 0 2 [(1, 66), (40, 43)], .qrunStep hd 1 40), (word 0xB2 0 3 [(1, 66), (40, 43)], .qrunResume hd 1 40), (word 0xB2 0 4 [(1, 66), (40, 43)], .qrunKill hd 1 40),
    (word 0xB2 0 5 [(1, 66), (9, 50), (40, 43)], .qrunRead hd 1 40 9), (word 0xB2 0 6 [(1, 66), (9, 50), (40, 43)], .qrunWrite hd 1 40 9), (word 0xB3 0 0 [(1, 32), (7, 0)], .qterm hd (.imm 7)),
    (word 0xB4 0 0 [], .preDone hd), (word 0xB5 0 0 [(1, 66)], .preWait hd 1), (word 0xB6 0 0 [], .rgn hd), (word 0xB7 0 0 [(2, 42), (1, 39), (30, 31)], .dikeOpen hd 30 2 1), (word 0xB8 0 0 [], .dikeClose hd),
    (word 0xB9 0 0 [(3, 32)], .icinv hd 3), (word 0xBA 0 0 [(1, 66), (1, 32), (0x301, 0)], .ctrRead hd 1 (.imm 0x301)), (word 0xBB 0 0 [], .eret hd), (word 0xBB 0 1 [], .eretNext hd),
    (word 0xBC 0 0 [(2, 58), (0x18, 0)], .sset hd 0x18 (.v 2)), (word 0xBD 0 0 [], .halt hd), (word 0xBD 0 1 [], .haltStop hd), (word 0xBE 0 1 [(1, 66), (88, 43), (3, 32)], .mboxRecv hd true 1 88 3),
    (word 0xBF 0 0 [(1, 66), (2, 58), (88, 43)], .mboxSend hd false 1 2 88)] := by decide +kernel

/-- R141, R138: unassigned opcodes, reserved bits, kind 11, a register field under kind 10. -/
theorem test_decode_refuses : (∀ w ∈ [0, 2 ^ 96 - 1, word 0x10 0 0 [], word 0x43 0 0 [], word 0x69 0 0 [], word 0x9A 0 0 [], word 0xAA 0 0 [], word 0xC0 0 0 []],
      decode w = .error .illegalOpcode) ∧
    ∀ w ∈ [word 0x0A 0 0 [(1, 0)], word 0x0A 1 0 [], word 0x05 0 1 [], word 0x38 0 0 [(3, 40), (2, 38), (2, 36)], word 0x38 0 0 [(2, 38), (1, 36)],
      word 0x20 2 0 [(1, 50), (2, 38), (2, 36)], word 0x80 2 4 [(3, 44)], word 0xB2 0 7 [], word 0xBD 0 2 []], decode w = .error .illegalEncoding := by
  decide +kernel

/-! ### The hypotheses of the statements can be met -/

/-- StepRunsTheDecodedInstruction: a placed word is fetched and decodes; an event and an idle clock. -/
theorem witness_step : (let s := sys.withFetchWord 96 (word 0x0A 0 0 [])
      match s.ag.todo with
      | .issue b :: _ => decide ((s.group b.grp).atPc b.lanes b.pc ≠ 0) &&
          (match (s.group b.grp).lineAt b.pc with | some bytes => decide (decode (lineSlot bytes (pcSlot b.pc)) = .ok (.nop hd)) | _ => false)
      | _ => false) = true ∧
    State.reset.ag.todo = [] ∧ State.reset.ag.inputs = [] ∧ Instr.wf (.nop hd) = true ∧ (encode (.nop hd)).isSome = true := by
  refine ⟨by decide +kernel, rfl, rfl, by decide +kernel, by decide +kernel⟩

/-- StepGoesOnAndKeepsMemoriesCanonical: the machine after reset. -/
theorem witness_canonical : State.reset.Canonical where
  dram := by decide +kernel
  dws := by decide +kernel
  host := by decide +kernel
  sramA := by decide +kernel
  sramB := by decide +kernel
  peer := by intro k m h; exact absurd h (by simp [State.reset])

/-- UnassignedOpcodesAndPrivilegeTrap: an all-zero slot and opcode 0xC0 in a group of one lane, and each privileged instruction in
a user group. -/
theorem witness_traps : (∀ w ∈ [0, 7 * 2 ^ 85, word 0xFF 0 0 [], word 0x43 0 0 [], word 0x10 0 0 [], word 0xC0 0 0 []],
      (let s := sys.withFetchWord 96 w
       match s.ag.todo with
       | .issue b :: rest => decide ((s.group b.grp).atPc b.lanes b.pc ≠ 0 ∧ 0 < (s.group b.grp).lanes.length) &&
           (match (s.group b.grp).lineAt b.pc with
            | some bytes =>
              let t := s.issued b rest bytes
              decide (lineSlot bytes (pcSlot b.pc) = w) && t.ag.cur.lanes.getLsbD 0 &&
                ((t.getP t.src (w / 2 ^ 85 % 8)).getLsbD 0 == decide (w / 2 ^ 84 % 2 = 0)) == decide (w ≠ 0)
            | _ => false)
       | _ => false) = true) ∧
    (∀ i ∈ ([.halt hd, .haltStop hd, .mboxRecv hd true 1 8 3, .mboxSend hd false 1 2 8] : List Instr),
      usr.src.system = false ∧ (usr.running hd i).getLsbD 1 = true ∧ (Map.find? usr.work.groups 13).isSome = true) ∧
    Runs usr hd (.sset hd 0x10 (.v 1)) ∧ Runs usr hd (.sset hd 0x12 (.s 1)) := by decide +kernel

/-- AnEmptyExecutingSetOnlyAdvances: p7 negated. -/
theorem witness_empty : (encode (.nop { hd with pn := true })).isSome = true ∧
    ∀ l, l < 32 → (sys.getP sys.src 7).getLsbD l ^^ true = false := by decide +kernel

/-- OverflowIsDeliveredByTheMode: a result above the range of f32, and one that only rounding carries above it. -/
theorem witness_overflow : (Fmt.of .f32).bias < ((Nat.log2 1 : Nat) : Int) + 200 ∧
    (let f := Fmt.of .f32
     let m := 2 ^ 25 - 1
     ((Nat.log2 m : Nat) : Int) + 103 = f.bias ∧ 2 ^ (f.fbits + 1) ≤ (roundAt 0 false m 103 false (f.bias - f.fbits)).1) := by decide +kernel

/-- The statements on integers, moves and uniform values: each instruction runs. -/
theorem witness_integer : ∀ h ∈ [hd, hf], ∀ i ∈ ([
      .iadd h .u8x8 true 1 (.v 2) (.v 3), .isub h .i32 false 1 (.v 2) (.s 3), .imul h .u64 false 1 (.v 2) .zero, .imulh h .i64 1 (.v 2) (.v 3),
      .imad h .i16x4 true 1 (.v 2) (.v 3) (.v 4), .imin h .u16x4 1 (.v 2) (.v 3), .imax h .i32x2 1 (.v 2) (.v 3), .iabs h .i64 true 1 (.v 2),
      .icmp h .i8x8 5 true 1 (.v 2) (.v 3), .icmp h .u32 0 false 7 (.v 2) (.v 3), .shl h .u64 1 (.v 2) (.v 3), .shr h .i8x8 1 (.v 2) (.v 3),
      .sar h .i32 1 (.v 2) (.v 3), .rot h .u16x4 true 1 (.v 2) (.v 3), .tern h 1 (.v 2) (.v 3) (.v 4) 0x96, .utern h 1 2 (.imm 7) 3 0xE8,
      .plop h 1 (.v 2) (.s 3) .zero 0xCA, .popc h .u64 1 (.v 2), .clz h .u32 1 (.v 2), .ctz h .u32 1 (.v 2), .brev h .u8x8 1 (.v 2),
      .bfx h .i32 1 (.v 2) (.v 3), .bfi h .u64 1 (.v 2) (.v 3) (.v 4), .sel h 1 (.v 2) (.v 3) 3 true, .mov h 1 (.s 2), .movi h .i64 1 0xFFFFFFFF,
      .moviHi h 1 5, .lea h 1 (.v 2) (.v 3) 7, .leaPc h 1 (.v 2) 0, .umov h 1 2, .umovSx h 1 5, .umovZx h 1 5, .umovHi h 1 5, .umovV h 1 255,
      .upredSet h 7 2, .upredGet h 95 7, .upredNz h 1 2, .sreg h 1 8, .sregU h 1 0x12, .sset h 0x10 (.v 1), .bsRead h .i64 false 1 10 (.v 3),
      .bsFill h 10 (.v 3) 4, .bsFill h 10 (.v 3) 7, .bsSeek h 2 1 (.v 3), .uadd h true 1 2 (.reg 95), .umul h 2 1 2 (.imm 3), .ushift h 4 1 2 (.imm 3),
      .ucmp h 5 true 1 2 (.reg 3), .lmaskEvery h 1 (.v 2), .lmaskSome h 1 (.v 2), .lmaskAlike h 1 (.v 2), .lmaskBits h 1 (.v 2),
      .lmaskCount h 1 (.v 2), .lmaskRank h 1 (.v 2), .nop h, .exit h, .joinEnrol h 15] : List Instr), Runs sys h i := by decide +kernel

/-- BitStreamReadsFillsAndSeeks: 0 and 64 bits at the ends of the window, and the cursor's limits. -/
theorem witness_bitstream : (let s := sys.modGroup 1 (fun x => { x with v := [(32 * 3, 64)], lanes := x.lanes.map (fun y => { y with bsc := 64 }) })
    Runs s hd (.bsRead hd .u64 false 1 10 (.v 3)) ∧ elemU .u64 ((s.tag hd (.bsRead hd .u64 false 1 10 (.v 3))).srcVal s.src (.v 3) 0) 0 % 128 = 64 ∧
      (s.src.lane 0).bsc.toNat + 64 ≤ 128 ∧ Runs s hd (.bsSeek hd 1 1 (.v 3)) ∧ Runs s hd (.bsSeek hd 0 1 (.v 3))) := by decide +kernel

/-- TransfersMoveLanesOrTrapOnABadTarget: targets at the ends of the range, and targets refused for the slot and for the address. -/
theorem witness_transfers : (∀ i ∈ ([.bra hd 0xFFFFFFFF 4, .brx hd 2, .brxU hd 2, .call hd 31 0 0, .callR hd 31 31, .ret hd 31] : List Instr), Runs usr hd i) ∧
    OkTarget (2 ^ 56 - 64 + 4) ∧ OkTarget 0 ∧ ¬ OkTarget 5 ∧ ¬ OkTarget 8 ∧ ¬ OkTarget (2 ^ 56) ∧
    IsRelTarget 64 0xFFFFFFFF 4 4 ∧ IsRelTarget 0 0 0 0 ∧ ¬ OkTarget (((usrG (fun x => { x with v := [(32 * 2 + 1, 5)] })).tag hd (.brx hd 2)).getV
      (usrG (fun x => { x with v := [(32 * 2 + 1, 5)] })).src 2 1) := by decide +kernel

/-- LanesGoOnSleepAndLeave, TrapsAreTakenAndReturnedFrom, RejoinMasksHoldAndRelease: in a running lane. -/
theorem witness_control : (∀ i ∈ ([.nop hd, .yield hd, .sleep hd .zero 0, .sleep hd (.v 2) 0xFFFFFFFF, .exit hd, .trap hd 0xFFFF, .brk hd 0,
      .eret hd, .eretNext hd, .joinEnrol hd 0, .joinLeave hd 15, .joinWait hd 1] : List Instr), Runs usr hd i ∧ (usr.running hd i).getLsbD 1 = true) ∧
    (usr.lane 13 1).stepping = false ∧ (usr.lane 13 1).wait = .running ∧ (usr.lane 13 1).left = false ∧ usr.here.waits = [] ∧
    (usr.here.lane 1).left = false ∧ usr.src.lane 1 = usr.lane 13 1 ∧ (usr.launch (usr.launchOf 13)).attach = false ∧
    (let t := usr.modLaunch 10 (fun x => { x with attach := true })
     Runs t hd (.brk hd 0) ∧ (t.launch (t.launchOf 13)).attach = true) ∧
    (let t := usrG (fun x => { x with j := [(1, 3)] })
     Runs t hd (.joinWait hd 1) ∧ t.here.getJ 1 &&& ~~~t.running hd (.joinWait hd 1) = 0 ∧ (t.here.getJ 1).getLsbD 1 = true) := by decide +kernel

/-- The floating-point, cross-lane and conversion statements: each instruction runs, and rounding is stated of a value that f16
holds and of one between two multiples. -/
theorem witness_float : (∀ h ∈ [hd, hf], ∀ i ∈ ([
      .fadd h .f32 rn 1 (.v 2) (.v 3) m0 { m0 with neg := true }, .fmul h .f64 { rn with dyn := true } 1 (.v 2) (.v 3) m0 m0, .ffma h .bf16x4 rn 1 (.v 2) (.v 3) (.v 4) m0 m0 m0,
      .fmin h .f16x4 true 1 (.v 2) (.v 3) m0 m0, .fmax h .f32x2 false 1 (.v 2) (.v 3) m0 m0, .fclass h .f64 1 (.v 2) m0, .fscale h .f64 rn 1 (.v 2) (.v 3) m0,
      .frnd h .f32 true rn 1 (.v 2) m0, .fdiv h .f64 rn 1 (.v 2) (.v 3) m0 m0, .frcp h .f32 rn 1 (.v 2) m0, .fsqrt h .f32x2 rn 1 (.v 2) m0, .frsq h .f32 rn 1 (.v 2) m0,
      .fex2 h .f32 rn 1 (.v 2) m0, .flg2 h .f32 rn 1 (.v 2) m0, .fsin h .f32 rn 1 (.v 2) m0, .fcos h .f32x2 rn 1 (.v 2) m0, .fcmp h .f32x2 7 true 1 (.v 2) (.v 3) m0 m0,
      .fcvt h .f32x2 .f64 1 rn 1 (.v 2) m0, .icvt h .i16x4 .f16x4 0 rn 1 (.v 2), .fcvti h .log6x10 .u8x8 0 rn 1 (.v 2) m0, .pack h .f32x2 .log6x10 4 rn 1 (.v 2) (.v 3) m0 m0,
      .xlane h .i8x8 1 (.v 2) (.v 3) m0, .qx h 2 1 (.v 2), .fold h .i32 0 true rn 1 (.v 2) m0, .fold h .f32 2 false rn 1 (.v 2) m0, .scan h .u64 5 true rn 1 (.v 2) m0,
      .scan h .f32 0 false rn 1 (.v 2) m0] : List Instr), Runs sys h i) ∧
    (Fmt.of .f16x4).read 0x7BFF = .num false 2047 5 ∧ (Fmt.of .f16x4).read 1 = .num false 1 (-24) ∧ Ty.isFloat .f16x4 = true ∧ (0 : Nat) < 1 := by decide +kernel

/-! The checks below decide the premises of the statements on memory and on waits. -/

/-- Decides `Accesses`. -/
def canAccess (s : State) (h : Hdr) (i : Instr) (m : LaneMask) (sp : Nat) (a : MAddr) (needs : List Need) (reads write : Bool) : Bool :=
  let e := s.entered h i
  (List.range 32).all (fun l => !(s.running h i).getLsbD l || recFits sp (e.getB (s.tag h i).src a.rc.toNat l)) && (List.range 32).all (fun l => !m.getLsbD l || (match s.reaches h i l a needs with
    | .none_ => true
    | .at_ va bs => (e.clashOf s.ag.cur.grp sp { lane := l, va := va, bytes := bs } write (decide (a.scope ≠ 0))).isNone &&
        (!reads || !e.touchPoison s.ag.cur.grp sp { lane := l, va := va, bytes := bs })
    | _ => false))

theorem accesses_of_canAccess {s : State} {h : Hdr} {i : Instr} {m : LaneMask} {sp : Nat} {a : MAddr} {needs : List Need} {reads write : Bool}
    (hc : canAccess s h i m sp a needs reads write = true) : Accesses s h i m sp a needs reads write := by
  simp only [canAccess, Bool.and_eq_true, List.all_eq_true, List.mem_range] at hc
  refine ⟨fun l hl => ?_, fun l hl => ?_⟩
  · have h1 := hc.1 l (BitVec.lt_of_getLsbD hl)
    rw [hl] at h1
    simpa using h1
  have hlt : l < 32 := BitVec.lt_of_getLsbD hl
  have h2 := hc.2 l hlt
  rw [hl] at h2
  cases hr : s.reaches h i l a needs with
  | none_ => exact .inl rfl
  | at_ va bs =>
    rw [hr] at h2
    simp only [Bool.not_true, Bool.false_or, Bool.and_eq_true, Option.isNone_iff_eq_none, Bool.or_eq_true, Bool.not_eq_true'] at h2
    exact .inr ⟨va, bs, rfl, h2.1, fun hrd => by rw [hrd] at h2; simpa using h2.2⟩
  | trap c ad => rw [hr] at h2; simp at h2
  | park p => rw [hr] at h2; simp at h2

/-- Decides `Live`. -/
def isLive (s : State) (m : LaneMask) : Bool :=
  decide (s.src.blk = s.here.blk ∧ s.src.core = s.here.core ∧ s.src.part = s.here.part ∧ s.src.cd = s.here.cd ∧ s.src.system = s.here.system) &&
  (List.range 32).all (fun l => !m.getLsbD l || decide (l < s.here.lanes.length ∧ (s.here.lane l).left = false)) &&
  (s.here.system || (Map.find? s.work.blocks s.here.blk).isSome) && decide (∀ w ∈ s.here.waits, w.id ≠ s.ag.nextId) &&
  decide (∀ p ∈ s.here.pending, p.id ≠ s.ag.nextId) && decide (∀ y ∈ s.here.lanes, y.waitId ≠ s.ag.nextId)

theorem live_of_isLive {s : State} {m : LaneMask} (hc : isLive s m = true) : Live s m := by
  simp only [isLive, Bool.and_eq_true, decide_eq_true_eq, List.all_eq_true, List.mem_range, Bool.or_eq_true, Bool.not_eq_true'] at hc
  obtain ⟨⟨⟨⟨⟨hp, hl⟩, hb⟩, hw⟩, hpe⟩, hi⟩ := hc
  refine ⟨hp, fun l hm => ?_, fun hs => by simpa [hs] using hb, hw, hpe, hi⟩
  have := hl l (BitVec.lt_of_getLsbD hm)
  rw [hm] at this
  simpa using this

/-- A store buffer with room for every line of a list. -/
theorem room_of_lines {s : State} {g : Nat} {L : List (Nat × Nat)} (hr : s.partLines (s.group g).part + L.length ≤ 64) (q : List (Nat × Nat))
    (hn : q.Nodup) (hq : ∀ y ∈ q, y ∈ L) : s.hasRoom g q := by
  have h1 : q.length ≤ L.length := (hn.subperm hq).length_le
  have h2 := List.length_filter_le (fun q => !(s.group g).bufLines.contains q) q
  exact .inr (by omega)

/-- A record of 4096 elements of 8 bytes at the start of shared memory, and the same of the spill space of a group. -/
def rec8 : BitVec 256 := 4096 * 2 ^ 96 + 8 * 2 ^ 64

/-- `usr` with that record in b2 and the indices 0 and 1 in v9. -/
def mem : State := usrG (fun x => { x with b := [(2, rec8)], v := [(32 * 9 + 1, 1)] })

/-- Addressing with a scope and an order. -/
def mo (scope : BitVec 3) (order : BitVec 2) : MAddr := { ma 3 with scope := scope, order := order }

/-- SharedAccessesAndLoadsGiveTheirBytes, StoresLeaveTheirBytes, AtomicsModifyAndFencesCommit: two lanes of a group reach their
bytes in shared memory through a record of space 0, plain, acquiring and releasing; the elements at both ends of the record. -/
theorem witness_accesses :
    (Runs mem hd (.ld hd .u64 0 1 (ma 3)) ∧ Accesses mem hd (.ld hd .u64 0 1 (ma 3)) (mem.running hd (.ld hd .u64 0 1 (ma 3))) 0 (ma 3) [.r] true false) ∧
    (Runs mem hd (.ld hd .u64 0 1 (mo 1 1)) ∧ Accesses mem hd (.ld hd .u64 0 1 (mo 1 1)) (mem.running hd (.ld hd .u64 0 1 (mo 1 1))) 0 (mo 1 1) [.r] true false) ∧
    (Runs mem hd (.st hd .u64 0 1 (ma 3)) ∧ Accesses mem hd (.st hd .u64 0 1 (ma 3)) 3 0 (ma 3) [.w] false true) ∧
    (Runs mem hd (.st hd .u64 0 1 (mo 2 2)) ∧ Accesses mem hd (.st hd .u64 0 1 (mo 2 2)) 3 0 (mo 2 2) [.w] false true) ∧
    (Runs mem hd (.atom hd .u64 0 1 4 (mo 2 3)) ∧ Accesses mem hd (.atom hd .u64 0 1 4 (mo 2 3)) 3 0 (mo 2 3) [.r, .w] true true) ∧
    (Runs mem hd (.cas hd .u64 0 1 4 5 (mo 2 3)) ∧ Accesses mem hd (.cas hd .u64 0 1 4 5 (mo 2 3)) 3 0 (mo 2 3) [.r, .w] true true) := by
  refine ⟨⟨?_, accesses_of_canAccess ?_⟩, ⟨?_, accesses_of_canAccess ?_⟩, ⟨?_, accesses_of_canAccess ?_⟩, ⟨?_, accesses_of_canAccess ?_⟩,
    ⟨?_, accesses_of_canAccess ?_⟩, ⟨?_, accesses_of_canAccess ?_⟩⟩ <;> decide +kernel

/-- The same statements: no ring is bound, each lane reaches bytes of its own, the buffer has room, and the lane masks are those of
the statements; the clauses of the record hold at the last element, past it, off alignment and beyond the declared size. -/
theorem witness_stores : (mem.entered hd (.st hd .u64 0 1 (mo 2 2))).cores.rings = [] ∧ (mem.entered hd (.atom hd .u64 0 1 4 (mo 2 3))).cores.rings = [] ∧
    (mem.entered hd (.cas hd .u64 0 1 4 5 (mo 2 3))).cores.rings = [] ∧
    mem.running hd (.st hd .u64 0 1 (ma 3)) &&& ~~~(mem.tag hd (.st hd .u64 0 1 (ma 3))).src.helpers = 3 ∧
    mem.reaches hd (.st hd .u64 0 1 (ma 3)) 0 (ma 3) [.w] = .at_ 512 [512, 513, 514, 515, 516, 517, 518, 519] ∧
    mem.reaches hd (.st hd .u64 0 1 (ma 3)) 1 (ma 3) [.w] = .at_ 520 [520, 521, 522, 523, 524, 525, 526, 527] ∧
    (∀ q : List (Nat × Nat), q.Nodup → (∀ y ∈ q, y ∈ [(0, 4)]) → (mem.entered hd (.st hd .u64 0 1 (ma 3))).hasRoom 13 q) ∧
    recSpace rec8 = 0 ∧ (g13.lane 1).helper = false ∧
    mem.reach g13 13 1 rec8 4095 0 8 [.r] = .at_ 32760 [32760, 32761, 32762, 32763, 32764, 32765, 32766, 32767] ∧
    mem.reach g13 13 1 rec8 4096 0 8 [.r] = .none_ ∧ mem.reach g13 13 1 (rec8 ||| 2 ^ 148) 4096 0 8 [.r] = .trap .bounds 4096 ∧
    mem.reach g13 13 1 (rec8 + 1) 0 0 8 [.r] = .trap .align 1 ∧ mem.reach g13 13 1 (rec8 + 65536) 0 0 8 [.r] = .trap .bounds 65536 := by
  refine ⟨by decide +kernel, by decide +kernel, by decide +kernel, by decide +kernel, by decide +kernel, by decide +kernel,
    room_of_lines (L := [(0, 4)]) (by decide +kernel), by decide +kernel, by decide +kernel, by decide +kernel, by decide +kernel, by decide +kernel,
    by decide +kernel, by decide +kernel⟩

/-- `usr` with a byte that lane 0 has stored and not committed. -/
def buffered : State := usrG (fun x => { x with buf := [{ lane := 0, space := 0, addr := 8, value := 5, page := 0, gen := 0, under := false }] })

/-- AtomicsModifyAndFencesCommit: fences with and without an order; a byte that one lane alone has buffered. -/
theorem witness_fence : Runs buffered hd (.fence hd 6 3) ∧ Runs buffered hd (.fence hd 1 0) ∧ (buffered.running hd (.fence hd 6 3)).getLsbD 0 = true ∧
    (∀ c ∈ buffered.here.buf, c.space = 0 ∧ c.under = false ∧ c.lane = 0) ∧ (Map.find? buffered.work.blocks buffered.here.blk).isSome = true := by
  decide +kernel

/-- RecordsAndSpillFramesAreUsed: the records; a push and a pop at both ends of the spill stack. -/
theorem witness_spill : (∀ i ∈ ([.recSet hd 15 92, .recSetBase hd 0 95, .recSetAdv hd 2 1, .recGet hd 15 92] : List Instr), Runs usr hd i) ∧
    (let s := usrG (fun x => { x with s := [(95, 65536)] })
     Runs s hd (.spill hd true 8 3 0xFFFF00) ∧ frameTrap (s.tag hd (.spill hd true 8 3 0xFFFF00)).src (65536 - 256) 8 = none ∧
     (s.entered hd (.spill hd true 8 3 0xFFFF00)).spillAway (s.tag hd (.spill hd true 8 3 0xFFFF00)).src 13 = none ∧ (s.entered hd (.fill hd true 8 3 0)).spillAway (s.tag hd (.fill hd true 8 3 0)).src 13 = none ∧
     (s.entered hd (.spill hd true 8 3 0xFFFF00)).getS (s.tag hd (.spill hd true 8 3 0xFFFF00)).src 95 + (0xFFFF00 : BitVec 24).signExtend 64 = 65536 - 256 ∧
     Runs s hd (.fill hd true 8 3 0) ∧ frameTrap (s.tag hd (.fill hd true 8 3 0)).src (65536 - 256) 8 = none ∧
     (s.entered hd (.fill hd true 8 3 0)).getS (s.tag hd (.fill hd true 8 3 0)).src 95 + (0 : BitVec 24).signExtend 64 - BitVec.ofNat 64 (32 * 8) = 65536 - 256 ∧
     ∀ l, l < 32 → (s.entered hd (.fill hd true 8 3 0)).touchPoison 13 2 (frameTouch (65536 - 256) 8 l) = false) ∧
    Runs usr hd (.spill hd false 8 2 0) ∧ frameTrap (usr.tag hd (.spill hd false 8 2 0)).src 0 4 = none ∧
    (∀ q : List (Nat × Nat), q.Nodup → (∀ y ∈ q, y ∈ [(2, 0)]) → (usr.entered hd (.spill hd false 8 2 0)).hasRoom 13 q) := by
  refine ⟨by decide +kernel, by decide +kernel, by decide +kernel, by decide +kernel, room_of_lines (L := [(2, 0)]) (by decide +kernel)⟩

/-- An instruction runs in live lanes. -/
abbrev Ready (s : State) (i : Instr) : Prop := Runs s hd i ∧ isLive s (s.running hd i) = true

/-- A barrier of two lanes at which one has arrived. -/
def bar2 : Barrier := { phase := 7, count := 1, expected := 2, mode := 0, init := true, lanesArr := [32 * 13], groupArr := [] }

/-- BarriersCountAndPassByPhase: counts 1 and 2^24 − 1, a block barrier and a cluster barrier, an arrival that completes the phase and
one that does not, phases that have passed and that have not. -/
theorem witness_barriers : (∀ i ∈ ([.barInit hd 0 1 0 (.imm 1), .barInit hd 2 1 31 (.imm (2 ^ 24 - 1))] : List Instr), Ready usr i) ∧
    (Map.find? usr.work.blocks usr.here.blk).isSome = true ∧ (Map.find? usr.work.clusters (usr.block usr.here.blk).cluster).isSome = true ∧
    (let s := usrB (fun x => { x with bars := [(3, bar2)] })
     (∀ i ∈ ([.barArrive hd false 1 3, .barArrive hd true 1 3, .barWait hd 3 (.imm 7), .barWait hd 3 (.imm 6), .barWait hd 3 (.imm 0x8008),
       .barTest hd true 1 3 (.imm 6), .barTest hd false 1 3 (.imm 0x8007)] : List Instr), Ready s i) ∧ (s.bar s.here.blk 3).init = true ∧
     s.here.waits = [] ∧ ((s.bar s.here.blk 3).phase - 6).toNat = 1 ∧ ((s.bar s.here.blk 3).phase - 7).toNat = 0 ∧
     ((s.bar s.here.blk 3).phase - 0x8008).toNat = 32767) := by decide +kernel

/-- TagsAreReadClearedAndAwaited: a tag map with bits 0 and 63 set, masks that meet it and that do not, chunk-map words at the end of
the allocation and beyond it. -/
theorem witness_tags : (let s := (usrB (fun x => { x with tags := 0x8000000000000001 })).modGroup 13 (fun x => { x with s := [(2, 0x8000000000000000), (3, 2), (4, 65528), (5, 65536), (6, 1)] })
    (∀ i ∈ ([.tagFirst hd true 1 2, .tagFirst hd false 1 3, .tagRead hd 1 2, .tagReadSt hd 1 2, .tagClear hd 2, .tagWaitany hd true 1 2, .tagWaitany hd false 1 3,
      .tagWaitall hd true 1 2, .tagWaitall hd false 1 3, .cmapWait hd 1 4 6, .cmapTest hd 1 4 7, .cmapWait hd 1 4 7, .cmapWait hd 1 5 6, .cmapTest hd 1 5 6] : List Instr), Ready s i) ∧
    (s.entered hd (.cmapWait hd 1 4 6)).getS s.src 4 = 65528 ∧ (s.block 12).sharedSz = 65536 ∧ s.here.lanes.length = 2 ∧
    (s.block 12).tags &&& (s.entered hd (.tagWaitany hd true 1 2)).getS s.src 2 ≠ 0 ∧ (s.block 12).tags &&& (s.entered hd (.tagWaitany hd true 1 3)).getS s.src 3 = 0) := by
  decide +kernel

/-- A ring binding of block 12 in watcher slot 15 of core 0. -/
def ring12 : Ring := { blk := 12, grp := 13, base := 0, notify := 8192, n := 16, prod := 0, next := 0, cons := 0, halted := false, unbind := false }

/-- RingsAreBoundAndUnbound: a ring that fits, one that does not, a full watcher, a free slot, an idle ring of the own block, one that
owes an entry, and one of another block. -/
theorem witness_rings : (let s := usrG (fun x => { x with s := [(2, 0), (3, 8192), (4, 15), (5, 14)] })
    let t := { s with cores := { s.cores with rings := [(14, { ring12 with blk := 99 }), (15, ring12)] } }
    let full := { s with cores := { s.cores with rings := (List.range 16).map (fun k => (k, ring12)) } }
    let owing := { s with cores := { s.cores with rings := [(15, { ring12 with prod := 1 })] } }
    Ready s (.ringBind hd 1 2 3 16) ∧ Ready s (.ringBind hd 1 2 2 16) ∧ Ready full (.ringBind hd 1 2 3 256) ∧ Ready t (.ringUnbind hd 1 4) ∧ Ready t (.ringUnbind hd 1 5) ∧
    Ready owing (.ringUnbind hd 1 4) ∧ ((s.entered hd (.ringBind hd 1 2 3 16)).getS s.src 3).toNat = 8192 ∧ Map.find? s.cores.rings (16 * s.src.core) = none ∧
    (∀ k, k < 16 → (Map.find? full.cores.rings (16 * full.src.core + k)).isSome = true) ∧ ((t.entered hd (.ringUnbind hd 1 4)).getS t.src 4).toNat = 15 ∧
    t.ringBusy 0 15 = false ∧ (t.entered hd (.ringUnbind hd 1 4)).owes ring12 = false ∧ (owing.entered hd (.ringUnbind hd 1 4)).owes { ring12 with prod := 1 } = true) := by
  decide +kernel

/-- DwsPagesArePinnedAllocatedAndFreed: counts 0, 64 and 65, mapped pages at the window's base, an unmapped page, a window too small
for the pin floor, a page pinned 255 times and one not pinned; frames that suffice and that do not; a base that is allocated. -/
theorem witness_dws : (let s := usrG (fun x => { x with s := [(2, 0xFF0000 * 65536), (3, 5), (4, 0xFF0001 * 65536)] })
    let small := s.modXlat 0 (fun x => { x with window := x.window.take 41 })
    let worn := s.modXlat 0 (fun x => { x with pins := [(0xFF0000, 255)] })
    (∀ i ∈ ([.dwsPin hd 1 2 (.imm 2), .dwsPin hd 1 2 (.imm 64), .dwsPin hd 1 2 (.imm 0), .dwsPin hd 1 2 (.imm 65), .dwsPin hd 1 3 (.imm 1), .dwsUnpin hd 1 2 (.imm 1),
      .dwsAlloc hd 1 (.imm 62), .dwsAlloc hd 1 (.imm 63), .dwsAlloc hd 1 (.imm 65), .dwsFree hd 1 2, .dwsFree hd 1 4] : List Instr), Ready s i) ∧
    Ready small (.dwsPin hd 1 2 (.imm 2)) ∧ Ready worn (.dwsPin hd 1 2 (.imm 1)) ∧ Ready worn (.dwsUnpin hd 1 2 (.imm 1)) ∧
    (Map.find? s.tr.polder (s.polderOf 13)).isSome = true ∧ (s.entered hd (.dwsPin hd 1 2 (.imm 2))).frameOfPage 0 0xFF0001 = some 1 ∧
    (s.entered hd (.dwsPin hd 1 2 (.imm 2))).frameOfPage 0 0xFF0002 = none ∧ (s.xlat 0).frameCd 1 = 0 ∧ s.usableFrames 0 = 16384 ∧
    ((s.xlat 0).freeFrames.filter (fun f => (s.xlat 0).frameCd f == s.src.cd)).length = 62 ∧ (s.takeable 0 s.src.cd).length = 62 ∧ s.freePart 0 = 62 ∧ (s.xlat 0).windowFree 0xFF0002 62 = true ∧
    (s.xlat 0).windowFree 0xFF0000 62 = false) := by decide +kernel

/-- A declaration of the own group with both lanes. -/
def conv13 : Conv := { blk := 12, members := [13], masks := [3], round := none }
/-- A round that lane 0 has signed. -/
def round1 : Round :=
  { id := 7, batch := false, ty := .f64, sat := false, zacc := false, word := 0x888, sigs := [{ grp := 13, lane := 0, areg := 8, breg := 16, fw := 0, tile := 3, pc := 64, enc := 0 }] }
/-- An open window of lane 1 for an operation on tile 3. -/
def win : Window := { lane := 1, conv := 0, round := 7, tile := 3, regs := [], pc := 64, dirty := [], late := [] }
/-- `usr` with the f64 format word in v0 and a declaration. -/
def mat (c : Conv) : State :=
  let s := usrG (fun x => { x with v := [(0, 0x888), (1, 0x888)] })
  { s with cores := { s.cores with convs := [(0, c)] } }

/-- ConvergenceSetsAreDeclared: a free register and the own group, a set that is not one, another group's declaration. -/
theorem witness_convergence : (let s := usrG (fun x => { x with s := [(4, 0), (5, 3), (8, 31)] })
    let busy := { s with cores := { s.cores with convs := [(0, { conv13 with members := [99] })] } }
    (∀ i ∈ ([.convDecl hd 0 1 0 4, .convDecl hd 0 1 0 8, .convDecl hd 2 1 7 93, .convDeclFree hd 1 0, .convRead hd 1 0] : List Instr), Ready s i) ∧
    Ready busy (.convDecl hd 0 1 0 4) ∧ Ready busy (.convDeclFree hd 1 0) ∧ Ready (mat conv13) (.convRead hd 1 0) ∧ Map.find? s.cores.convs 0 = none ∧
    (s.tag hd (.convDecl hd 0 1 0 4)).member s.src 0 = some 13 ∧ (s.tag hd (.convDecl hd 0 1 0 8)).member s.src 31 = none ∧
    Map.find? busy.cores.convs (8 * s.src.part) = some { conv13 with members := [99] } ∧ conv13.members.length = conv13.masks.length) := by decide +kernel

/-- SigningAndMatrixWaits: both lanes sign a first round; a lane completes a pending one; a lane that has signed already. -/
theorem witness_signing : (∀ i ∈ ([.mma hd mf, .mmaBatch hd mf, .mfence hd, .mwait hd 3, .mwaitAll hd] : List Instr), Ready (mat conv13) i) ∧
    Map.find? (mat conv13).cores.convs (8 * (mat conv13).src.part) = some conv13 ∧ (mat conv13).running hd (.mma hd mf) &&& ~~~(conv13.masks.getD 0 0) = 0 ∧
    (mat conv13).src.pending = (mat conv13).here.pending ∧ (mat conv13).here.score = [] ∧
    (∀ l, l < 2 → ((mat conv13).entered hd (.mma hd mf)).getV (mat conv13).src 0 l = 0x888) ∧ okWord mf 0x888 = true ∧
    (let s := mat { conv13 with round := some round1 }
     let one := { s with ag := { s.ag with cur := { s.ag.cur with lanes := 2 } } }
     let again := { s with ag := { s.ag with cur := { s.ag.cur with lanes := 1 } } }
     Ready one (.mma hd mf) ∧ Ready again (.mma hd mf) ∧ one.running hd (.mma hd mf) = 2 ∧ again.running hd (.mma hd mf) = 1 ∧ round1.agrees false mf 0x888 = true ∧
     round1.sameRegs 13 mf = true ∧ Map.get (one.group 13).tileFmt 0 3 = 0) ∧
    (let s := (mat conv13).modGroup 13 (fun x => { x with windows := [win] })
     Ready s (.mwait hd 3) ∧ Ready s (.mwaitAll hd)) := by decide +kernel

/-- MatrixOperationsWriteTheirTiles: an operation in flight whose registers hold no poison. -/
theorem witness_matrix_op : (let s := { usr with cores := { usr.cores with matOps := [(7, { part := 0, members := [13], masks := [3], round := round1 })] } }
    Map.find? s.cores.matOps 7 = some { part := 0, members := [13], masks := [3], round := round1 } ∧ round1.sigs.any (s.sigPoison round1 13) = false ∧
    (s.group 13).retired = false ∧ (Map.find? s.work.groups 13).isSome = true) := by decide +kernel

/-- TilesAndFormatWordsAreMoved: an unset tile, a tile of the same type, a tile with an operation awaited. -/
theorem witness_tiles : (∀ i ∈ ([.accPut hd .i32 3 8, .accGet hd .f32 8 0, .accZero hd .f64 3, .fmtw hd 0 1 .zero 0x888, .fmtw hd 3 1 (.v 2) 0x9CC] : List Instr), Ready usr i) ∧
    (let s := usrG (fun x => { x with tileFmt := [(3, 2)] })
     Ready s (.accPut hd .f64 3 8) ∧ Ready s (.accGet hd .f64 8 3) ∧ Map.get s.here.tileFmt 0 3 = tyFmt .f64) ∧ usr.here.poisonT = [] ∧
    (let s := usrG (fun x => { x with windows := [win] })
     ∀ t ∈ [s, { s with ag := { s.ag with cur := { s.ag.cur with ops := some [1, 7] } } }],
     ∀ i ∈ ([.accPut hd .f64 3 8, .accGet hd .f64 8 3, .accZero hd .f64 3] : List Instr), Ready t i) := by decide +kernel

/-- A request for a child cluster of the descriptor at 0x8000, with the lanes of group 13 waiting for its answer. -/
def req20 : SpawnReq := { grp := 13, blk := 12, lanes := 3, d := 1, trp := false, desc := 0x8000, rec1 := 0x10000, params := [] }
/-- `usr` with that request. -/
def spw (f : SpawnReq → SpawnReq) (g : Cluster → Cluster) : State :=
  let s := usrG (fun x => { x with waits := [{ id := 20, instr := .spawn hd false 1 0, lanes := 3, pc := 64, ops := [], due := false }], lanes := x.lanes.map (fun y => { y with wait := .spawnwait, waitId := 20 }) })
  let s := s.modCluster 11 g
  { s with work := { s.work with spawns := [(20, f req20)] } }

/-- Whether a reading of the front end succeeds, and with what. -/
def gotten {α : Type} (r : State × Got α) : Option α := match r.2 with | .ok x => some x | _ => none

/-- SpawnsAskAndMakeAChildCluster: the instructions; a live and no live child slot; a request that is granted with the last slot free,
one refused at the deepest level with and without `trap`. -/
theorem witness_spawns : (∀ i ∈ ([.spawn hd true 1 86, .spawnWait hd 1 2, .preDone hd, .preWait hd 1] : List Instr), Ready usr i) ∧
    (let s := (usrG (fun x => { x with s := [(2, 1)] })).modCluster 11 (fun c => { c with children := 1 })
     Ready s (.spawnWait hd 1 2) ∧ (s.cluster (s.block s.here.blk).cluster).children &&& (s.entered hd (.spawnWait hd 1 2)).getS s.src 2 ≠ 0) ∧
    (let s := usr.modLaunch 10 (fun l => { l with pred := some 9 })
     Ready s (.preWait hd 1)) ∧ (Map.find? usr.work.launches (usr.launchOf 13)).isSome = true ∧
    (let s := spw id (fun c => { c with children := 0x7FFFFFFFFFFFFFFF })
     let bs := (gotten (s.frontRead (s.launch 10).queue 0x8000 64)).getD []
     (gotten (s.frontRead (s.launch 10).queue 0x8000 64)).isSome = true ∧ s.spawnRefusal req20 (some bs) = none ∧ (s.cluster 11).children.getLsbD 63 = false ∧
     (s.launch 10).done = false ∧ (s.launch 10).ended = none ∧ (∀ q ∈ s.work.clusters, q.1 < s.work.nextKey)) ∧
    (let s := spw (fun r => { r with trp := true }) (fun c => { c with lineage := 0xA000000000000000 })
     let bs := (gotten (s.frontRead (s.launch 10).queue 0x8000 64)).getD []
     s.spawnRefusal { req20 with trp := true } (some bs) = some 1 ∧ ((s.group 13).inWait 20 3).getLsbD 1 = true) ∧
    (spw id (fun c => { c with lineage := 0xA000000000000000 })).spawnRefusal req20
      (gotten ((spw id (fun c => { c with lineage := 0xA000000000000000 })).frontRead 0 0x8000 64)) = some 1 := by decide +kernel

/-- A dike entry. -/
def dk : DikeEntry := { handler := 64, sreg := 30, openPc := 64 }

/-- RegionsDikesInvalidationsAndCounterReads: empty, partly filled and full dike stacks; selectors at the ends of what a group may read. -/
theorem witness_regions : (∀ i ∈ ([.rgn hd, .dikeOpen hd 30 2 1, .dikeClose hd, .icinv hd 0, .icinv hd 3, .ctrRead hd 1 (.imm 0), .ctrRead hd 1 (.imm 0xFFFF)] : List Instr), Ready usr i ∧
      (usr.running hd i).getLsbD 1 = true) ∧ usr.src.lane 1 = usr.lane 13 1 ∧ (usr.lane 13 1).dike = [] ∧
    (let s := usrG (fun x => { x with lanes := x.lanes.map (fun y => { y with dike := [dk, dk, dk, dk] }) })
     Ready s (.dikeOpen hd 30 2 1) ∧ Ready s (.dikeClose hd) ∧ (s.lane 13 1).dike.length = 4 ∧ s.src.lane 1 = s.lane 13 1) ∧
    (let s := usr.modPolder 0 (fun p => { p with ctrGrant := 1 })
     Ready s (.ctrRead hd 1 (.imm 0)) ∧ (s.polder? 0).any (fun p => p.ctrGrant.getLsbD 0) = true ∧ 0 < groupEvents 0) := by decide +kernel

/-- `sys` with a message in box 0 of control core 0 and 16 messages in box 2 of its peer. -/
def mail : State :=
  let m : Msg := { seq := 1, fn := 0, length := 64, words := [] }
  { sys with ctl := { sys.ctl with boxes := [(0, [m]), (4 * peerCore 0 + 2, List.replicate 16 m)] } }

/-- `usr` with the arbiter busy until a later time. -/
def wait1 : State := { usr with ctl := { usr.ctl with arbAt := 1 } }

/-- QueriesAnswerOrWaitTheirTurn and QueriesActOnTheLanesTheyMatch: records of zeros (the own block), a malformed record, a scope that a
group without authority may not name; an arbiter that is free and one that is not. -/
theorem witness_queries : (∀ i ∈ ([.qrunCount hd 1 8, .qrunStop hd 1 8, .qrunStep hd 1 8, .qrunResume hd 1 8, .qrunKill hd 1 8, .qrunRead hd 1 88 2, .qrunWrite hd 1 88 2,
      .qterm hd (.imm 0xFFFFFFFF)] : List Instr), Ready usr i ∧ Ready wait1 i ∧ Ready sys i) ∧
    (∀ n, n < 7 → malformed false n (List.replicate 9 0) = false ∧ malformed false n [4] = true ∧ usr.refused usr.here (List.replicate 9 0) = false ∧
      usr.refused usr.here [2] = true ∧ malformed false n [2] = false) ∧ wait1.ag.clock < wait1.ctl.arbAt ∧ wait1.refused wait1.here [0] = false ∧
    usr.ctl.queries = [] ∧ usr.ctl.arbDead = false ∧ usr.ctl.arbAt ≤ usr.ag.clock ∧ usr.cores.moves = [] ∧ usr.here.system = false ∧
    (usr.launch (usr.launchOf 13)).done = false ∧ (usr.launch (usr.launchOf 13)).ended = none ∧ (Map.find? usr.work.launches (usr.launchOf 13)).isSome = true ∧
    (List.range 8).map (fun j => (usr.entered hd (.qrunCount hd 1 8)).getS usr.src (8 + j)) = List.replicate 8 0 ∧
    (let s := usrG (fun x => { x with s := [(8, 1), (11, 0x1FFF)] })
     let s := { s with ag := { s.ag with cur := { s.ag.cur with lanes := 1 } } }
     let ops := (List.range 8).map (fun j => (s.entered hd (.qrunStop hd 1 8)).getS s.src (8 + j))
     Ready s (.qrunStop hd 1 8) ∧ ((s.asking hd (.qrunStop hd 1 8)).hits (s.queryOf hd (.qrunStop hd 1 8) ops)).map (fun k => (k.grp, k.lane, k.un)) = [(13, 1, false)] ∧
     malformed false 1 ops = false ∧ s.refused s.here ops = false) := by decide +kernel

/-- MessagesAreSentAndReceived: boxes that are empty, hold a message and are full; every box and a bad header; the active core and the
message of 64 bytes. -/
theorem witness_mail : (∀ i ∈ ([.mboxRecv hd true 1 8 0, .mboxRecv hd false 1 88 3, .halt hd, .mboxSend hd true 1 2 8, .mboxSend hd false 1 2 8, .haltStop hd] : List Instr),
      Ready sys i ∧ Ready mail i) ∧ sys.box 0 3 = [] ∧ (mail.box 0 0).length = 1 ∧ mail.takes 0 0 = true ∧ mail.takes 0 3 = true ∧ mail.here.part - 1024 = 0 ∧ 0 / 2 = mail.ctl.active ∧
    (mail.box (peerCore 0) 2).length = 16 ∧ (sys.box (peerCore 0) 2).length = 0 ∧ mail.ctl.fwd = [] ∧
    (let s := mail.modGroup 1 (fun x => { x with s := [(2, 0x000000080240)] })
     Ready s (.mboxSend hd false 1 2 8) ∧ Ready s (.mboxSend hd true 1 2 8) ∧ ((s.entered hd (.mboxSend hd true 1 2 8)).getS s.src 2).toNat = 0x80240) := by decide +kernel

/-- `usr` with the lanes of its group changed. -/
def usrL (f : Lane → Lane) : State := usrG (fun x => { x with lanes := x.lanes.map f })

/-- A ready lane that has been passed over. -/
def ready (pc : Word) (n : Nat) : Lane := { Lane.start pc false with entry := .inLine, passed := n }

/-- PartitionsIssueAndResultsLand: a partition with an eligible offer; lanes passed over 63 and 64 times; an old bundle; a yield window
and a sleep that end; a result for waiting lanes; a line that is right at the second fetch and one that is not. -/
theorem witness_issue : (let s := sys.withFetchWord 96 (word 0x0A 0 0 [])
      let gs := s.partGroups 1024
      let e := gs.foldl State.enterLines s
      gs = [1] ∧ gs.flatMap e.beforePicks = [] ∧ ((gs.flatMap e.offers).map (fun o => e.look o o.pc)).any (e.eligible 1024 (e.part 1024).bankNext) = true) ∧
    (let s := usrG (fun x => { x with lines := [(64, []), (128, []), (192, [])], lanes := [ready 64 0, ready 128 64, ready 192 63] })
     (s.bundles 13).head?.map (·.pc) = some 64 ∧ (s.readyLanes 13).getLsbD 1 = true ∧ (s.lane 13 1).wait ≠ .yield ∧ (s.lane 13 1).pc ≠ 64 ∧ (s.readyLanes 13).getLsbD 2 = true) ∧
    (let s := usrG (fun x => { x with ages := [{ pc := 64, park := 0, since := 0, promoted := false, reserved := false }], lines := [(64, [])], lanes := [ready 64 0] })
     let s := { s with ag := { s.ag with cycle := 96 } }
     ((s.offers 13).find? (fun o => o.pc == 64)).any (fun o => !o.yields && !o.promo && decide (96 ≤ s.ag.cycle - o.since)) = true) ∧
    (let s := usrL (fun y => { y with wait := .yield, yieldEnd := 0 })
     (s.lane 13 1).wait = .yield ∧ (s.lane 13 1).yieldEnd ≤ s.ag.cycle ∧ 1 < (s.group 13).lanes.length) ∧
    (let s := usrL (fun y => { y with wait := .sleep, deadline := 0 })
     (s.lane 13 1).wait = .sleep ∧ (s.lane 13 1).deadline ≤ s.ag.clock ∧ (s.lane 13 1).left = false ∧ (s.lane 13 1).waitId = 0) ∧
    (let p : Pending := { id := 20, flag := 0, lanes := 3, writes := [{ cls := .v, idx := 1, lane := 31, value := 5, raced := false }, { cls := .s, idx := 95, lane := 0, value := 5, raced := false }, { cls := .p, idx := 6, lane := 0, value := 1, raced := false },
       { cls := .b, idx := 15, lane := 0, value := 5, raced := false }] }
     let s := (spw id id).modGroup 13 (fun x => { x with pending := [p] })
     (s.group 13).pending.find? (fun p => p.id == 20) = some p ∧ s.ctl.queries = [] ∧ (s.group 13).waits.length ≤ 1 ∧ (∀ w ∈ (s.group 13).waits, w.id = 20 ∧ w.due = false) ∧ s.freeWaits 13 20 = false ∧
     p.writes.Pairwise (fun a b => ¬ (a.cls = b.cls ∧ a.idx = b.idx ∧ (a.lane = b.lane ∨ (a.cls ≠ .v ∧ a.cls ≠ .p)))) ∧
     ((s.group 13).waits.find? (fun w => w.id == 20)).isSome = true ∧ (s.lane 13 1).waitId = 20 ∧ (s.lane 13 1).left = false) ∧
    (∀ b ∈ [(0 : Byte), 1],
      let s := { usr with mems := { usr.mems with dram := if b = 0 then usr.mems.dram else (64, b) :: usr.mems.dram } }
      (s.lane 13 1).runs = true ∧ (s.lane 13 1).pc = 64 ∧ (s.lane 13 1).entry ≠ .inLine ∧ (s.lane 13 1).dike = [] ∧ s.heldUp (s.group 13) = false ∧
        (match s.fetchLine 13 64 with | .line bytes => okParity bytes == decide (b = 0) | _ => false) = true) := by decide +kernel

/-- CompactorMovesAndCoresGate: a group and a shared range that may move, and a cluster of cores that hold no block. -/
theorem witness_compactor : (let x := usr.group 13
      x.part < 1024 ∧ x.retired = false ∧ 64 % roundRegs x.nregs = 0 ∧ 960 % roundRegs x.nregs = 0 ∧ 960 + roundRegs x.nregs ≤ 1024 ∧ usr.mayMove 13 = true ∧ (usr.core x.core).hold = false ∧
      (∀ q ∈ usr.work.groups, q.2.part = x.part → q.1 = 13)) ∧
    (let b := usr.block 12
     b.place = .live ∧ 0 < roundShared b.sharedSz ∧ 458752 % roundShared b.sharedSz = 0 ∧ 458752 + roundShared b.sharedSz ≤ 512 * 1024 ∧ usr.sharedStill 12 = true ∧
     (usr.core b.core).hold = false ∧ (∀ q ∈ usr.work.blocks, q.1 = 12)) ∧ usr.ctl.queries = [] ∧
    (∀ c, 32 * 7 + 4 * 7 ≤ c ∧ c < 32 * 7 + 4 * 7 + 4 → usr.heldBlocks c = [] ∧ (usr.core c).draining = false ∧ (usr.core c).scanning = false) := by
  refine ⟨by decide +kernel, by decide +kernel, by decide +kernel, fun c h => ?_⟩
  have : c = 252 ∨ c = 253 ∨ c = 254 ∨ c = 255 := by omega
  rcases this with rfl | rfl | rfl | rfl <;> decide +kernel

/-- A small block: one lane, 8 registers, no shared memory and no spill stack. -/
def small : State :=
  (usrG (fun x => { x with nregs := 8, ntiles := 0, spillSz := 0, lanes := [Lane.start 64 false] })).modBlock 12 (fun x => { x with sharedSz := 0, lanesN := 1 })
/-- It has been asked to stop. -/
def asked : State := after (exec (.preemption 10 [0]) small)
/-- It has stopped and is saved. -/
def saved : State := after (exec (.preemptLaneStop 13 0) asked)

/-- The bytes of a saved image of that block: its magics, majors and counts (R369). -/
def imgByte (i : Nat) : Byte :=
  if i = 0 then 0x42 else if i = 1 then 0x4B else if i = 2 then 1 else if i = 3 then 1 else if i = 4 then 1 else if i = 8192 then 0x49
  else if i = 8193 then 0x47 else if i = 8194 then 1 else if i = 8195 then 1 else 0
/-- A table of bytes. -/
def table (n : Nat) (f : Nat → Byte) : List Byte := (List.range n).map f

theorem imageAt_table (n : Nat) (f : Nat → Byte) (o k : Nat) : imageAt (table n f) o k = (List.range' o (min k (n - o))).map f := by
  rw [imageAt, table, List.range_eq_range', ← List.map_drop, ← List.map_take, List.drop_range']
  congr 1
  exact List.ext_getElem (by simp) (by intros; simp)

/-- That image passes the checks of a return. -/
theorem table_okImage : okImage (table 15872 imgByte) = true := by
  have hc : numOf (imageAt (table 15872 imgByte) 32 2) = 0 := by rw [imageAt_table]; decide +kernel
  have hg : numOf (imageAt (table 15872 imgByte) 3 1) = 1 := by rw [imageAt_table]; decide +kernel
  have hn : numOf (imageAt (table 15872 imgByte) 6 2) = 0 := by rw [imageAt_table]; decide +kernel
  rw [okImage]
  simp only [hc, hg, hn]
  simp only [okGroups, zeroAt, imageAt_table]
  decide +kernel

/-- The saved block with that image. -/
def savedB : State := saved.modBlock 12 (fun x => { x with image := table 15872 imgByte })

theorem savedB_image : okImage (savedB.block 12).image = true := by
  rw [savedB, State.block_modBlock_self _ _ _ (by decide +kernel)]
  dsimp only
  exact table_okImage

/-- BlocksAreStoppedSavedAndResumed: a live block, a block that has been asked to stop, one whose lanes have all stopped, and a saved
one, with an image that passes, that fits its old core and another. -/
theorem witness_preemption : (Map.find? small.work.blocks 12).isSome = true ∧ (small.block 12).groups.count 13 = 1 ∧ (∀ q ∈ small.work.blocks, q.1 = 12) ∧
    (small.group 13).present.getLsbD 0 = true ∧ (small.block 12).place = .live ∧ (small.block 12).launch = 10 ∧ (small.block 12).core ∈ [0] ∧
    (asked.block 12).place = .saving ∧ (asked.lane 13 0).frozen = false ∧ (asked.group 13).pending = [] ∧ (asked.lane 13 0).stopAsked = true ∧ (asked.group 13).blk = 12 ∧
    (let s := asked.modGroup 13 (fun x => { x with lanes := x.lanes.map (fun y => { y with frozen := true, stopAsked := false }) })
     s.allStopped 12 = true ∧ s.mayClose 12 = true ∧ (s.lane 13 0).stopAsked = false ∧ (s.block 12).place = .saving) ∧
    (let s := asked.modBlock 12 (fun x => { x with stopBy := 7 })
     let s := { s with ag := { s.ag with clock := 7 } }
     (s.block 12).place = .saving ∧ (s.block 12).stopBy = 7 ∧ 7 ≤ s.ag.clock ∧ (s.lane 13 0).frozen = false ∧ ∀ q ∈ (s.block 12).groups, (s.group q).pending = []) ∧
    savedB.behind 10 = false ∧ (saved.block 12).image = [] ∧ saved.together 12 = [12] ∧ saved.mayReturn 12 = true ∧ saved.behind 10 = false ∧ (saved.placeOld 12 31 3).isSome = true ∧
    (savedB.block 12).place = .saved ∧ savedB.together 12 = [12] ∧ savedB.mayReturn 12 = true ∧ (savedB.block 12).alone = false ∧
    savedB.allSaved (savedB.block 12).cluster = true ∧ (savedB.placeOld 12 0 0).isSome = true ∧ (savedB.placeOld 12 31 3).isSome = true := by decide +kernel

/-- A command of sixteen words. -/
def cmd (w0 w1 w2 : Word) : Cmd := { idx := 5, words := [w0, w1, w2] ++ List.replicate 13 0 }
/-- `usr` without work, and with that command at the head of queue 0. -/
def que (c : Cmd) : State :=
  { usr with work := { usr.work with launches := [], clusters := [], blocks := [] }, fe := { usr.fe with queue := [(0, { q0 with store := [c], taken := 5, nextTok := 5 })] } }

/-- A pending cluster of one block of lane 1 that may be placed. -/
def pending : State :=
  let s := usrB (fun b => { b with place := .pending, groups := [], sharedSz := 0, lanesN := 1 })
  let s := s.modCluster 11 (fun c => { c with placed := false, lanesN := 1, kernel := { c.kernel with shared := 0, spill := 0 } })
  { s with fe := { s.fe with pend := [11] } }

/-- LaunchesStartAndClustersArePlaced: a LAUNCH whose descriptor passes, one whose descriptor fails, and a pending cluster of one block on
the core and the partition at the start and at the end of its CD. -/
theorem witness_launch : (let c := cmd 0x101 0x8000 7
      (que c).head 0 true (some 1) = some c ∧ (c.words.getD 1 0).toNat % 64 = 0 ∧
      ((gotten ((que c).frontRead 0 0x8000 64)).any (fun bs => ((que c).parse 0 bs).toOption.isSome)) = true) ∧
    (let c := cmd 0x2001 0x8040 7
     (que c).head 0 true (some 1) = some c ∧ ((gotten ((que c).frontRead 0 0x8040 64)).any (fun bs => ((que c).parse 0 bs).toOption.isNone)) = true) ∧
    (Map.find? pending.work.clusters 11).isSome = true ∧ (pending.cluster 11).placed = false ∧ (pending.cluster 11).retired = false ∧ 11 ∈ pending.fe.pend ∧
    pending.placesWork 0 = true ∧ (pending.polder? 0).any (fun p => p.cds.contains 0) = true ∧ pending.unplaced 11 = [12] ∧ pending.behind 10 = false ∧
    (pending.placeAll false [(12, 0, 0)]).isSome = true ∧ (pending.placeAll false [(12, 31, 3)]).isSome = true := by decide +kernel

/-- QueuesTakeCommandsAndWriteTokens: a readable command ring and a writable consumer index; each kind of command at the head; a pending
WAIT; notifications at the ends of their range and beyond it; a token with a slot; a provisional launch; a launch that has not ended. -/
theorem witness_queues : (let x := usr.queue 0
      x.reads = true ∧ (usr.polder? 0).any (fun p => decide (p.vf.st ≠ .error)) = true ∧ x.cons < x.prod ∧ x.store.length < 64 ∧
      (gotten (usr.frontRead 0 0xA000 128)).isSome = true ∧ (gotten ((usr.frontRead 0 0xA000 128).1.frontWrite 0 0xC000 (bytesOf 8 1))).isSome = true) ∧
    (que (cmd 0 0 7)).head 0 true (some 0) = some (cmd 0 0 7) ∧ (que (cmd 0xFF 0 7)).head 0 false none = some (cmd 0xFF 0 7) ∧
    (que (cmd 2 0x9000 1)).head 0 true (some 2) = some (cmd 2 0x9000 1) ∧ (que (cmd 2 0x9001 1)).head 0 false none = some (cmd 2 0x9001 1) ∧
    ((que (cmd 2 0 0)).queue 0).st ≠ .resetting ∧
    (let s := { usr with fe := { usr.fe with queue := [(0, { q0 with waiting := some (0x9000, 1), taken := 6 })] } }
     (s.queue 0).waiting = some (0x9000, 1) ∧ gotten (s.frontRead 0 0x9000 8) = some [1, 0, 0, 0, 0, 0, 0, 0] ∧ (s.queue 0).taken = (cmd 0 0 0).idx + 1) ∧
    (let s := { usr with mems := { usr.mems with dram := (3, 0x80) :: usr.mems.dram } }
     s.queueOf 0 0 = some 0 ∧ (s.polder? 0).map (fun p => p.vf.st) = some .unlocked ∧
     (s.modPolder 0 (fun p => { p with vf := { p.vf with st := .run } })).queueOf 0 0 = some 0 ∧ (s.queue 0).prod = 1 ∧ (s.queue 0).cons + 2 ^ (s.queue 0).cmdLog = 16) ∧
    (let t : Token := { kind := 0, status := 0, detail := 0, prov := false, cmd := 5, cookie := 7, launch := 0 }
     let s := { usr with fe := { usr.fe with queue := [(0, { q0 with tokens := [t], nextTok := 5, cplP := 15 })] } }
     let s := s.modLaunch 10 (fun l => { l with tokened := true })
     s.nextToken 0 = some t ∧ (∀ y ∈ s.work.launches, y.2.pred ≠ some 5) ∧ ((s.modLaunch 10 (fun l => { l with pred := some 5 })).launch 10).pred = some 5 ∧
     ((s.modQueue 0 (fun x => { x with st := .resetting })).queue 0).tokens ≠ [] ∧ (s.queue 0).cplP - (s.queue 0).cplC < 16 ∧
     (gotten (s.frontSpan 0 .w (pageParts (0xB000 + 32 * 15) 32))).isSome = true ∧
     (gotten ((s.frontSpan 0 .w (pageParts (0xB000 + 32 * 15) 32)).1.frontSpan 0 .w (pageParts 0xD000 8))).isSome = true) ∧
    (let s := usr.modLaunch 10 (fun l => { l with tokened := true, provision := true, suspect := true })
     (s.launch 10).certified = false ∧ (s.launch 10).queue < 4096) ∧ (usr.launch 10).done = false ∧ (usr.launch 10).ended = none ∧
    (usr.block 12).launch = 10 ∧ (usr.block 12).place ≠ .retired ∧ (Map.find? usr.work.launches 10).isSome = true := by decide +kernel

/-- TranslationRegistersInvalidate: values at the ends of each register's range, and values with a reserved bit set. -/
theorem witness_translation_registers : 0 < 8 ∧ ((usr.polder? 0).map (fun p => p.vf.st)) = some .unlocked ∧ (Map.find? usr.tr.polder 0).isSome = true ∧
    (∀ n ∈ [0, 2 ^ 56 - 2 ^ 12 + 1], n / 2 ^ 56 = 0 ∧ n / 2 % 2 ^ 11 = 0) ∧ 2 ^ 56 / 2 ^ 56 ≠ 0 ∧ 2 / 2 % 2 ^ 11 ≠ 0 ∧ (2 ^ 56 - 2 ^ 12) % 2 ^ 12 = 0 ∧
    (∀ op, op < 4 → (2 ^ 64 - 2 ^ 12 + 0xF0 + op) % 16 = op ∧ (2 ^ 64 - 2 ^ 12 + 0xF0 + op) / 2 ^ 8 % 16 = 0) ∧
    (∀ n ∈ [0, 2 ^ 56 - 2 ^ 12 + 4, 12], n / 2 ^ 56 = 0 ∧ n / 2 ^ 4 % 2 ^ 8 = 0 ∧ (n % 16 = 0 ∨ (4 ≤ n % 16 ∧ n % 16 ≤ 12))) ∧ (2 ^ 56 - 2 ^ 16) % 2 ^ 16 = 0 := by decide +kernel

/-- Group 13 with its lanes waiting for a fault. -/
def flt (f : Xlat → Xlat) : State := (usrL (fun y => { y with wait := .fault })).modXlat 0 f
/-- An invalidation of a page for the given stages. -/
def inv (page : Nat) (stages : List Nat) : Inval := { num := 1, gen := 1, stages := stages, range := some (page, 1), queue := false, old := [] }

/-- WalksFaultsAndInvalidationsComplete: a walk that an invalidation of either stage covers and one that none covers; an invalidation of
either kind with no older walk and no older store; a fault to be served whose page has a free frame; a fault in the ring. -/
theorem witness_walks : (let c := fun (st : Nat) => ({ polder := 0, stage := st, page := 0, level := 2, entry := 0x79 } : Cached)
      let w : Walk := { unit := 0, polder := 0, who := .copy 5, dws := false, va := 0x9000, running := true, gen := 0, gen2 := 0, reads := [c 1, c 2] }
      let s := usr.modXlat 0 (fun x => { x with invals := [inv 9 [1]], gen := 1, invals2 := [inv 9 [2]], gen2 := 1 })
      let s := { s with tr := { s.tr with walks := [(7, w), (8, { w with gen := 1, gen2 := 1 })] } }
      Map.find? s.tr.walks 7 = some w ∧ (s.formed 0 0 false 0x9000).isSome = true ∧ w.gen < 1 ∧ (inv 9 [1]).covers (c 1) = true ∧ (inv 9 [2]).covers (c 2) = true ∧
      Map.find? s.tr.walks 8 = some { w with gen := 1, gen2 := 1 } ∧ (∀ v ∈ (s.xlat 0).invals ++ (s.xlat 0).invals2, v.gen ≤ 1) ∧ Map.sorted s.tr.walks = true ∧
      (s.tr.walks.filter (fun q => q.2.unit == w.unit)).length ≤ 32) ∧
    (let s := usr.modXlat 0 (fun x => { x with invals := [inv 9 [1]], invals2 := [inv 9 [2]] })
     (s.xlat 0).invals = [inv 9 [1]] ∧ (s.xlat 0).invals2 = [inv 9 [2]] ∧ s.cp.copy = [] ∧ s.tr.walks = [] ∧ (s.xlat 0).migs = [] ∧ (∀ e ∈ s.work.groups, e.2.buf = [])) ∧
    (let f : FaultReq := { polder := 0, who := .lane 13 3, pages := [2], dws := true }
     let s := flt (fun x => { x with s2dws := x.s2dws.map (fun q => if q.1 = 2 then (2, 1) else q) })
     let s := { s with tr := { s.tr with faults := [(0, [f])] } }
     Map.get s.tr.faults [] 0 = [f] ∧ s.moving f = false ∧ Map.find? s.tr.held 0 = none ∧ okDws2 (Map.get (s.xlat 0).s2dws 0 2) = true ∧
     (s.freeFrame 0 (bitsOf (Map.get (s.xlat 0).s2dws 0 2) 57 3)).isSome = true ∧ (s.lane 13 1).left = false ∧ (s.lane 13 1).wait = .fault ∧ (s.lane 13 1).waitId = 0) ∧
    (let f : RingFault := { idx := 5, who := .lane 13 3, va := 0x9000, due := 0 }
     let s := flt (fun x => { x with rfaults := [f] })
     (s.xlat 0).rfaults.find? (fun f => f.idx == 5) = some f ∧ (0x501 : Word).toNat / 2 ^ 8 = 5) := by decide +kernel

/-- DRAM that holds a descriptor of three copies on three stacks at 0x100000. -/
def maj : State :=
  { usr with mems := { usr.mems with dram := usr.mems.dram ++ [(0x100000, 3), (0x10000A, 0x20), (0x100012, 0x20), (0x100014, 0x40), (0x100017, 1), (0x10001A, 0x20), (0x10001C, 0x80), (0x10001F, 2)] } }
/-- Its majority page with the sixteen leaves at 0x40000000. -/
def majP : State :=
  maj.modXlat 0 (fun x => { x with
    s2tab := x.s2tab ++ [(0x3008, 0x4001), (0x4000, 0x5001)] ++ (List.range 16).map (fun k => (0x5000 + 8 * k, 0x200000000100059)), majDesc := [(0x4000, 0x100000)] })

/-- PagesMoveAndDirtyLogsAreHarvested: a DWS page and a DRAM leaf that may move, a copy of a majority page, and a move in each phase. -/
theorem witness_moves : usr.okMove 0 true 0 1 = true ∧ (usr.xlat 0).migs = [] ∧ ((usr.xlat 0).s2find 0).isSome = true ∧ usr.okMove 0 false 0 0x40000079 = true ∧
    (majP.xlat 0).majPage 0x40000 = some 0x100000 ∧ majP.okCopyMove 0x100000 (0x4000010000 + 2 ^ 9) = true ∧ majP.cp.sent = [] ∧
    (∀ ph ∈ [1, 2], let m : Migration := { polder := 0, dws := true, page := 0, entry := 1, phase := ph, num := 1 }
      let s := usr.modXlat 0 (fun x => { x with migs := [m], invals2 := [inv 0 [4]] })
      (s.xlat 0).invals2 = [inv 0 [4]] ∧ (s.xlat 0).migs.filter (fun q => q.num == (inv 0 [4]).num) = [m] ∧ s.heldCells 0 = false ∧ s.tr.walks = []) ∧
    (let m : Migration := { polder := 0, dws := false, page := 0x40000, entry := 0x4000010000 + 2 ^ 9, phase := 1, num := 0 }
     let s := majP.modXlat 0 (fun x => { x with migs := [m] })
     (s.xlat 0).majPage 0x40000 = some 0x100000 ∧ (s.xlat 0).migs.find? (fun m => !m.dws && m.page == 0x40000) = some m) ∧
    Mem.wf usr.mems.dram = true ∧ Mem.wf usr.mems.dws = true ∧ (usr.polder? 0).isSome = true := by decide +kernel

/-- A copy of a kind and length from shared memory at 0 to shared memory at 1024. -/
def cp (kind len : Nat) (w3 : Word) : Copy :=
  { blk := 12, grp := 13, ring := 15, core := 0, idx := 0, w0 := BitVec.ofNat 64 (kind + 2 ^ 19 * 2 + 2 ^ 22 * (if kind = 4 then 0 else 2) + 2 ^ 25 * len), w1 := 0, w2 := 1024, w3 := w3, second := [0, 0, 0, 0],
    started := false, done := 0, base := 0, upto := 0, landed := [], got := [], served := false, doomed := false, status := 0, poison := false, susp := 0, idxs := [], cell := none, cellSt := [], complete := false }
/-- `usr` with that copy under the key 20 and its ring. -/
def cps (c : Copy) : State :=
  { usr with cp := { usr.cp with copy := [(20, c)] }, cores := { usr.cores with rings := [(15, { ring12 with prod := 1 })] } }

/-- CopyEntriesAreFetchedAndStarted: a ring that owes an entry; a copy of every kind that may start, an index list outside the
allocation, one that a lane is writing, and a majority kind on an ordinary page. -/
theorem witness_copy_start : (let s := cps (cp 0 8 0)
      s.owes { ring12 with prod := 1 } = true ∧ (s.block 12).place = .live ∧ (s.launch 10).ended = none) ∧
    (∀ k, k < 9 → (cps (cp k 64 1)).mayStart (cp k 64 1) = true ∧ (cp k 64 1).kind = k ∧ (cps (cp k 64 1)).movesBlock 12 = false) ∧
    (let c := cp 2 64 (65536 + 2 ^ 32)
     c.elems = 1 ∧ c.w3.toNat % 2 ^ 32 = 65536 ∧ (cps c).mayStart c = true) ∧
    (let c := cp 2 64 (4 + 2 ^ 32)
     let s := cps c
     let t := { s with mems := { s.mems with det := [{ who := .lane 13 0, space := 0, blk := 12, addr := 7, write := true, atom := false, chunk := 0 }] } }
     s.mayStart c = true ∧ c.elems = 1 ∧ c.w3.toNat % 2 ^ 32 = 4 ∧ (s.conflict (.copy 20) 0 12 4 4 false false).isSome = false ∧ (t.conflict (.copy 20) 0 12 4 4 false false).isSome = true) ∧
    (cps (cp 7 64 0)).majorityIn 0 0 2 1024 64 true = false ∧ (∀ k ∈ [0, 1, 4, 5], (cp k 64 1).dest.total ≠ 0) ∧ (cp 6 64 0).len ≠ 0 := by decide +kernel

/-- A copy of a kind whose source starts at `src` and of which `got` has been read has its first part to land in shared memory, no other
part, and no clash. -/
def lands (k : Nat) (src : Word) (got : Map (Byte × Bool)) : Bool :=
  let c := { cp k 64 (1 + 2 ^ 32) with w1 := src, started := true, idxs := [0], got := got }
  let s := cps c
  c.restart == 0 && c.upto == 0 && c.susp == 0 && s.mayCopy c && !s.movesBlock c.blk && c.dspace == 2 && !c.w0.getLsbD 17 && !c.oneWord && !c.complete &&
  decide (0 < c.dest.total) && (Map.find? s.work.blocks c.blk).isSome &&
  (c.dest.part 0 0 :: (List.range 64).map (fun j => c.dest.partAfter 0 j (c.dest.part 0 0))).eraseDups.all (fun q =>
    !s.runsClash 20 c [{ k := { kind := 5, addr := q.va, ipa := 0 }, n := q.n, va := q.va, pol := s.copyPolder c }] true &&
    (k == 4 || ((c.missing q).isEmpty == !got.isEmpty)) && ((c.missing q).map (c.source.part 0)).eraseDups.all (fun o =>
      match s.reach1 0 (s.copyPolder c) c.sspace o.va o.n .r with
      | .ok r => !s.runsClash 20 c [r] false
      | .error _ => false))

/-- CopiesMoveBytesAndComplete: a copy of each kind up to 5 before and after it has read its source, and from a source inside a line; a copy
that ends, with and without an error, its tag, its barrier and its ring. -/
theorem witness_copy_land : ([0, 1, 2, 3, 4, 5].all (fun k => lands k 56 [] && lands k 0 ((List.range 64).map (fun i => (i, (1, false))))) = true) ∧
    (∀ st ∈ [0, 3], let c := { cp 0 64 0 with w0 := BitVec.ofNat 64 (2 ^ 19 * 2 + 2 ^ 22 * 2 + 2 ^ 25 * 64 + 2 ^ 10 + 2 ^ 11 + 2 ^ 4 * 63 + 2 ^ 12 * 15), susp := 9, status := st }
      let s := (cps c).modBlock 12 (fun b => { b with bars := [(15, bar2)] })
      Map.find? s.cp.copy 20 = some c ∧ c.complete = false ∧ (∀ q ∈ s.work.groups, q.2.waits = []) ∧ 13 ∈ (s.block c.blk).groups ∧ (s.group 13).retired = false ∧
      c.w0.getLsbD 10 = true ∧ c.w0.getLsbD 11 = true ∧ (s.bar c.blk 15).init = true ∧ (s.ringOf c).isSome = true ∧ s.sharedWord c.blk 8 = 0) := by decide +kernel

/-- A cell in a state, with the answer of copy 0. -/
def cell (st : CellState) : Cell :=
  { idx := 0, st := st, desc := 0x100000, answers := [(0, 0, List.replicate 56 0)], replies := [], tag := 0, data := List.replicate 56 1, dest := (5, 1024, 0), timer := 0 }
/-- A write of a cell to copy 1, with a tag, or its reply. -/
def sent (t : Word) (a : Option Bool) : MajMsg :=
  { desc := 0x100000, from_ := 20, idx := 0, k := 1, pa := 0x400000, tag := t, data := List.replicate 56 1, reply := a }

/-- A write with a tag has been sent to copy 1 of a cell, and is accepted when the tag is greater than 0. -/
def written (t : Word) : Bool :=
  let s := { maj with cp := { maj.cp with sent := [sent t none], copy := [(20, { cp 7 64 0 with cell := some (cell .write) })] } }
  decide (s.cp.sent.find? (fun m => m.from_ == 20 && m.k == 1 && m.reply.isNone) = some (sent t none)) && decide ((s.cellTag (sent t none).pa).toNat < t.toNat) == decide (t = 1) &&
  s.counts 0x100000 1 && !s.movingCopy 0x100000 1

/-- MajorityCellsAndRegionsAreServed: a store and a load at their last answer, and at one before the last; a reply that is the first and one
that is the last; a cell out of time; a write that is accepted and one that is not. -/
theorem witness_majority : (∀ k ∈ [7, 8], let c := { cp k 64 0 with started := true, cell := some (cell .query) }
      let s := { maj with cp := { maj.cp with copy := [(20, c)] } }
      Map.find? s.cp.copy 20 = some c ∧ s.counts 0x100000 1 = true ∧ s.majOf 0x100000 = 2 ∧ s.cellSick (s.copyPa 0x100000 1 0) = false ∧ (Map.find? s.work.blocks c.blk).isSome = true ∧
      s.cellTag (s.copyPa 0x100000 1 0) = 0 ∧ (cell .query).timer ≤ s.ag.clock ∧ (∀ a ∈ (cell .query).answers, a.1 ≠ 1) ∧
      s.runsClash 20 c [{ k := { kind := 5, addr := 1024, ipa := 0 }, n := 64, va := (c.piece c.done).dst, pol := s.copyPolder c }] true = false) ∧
    (∀ rs ∈ [[], [(0, true)]], let c := { cp 7 64 0 with started := true, cell := some { cell .write with replies := rs } }
      let s := { maj with cp := { maj.cp with copy := [(20, c)], sent := [sent 1 (some true)] } }
      s.cp.sent.find? (fun m => m.from_ == 20 && m.idx == c.done && m.k == 1 && m.reply.isSome) = some (sent 1 (some true)) ∧ (rs.length + 1 < s.majOf 0x100000 ↔ rs = [])) ∧
    written 0 = true ∧ written 1 = true := by decide +kernel

/-- MajorityCellsAndRegionsAreServed: a stage-2 tree in order. -/
theorem witness_ordered : Xlat.Ordered x0 := by
  refine ⟨by decide +kernel, by decide +kernel, by decide +kernel, by decide +kernel, by decide +kernel, fun q hq => ⟨?_, fun level t h => ?_⟩⟩
  · revert q; decide +kernel
  · obtain ⟨-, h6, -, rfl⟩ := s2Step_table h
    clear h
    revert h6
    revert q; decide +kernel

/-- MajorityCellsAndRegionsAreServed: a sound descriptor with the first and the last cell, one with a copy to rebuild, a page to declare
and one to withdraw, before and after its leaves are gone, and a paired peer's store. -/
theorem witness_majority_regions : (maj.okDesc 0x100000 = true ∧ maj.copyN 0x100000 = 3 ∧ (∀ i, i < 3 → maj.copyPa 0x100000 i 0 ≠ 0x100000 ∧ ∀ j, j < 3 → i ≠ j → maj.copyPa 0x100000 i 0 ≠ maj.copyPa 0x100000 j 0) ∧
      (∀ c ∈ [0, 1023], maj.bestCopy 0x100000 c = some (0, List.replicate 56 0)) ∧ maj.copySt 0x100000 2 ≠ 1) ∧
    (let s := { maj with mems := { maj.mems with dram := maj.mems.dram.map (fun (c : Nat × Byte) => if c.1 = 0x10001F then (c.1, 0x82) else c) } }
     s.okDesc 0x100000 = true ∧ s.copySt 0x100000 2 ≠ 0 ∧ Map.get s.cp.rebuilt 0 (8 * 0x100000 + 2) = 0 ∧ s.movingCopy 0x100000 2 = false ∧
       s.bestCopy 0x100000 0 = some ((0 : Word), List.replicate 56 (0 : Byte))) ∧
    (Mem.wf usr.mems.dram = true ∧ usr.dramFree 0x40000000 4096 = true ∧ (∀ a ∈ [0x40010000, 2 ^ 38, 2 ^ 39], a % 65536 = 0 ∧ a < 2 ^ 41 ∧ usr.dramFree a 65536 = true) ∧
      (∀ i, i < 16 → (usr.xlat 0).s2find (0x40000000 + 4096 * i) = none) ∧ (∀ i, i < 16 → ((majP.xlat 0).s2find (0x40000000 + 4096 * i)).map (·.level) = some 4)) ∧
    (Map.find? (majP.xlat 0).majDesc 0x4000 = some 0x100000 ∧ Map.sorted (majP.xlat 0).s2tab = true ∧ (majP.xlat 0).leaves.any (fun l => bitsOf l.entry 56 4 == 2 && entryAddr l.entry == 0x100000) = true) ∧
    (let s := usr.modXlat 0 (fun x => { x with majDesc := [(0x4000, 0x100000)] })
     Map.find? (s.xlat 0).majDesc 0x4000 = some 0x100000 ∧ (s.xlat 0).leaves.all (fun l => bitsOf l.entry 56 4 != 2) = true ∧ (s.xlat 0).invals2 = [] ∧ s.cp.copy = []) ∧
    (let s := { usr with fab := { usr.fab with domain := [(5, (1, 8))] } }
     s.pairedWith 5 0 = some 0 ∧ s.majorityIn 8 0 0 0x9FFF 1 true = false ∧ (match s.global 8 0 0x9FFF .w with | .ok pl => pl.kind == 0 | _ => false) = true) := by decide +kernel

/-- `usr` with its polder changed. -/
def usrP (f : Polder → Polder) : State := usr.modPolder 0 f
/-- `usr` with a second polder on CD 1, which the launch belongs to. -/
def two (f : Polder → Polder) : State :=
  { usr with trust := { usr.trust with polder := [(0, pold), (1, f { pold with handle := 2, saveArea := 4, cds := [1] })] },
             tr := { usr.tr with polder := [(0, Xlat.fresh), (1, x0)] }, work := { usr.work with launches := [(10, { l10 with polder := 1 })] } }

/-- A policy document for one CD with a one-byte signature. -/
def doc : List Byte :=
  [0x50, 0x4C, 1, 0, 0x44, 8, 0, 0, 2] ++ List.replicate 7 (0 : Byte) ++ [1] ++ List.replicate 2096 (0 : Byte) ++ [1, 0] ++ [7]
/-- The context of a queue of polder 0 with rings of 16. -/
def ctx (log : Byte) : List Byte := List.replicate 32 (0 : Byte) ++ [log, 4, 0, 1, 0] ++ List.replicate 27 (0 : Byte)

/-- PoldersAndQueuesAreMadeAndEnded: the document is right when its signature is, which only a free function says. -/
theorem witness_policy (h : Config.falconVerify (imageAt doc 0x140 1793) (doc.take 0x841) (doc.drop 0x843) = true) :
    usr.okPolicy doc = true ∧ (policyOf doc).cdCount = 1 ∧ (policyOf doc).version = 2 ∧ (policyOf doc).pk ≠ pold.policy.pk ∧
      (∀ q ∈ (usrP (fun x => { x with policy := { pol with pk := (policyOf doc).pk } })).trust.polder, q.2.policy.pk = (policyOf doc).pk ∧ q.2.policy.version < (policyOf doc).version) := by
  refine ⟨?_, by decide +kernel, by decide +kernel, by decide +kernel, by decide +kernel⟩
  rw [State.okPolicy, h, show okFields doc = true by decide +kernel, show (policyOf doc).minSvn = 0 by decide +kernel]
  simp

/-- PoldersAndQueuesAreMadeAndEnded: a document that is not right; a free number and free and taken sets of CDs; a set to grow into, and
one that another polder holds; a half that is unused and one that is not; contexts of a queue; a running launch; a halted queue. -/
theorem witness_polders : (usr.open_ = true ∧ usr.okPolicy [] = false ∧ usr.freePolder = some 1 ∧ usr.freeSet 1 = some [1] ∧ usr.freeSet 8 = none ∧
      (usr.polder? 0).isSome = true ∧ (usr.polder? 7).isSome = false ∧ usr.cdFree 1 = true) ∧
    ((two id).cdFree 1 = false) ∧
    (let s := usrP (fun x => { x with cds := [0, 1] })
     s.unused 0 [1] = false ∧ ({ s with work := { s.work with launches := [] } } : State).unused 0 [1] = true) ∧
    (usr.grants 0 0 = true ∧ okCtx (ctx 4) = true ∧ okCtx (ctx 16) = true ∧ okCtx (ctx 3) = false ∧ okCtx (ctx 17) = false ∧ (queueOfCtx 4095 (ctx 4)).polder = 0 ∧
      (usr.queue 4095).st = .unassigned ∧ (∀ e ∈ usr.fe.queue, ¬ (e.2.polder = 0 ∧ e.2.st ≠ .unassigned ∧ e.2.iqid = 4095))) ∧
    ((usr.queue 0).st ≠ .unassigned ∧ usr.queuesOf 0 = [0] ∧ (usr.launch 10).done = false ∧ (usr.launch 10).queue = 0 ∧ (usr.launch 10).ended = none) ∧
    (∀ v ∈ [IfState.locked, IfState.run], ((usrP (fun x => { x with vf := { x.vf with st := v } })).polder? 0).any (fun x => x.vf.st == v) = true) ∧
    (let s := (usr.modQueue 0 (fun x => { x with st := .halted })).modLaunch 10 (fun l => { l with done := true })
     (s.queue 0).st = .halted ∧ (s.queue 0).tokens = [] ∧ (∀ l ∈ s.work.launches, l.2.queue = 0 → l.2.done = true)) := by decide +kernel

/-- GrantedCommandsActOnTheirPolder: a policy that grants all and one that grants nothing; a live block and a saving one; a debugger with
and without engines. -/
theorem witness_granted : (∀ k, k < 7 → pold.policy.grants.getLsbD k = true ∧ ({ pol with grants := 0 }).grants.getLsbD k = false) ∧
    (usr.polder? 0 = some pold ∧ usr.open_ = true ∧ Map.find? usr.work.launches (usr.block 12).launch = some l10 ∧ l10.polder = 0 ∧
      (usr.block 12).groups.count 13 = 1 ∧ (∀ q ∈ usr.work.blocks, q.1 = 12) ∧ (usr.block 12).place = .live ∧ (usr.group 13).present.getLsbD 1 = true ∧
      (usr.lane 13 1).wait = .running) ∧
    (let s := usrB (fun b => { b with place := .saving })
     (s.block 12).place = .saving ∧ (s.block 12).alone = false ∧ s.allStopped 12 = false ∧ (s.group 13).present.getLsbD 1 = true) ∧
    (∀ m ∈ [true, false], ∃ a, ({ pold with attach := some (0, m, m) }).attach = some a ∧ a.2.1 = m) ∧
    (let d := ({ pol with dbgBits := 15 }).dbgBits
     d.getLsbD 0 = true ∧ d.getLsbD 2 = true ∧ d.getLsbD 3 = true ∧ pol.dbgBits.getLsbD 0 = false ∧ (0xFFFF#16) &&& ~~~pol.holdMax = 0) ∧
    ((0 : Word) &&& ~~~pol.ctrGrp = 0 ∧ ¬ (1 : Word) &&& ~~~pol.ctrGrp = 0 ∧ pol.trace ≠ 0 ∧ (5 : BitVec 256) ∈ ({ pol with dests := [5] }).dests) := by decide +kernel

/-- A number is read back from its bytes. -/
theorem numOf_bytesOf (n v : Nat) : numOf (bytesOf n v) = v % 256 ^ n := by
  induction n generalizing v with
  | zero => simp [bytesOf, numOf, Nat.mod_one]
  | succ n ih => rw [bytesOf, numOf, ih, BitVec.toNat_ofNat, show (2 : Nat) ^ 8 = 256 by rfl, Nat.pow_succ', ← Nat.mod_mul]

/-- The front of a sealed image of polder 0 with no body. -/
def front : List Byte := [0x45, 0x53, 0, 0, 1, 0, 0, 0] ++ List.replicate 120 (0 : Byte)

/-- SeizuresStopSealAndRelease: the image with its tag over that front, the last that the device has sealed, passes the checks. -/
theorem witness_sealed : let img := front ++ bytesOf 32 (Config.sealTag 0 front).toNat
    State.okSealed { usr with trust := { usr.trust with images := [(1, 7, img)] } } pold img = true := by
  intro img
  have hn : front.length = 128 := by decide +kernel
  have hb : ∀ n v, (bytesOf n v).length = n := fun n => by
    induction n with
    | zero => intro v; rfl
    | succ n ih => intro v; rw [bytesOf, List.length_cons, ih]
  have hl : img.length = 160 := by rw [List.length_append, hn, hb]
  have ht : img.take 128 = front := List.take_left' hn
  have hf : descField img 128 32 = (Config.sealTag 0 front).toNat := by
    have : img.drop 128 = bytesOf 32 (Config.sealTag 0 front).toNat := List.drop_left' hn
    rw [descField, this, List.take_of_length_le (by rw [hb]), numOf_bytesOf]
    exact Nat.mod_eq_of_lt (Config.sealTag 0 front).isLt
  have h1 : descField img 0 2 = 0x5345 ∧ descField img 4 4 = 1 ∧ descField img 8 8 = 0 ∧ descField img 48 32 = 0 ∧ zeroAt img 2 2 = true ∧ zeroAt img 88 40 = true := by
    refine ⟨rfl, rfl, rfl, rfl, rfl, rfl⟩
  simp only [State.okSealed, hl, h1, Nat.reduceSub, ht, hf]
  simp [pold, pol]

/-- A copy group of polder 0 with a local REDUCE in flight for a second. -/
def coll (st : Nat) : State :=
  { usr with ag := { usr.ag with clock := 10 ^ 9 }, cp := { usr.cp with colls := [(0, { polder := 0, members := 3, timeout := st, local_ := some 20, since := 0, mine := [], data := [] })], copy := [(20, cp 6 64 0)] } }

/-- SeizuresStopSealAndRelease: a polder that may seize and one that may not; a running lane of another polder; a seizure under way, with
its copies, its saving and saved blocks and its pages; a round that is out of time. -/
theorem witness_seizure : ((two id).maySeize 0 0 = true ∧ (two id).maySeize 0 3 = false ∧ (two id).open_ = true ∧
      Map.find? (two id).work.launches ((two id).block 12).launch = some { l10 with polder := 1 } ∧ ((two id).block 12).groups.count 13 = 1 ∧
      ((two id).group 13).present.getLsbD 1 = true ∧ ((two id).block 12).place = .live) ∧
    (∀ pl ∈ [BlockPlace.saving, .saved], let s := (two (fun x => { x with seized := true })).modBlock 12 (fun b => { b with place := pl })
      let s := { s with trust := { s.trust with seizure := some { by_ := 0, since := 0, step := 4 } } }
      s.trust.seizure.isSome = true ∧ (s.polder? 1).any (fun x => x.seized) = true ∧ (s.block 12).place = pl ∧ (∀ k ∈ (s.block 12).groups, (s.group k).pending = []) ∧
      (Map.find? s.tr.polder 1).isSome = true ∧ ((s.xlat 1).s2find (4096 * (s.xlat 1).leafPage 0)).any (fun l => bitsOf l.entry 56 4 == 0 && bitsOf l.entry 7 1 == 0) = true) ∧
    (∀ t ∈ [0, 1000], let s := coll t
      (Map.find? s.cp.colls 0).any (fun k => k.local_ == some 20 && k.data.isEmpty && decide (k.since + 1000000 * (if k.timeout = 0 then 1000 else k.timeout) ≤ s.ag.clock)) = true ∧
      (Map.find? s.cp.copy 20).isSome = true ∧ (Map.find? s.cp.copy 20).all (fun c => c.status == 0) = true ∧ (∀ q ∈ s.cp.colls, q.1 = 0)) ∧
    (∀ b ∈ [true, false], (((coll 0).modPolder 0 (fun x => { x with suspended := b })).polder? 0).any (fun x => x.suspended == b) = true) := by decide +kernel

/-- SeizuresStopSealAndRelease: one of the members of `coll` is another package. -/
theorem witness_peer : ∃ j, j < 64 ∧ (3 : Word).getLsbD j = true ∧ j ≠ Config.package.toNat := by
  by_cases h : Config.package.toNat = 0
  · exact ⟨1, by decide, by decide, by omega⟩
  · exact ⟨0, by decide, by decide, fun e => h e.symm⟩

/-- A session at its end. -/
def fin : Session := { version := true, caps := true, algs := true, keyed := true, fin := true, epoch := 3, th := 0 }
/-- `usr` with its interface changed. -/
def usrV (f : Vf → Vf) : State := usrP (fun x => { x with vf := f x.vf })

/-- SpdmRequestsAreAnsweredInOrder: the mailboxes of both kinds of function, with a session at its end and one not begun. -/
theorem witness_spdm : (usr.hasDoe 0 = true ∧ usr.hasDoe 1 = true ∧ usr.session 1 = Session.none_ ∧ usr.tenant 1 = false) ∧
    (let s := usrV (fun v => { v with sess := fin })
     s.session 1 = fin ∧ s.tenant 1 = true ∧ s.session 0 = usr.trust.pfSess) ∧
    ((usrV (fun v => { v with sess := { fin with fin := false } })).session 1).keyed = true := by decide +kernel

/-- InterfaceRequestsMoveTheInterface: an interface in each state, with and without keys, and rooms for the replies; the first and the
second handle of a group. -/
theorem witness_interface : (∀ st ∈ [IfState.unlocked, .locked, .run, .error], ∀ k ∈ [true, false], let s := usrV (fun v => { v with st := st, keyed := k })
      (s.polder? 0).any (fun p => p.vf.st == st && p.vf.keyed == k && p.vf.stopping.isEmpty) = true ∧
      (∀ core, core < 4 → (s.group (core + 1)).waits = [] ∧ (s.box core 1).length < 16) ∧ (∀ q ∈ s.fe.queue, q.2.polder = 0 → q.2.st ≠ .resetting)) ∧
    ((0x1FF : Word).toNat / 2 ^ 8 % 2 ^ 8 = 1 ∧ Map.find? usr.cp.colls 0 = none) ∧
    (Map.find? (coll 0).cp.colls 1 = none ∧ ∀ j, j < 1 → (Map.find? (coll 0).cp.colls j).isSome = true) := by decide +kernel

/-- InterfaceRequestsMoveTheInterface: no member, which is known, and all 64 packages, which are not. -/
theorem witness_members : (∀ k, (0 : Word).getLsbD k = true → k = Config.package.toNat ∨ (Map.find? usr.fab.domain k).isSome = true) ∧
    ¬ ∀ k, (BitVec.allOnes 64).getLsbD k = true → k = Config.package.toNat ∨ (Map.find? ([] : Map (Nat × Nat)) k).isSome = true := by
  refine ⟨fun k h => by simp at h, fun h => ?_⟩
  have h0 := h 0 (by decide)
  have h1 := h 1 (by decide)
  simp [Map.find?] at h0 h1
  omega

/-- RequestsReachTheFirmwareAndFrozenRegistersAreGuarded: a tenant's request and room in box 0; each box with a message at the limits; an
interface that holds its registers and one that does not. -/
theorem witness_requests : (let s := usrV (fun v => { v with sess := fin })
      s.hasDoe 1 = true ∧ s.tenant 1 = true ∧ s.ctl.active = 0 ∧ (∀ q ∈ [(0, 0), (0, 1), (3, 2), (1, 3)], (s.group (q.1 + 1)).waits = [] ∧ (s.box q.1 q.2).length < 16)) ∧
    (∀ st ∈ [IfState.unlocked, .locked, .run], (usrV (fun v => { v with st := st })).trust.polder.all (fun q => q.2.vf.st == st) = true) := by decide +kernel

/-- ErrorsArePoisonedReportedAndFatal: a group, a block, room in box 3 and an arbiter that runs and one that has stopped; a place for the
dump and none. -/
theorem witness_errors : ((Map.find? usr.work.groups 13).isSome = true ∧ (Map.find? usr.work.blocks 12).isSome = true ∧ usr.ctl.arbDead = false ∧
      (usr.group (2 * usr.ctl.active + 1 + 1)).waits = [] ∧ (usr.box (2 * usr.ctl.active + 1) 3).length < 16 ∧ usr.rel.dumpBase.toNat % 2 ^ 12 = 0) ∧
    (({ usr with ctl := { usr.ctl with arbDead := true } } : State).ctl.arbDead = true ∧ (0x5001 : Word).toNat % 2 ^ 12 ≠ 0) := by decide +kernel

/-- ScansAndRetirementsTakeUnitsOut: cores that are drained, exposed, scanned and given up, with and without a block. -/
theorem witness_scans : (let s := usr.modCore 255 (fun c => { c with draining := true })
      (s.core 255).draining = true ∧ s.heldBlocks 255 = []) ∧
    (∀ c ∈ [0, 255], (usr.core c).draining = false ∧ (usr.core c).scanning = false ∧ usr.trust.seizure = none ∧ c % 32 ∈ usr.exposed (c / 32)) ∧
    (usr.heldBlocks 255 = [] ∧ (usr.block 12).core = 0 ∧ (usr.block 12).place = .live) ∧
    (let s := (usr.modCore 0 (fun c => { c with draining := true })).modBlock 12 (fun b => { b with place := .saving, alone := true })
     (s.core 0).draining = true ∧ (s.block 12).place = .saving ∧ (s.block 12).alone = true ∧ s.placesWork 0 = true ∧ (s.block 12).stopBy = 0 ∧ s.allStopped 12 = false) ∧
    (∀ t ∈ [0, 8], let s := (usr.modCore 0 (fun c => { c with scanning := true, lastPass := 7 })).modLaunch 10 (fun l => { l with ranOn := [(0, t)] })
     (s.core 0).scanning = true ∧ Map.sorted s.rel.remap = true ∧ (holderOf s.rel.remap 0 64 0).isSome = true ∧ (spareOf s.rel.remap 0 64).isSome = true ∧
       (s.launch 10).ranOn = [(0, t)] ∧ (t = 0 ∨ (s.core 0).lastPass < t)) := by decide +kernel

/-- ScansAndRetirementsTakeUnitsOut: an engine, a stack with a leaf and with a majority copy, a frame with a page on it, a link's lanes and
a port. -/
theorem witness_retire : ((∀ k ∈ [1024, 1024 + 16 * 7], (holderOf usr.rel.remap k 16 11).isSome = true ∧ (spareOf usr.rel.remap k 16).isSome = true)) ∧
    ((usr.xlat 0).leaves.map (fun e => (e.entry.toNat / 2 ^ 56 % 16, e.entry.toNat / 2 ^ 12 % 2 ^ 44 * 4096 / 2 ^ 38)) = [(0, 0)]) ∧
    (let s := maj.modXlat 0 (fun x => { x with majDesc := [(1, 0x100000)] })
     Map.find? (s.xlat 0).majDesc 1 = some 0x100000 ∧ (∀ q ∈ s.tr.polder, ∀ d ∈ q.2.majDesc, d.2 % 4096 = 0) ∧ 2 < s.copyN 0x100000 ∧
       (s.copyWord 0x100000 2).toNat / 2 ^ 56 % 8 = 2) ∧
    (NatSet.mem usr.mems.badFrm 1 = false ∧ usr.ownerOf 0 = some 0 ∧ (Map.find? usr.tr.polder 0).isSome = true ∧ Mem.wf usr.mems.dws = true ∧
      ((usr.xlat 0).residents 0).find? (fun q => q.2 == 1) = some (1, 1) ∧ (∀ d ∈ [100, 16383], ∀ r ∈ (usr.xlat 0).residents 0, r.2 ≠ d) ∧
      NatSet.mem usr.mems.badFrm 100 = false) ∧
    ((usr.fab.lanesBad.filter (fun q => q.1 / 4096 == 15)).length < 2 ∧ NatSet.mem usr.fab.lanesBad (4096 * 15 + 4095) = false ∧ usr.fab.portUp.getD 15 false = true) := by
  decide +kernel

/-- What a hop's statement says of who is granted: nothing, channel 0, a starved one, channel 1, a channel of the turns. -/
def picked (h : Hop) : Nat :=
  let may := fun c => decide (0 < h.ready.getD c 0) && decide (0 < h.credits.getD c 0)
  if may 0 then 1 else if (List.range 5).any (fun c => may c && decide (256 ≤ h.passed.getD c 0)) then 2 else if may 1 then 3
  else if decide (2 ≤ h.turn) && decide (h.turn ≤ 4) && [2, 3, 4].any may then 4 else 0

/-- ChannelsAndInjectorFollowTheirRules: hops of every kind; an injector that may be set, that strikes and that does not. -/
theorem witness_channels : ([Hop.idle, { Hop.idle with ready := [1, 1, 1, 1, 1], passed := [0, 0, 0, 0, 256] }, { Hop.idle with ready := [0, 1, 1, 1, 1], passed := [0, 255, 0, 255, 256] },
      { Hop.idle with ready := [0, 1, 1, 1, 1], passed := [0, 255, 0, 0, 0] }, { Hop.idle with ready := [0, 0, 0, 0, 1], turn := 4 }].map picked = [0, 1, 2, 3, 4]) ∧
    (∀ t ∈ [true, false], (usrP (fun x => { x with test := t })).polder? 0 = some { pold with test := t }) ∧ pold.vf.st ≠ .error ∧ usr.ownerOf 0 = some 0 ∧
    (let strikes := fun (seed rate : Word) => let y := seed ^^^ (seed <<< 13)
      let z := y ^^^ (y >>> 7)
      decide ((z ^^^ (z <<< 17)).toNat / 2 ^ 32 < rate.toNat)
     strikes injSeed0 0xFFFFFFFF = true ∧ strikes injSeed0 0 = false) ∧
    (∀ k ∈ [0x11, 0x111, 0x211], (BitVec.ofNat 64 k).getLsbD 0 = true ∧ (BitVec.ofNat 64 k).getLsbD 4 = true) := by decide +kernel

/-- ResetsUpdatesAndPowerStepsAct: a device that runs and one with a fatal error; a state table of this version and of others; an update
under way; a takeover in an update and after a stop. An image that is good is one of a free function. -/
theorem witness_resets : (usr.ctl.arbDead = false ∧ usr.ctl.updating = false ∧ usr.open_ = true ∧ usr.ownTable = (1, 0) ∧ usr.ctl.active = 0) ∧
    (({ usr with ctl := { usr.ctl with updating := true } } : State).ctl.updating = true) ∧
    (∀ s ∈ [({ usr with ctl := { usr.ctl with updating := true, mirrored := some (1, 0) } } : State), { usr with ctl := { usr.ctl with stopped := NatSet.add [] 1 } }],
      NatSet.mem s.ctl.stopped 2 = false ∧ ((s.ctl.updating = true ∧ s.ctl.mirrored ≠ none) ∨ NatSet.mem s.ctl.stopped 1 = true) ∧ s.ctl.active ≤ 1 ∧ s.ctl.arbDead = false ∧
      Map.sorted s.ctl.boxes = true ∧ (∀ i, i < 2 → (s.group (2 * 1 + i + 1)).waits = [])) ∧
    (usr.rel.clkSteps < 19) := by decide +kernel

/-- A tagged group of a function with a number of records staged on its core. -/
def penn (n mode : Nat) : State :=
  let s := (usrP (fun x => { x with policy := { pol with trace := mode } })).modCore 0 (fun c => { c with staged := List.replicate n { fn := 1, words := [] } })
  { s with tele := { s.tele with penns := [{ part := 0, grp := 13, fn := 1, clock := 0, pc := 0, blkId := 0, lid := 0, opc := 0, gid := 0, lanes := 1, trapM := 0, mem := false }] } }

/-- The same with the records of another function staged, which no room in the buffer of CD 0 takes. -/
def pennFull (mode : Nat) : State :=
  let s := (penn 0 mode).modCore 0 (fun c => { c with staged := List.replicate 32 { fn := 2, words := [] } })
  { s with tele := { s.tele with cdBuf := [(0, List.replicate 4096 { fn := 2, words := [] })] } }

/-- A physical function's record in the buffer of CD 0, with room in its ring. -/
def hal (lost : Nat) : State :=
  { usr with tele := { usr.tele with cdBuf := [(0, [{ fn := 0, words := [0x100] }])], trBase := [(0, 0x700A)], trRd := [(0, 5)], trWr := [(0, 5 + 1023)], lost := if lost = 0 then [] else [(0, lost)] } }

/-- CountersPennantsAndTraceAreKept: an area to sweep into; functions of both kinds; an index between its bounds; records with and
without room; a record to write, after a loss and not. -/
theorem witness_telemetry : (let s := { usr with tele := { usr.tele with ctrBase := [(0, 0x6001)] } }
      (Map.get s.tele.ctrBase 0 0).toNat % 2 = 1) ∧
    ((usr.polder? 0).any (fun x => x.vf.st != .error) = true ∧ usr.fnCds 1 = [0] ∧ Map.get (hal 0).tele.trRd 0 0 ≤ 1028 ∧ 1028 ≤ Map.get (hal 0).tele.trWr 0 0 ∧
      4 < Map.get (hal 0).tele.trRd 0 0 ∧ Map.get (hal 0).tele.trWr 0 0 < 1029) ∧
    (∀ n ∈ [31, 32], ∀ m ∈ [0, 2], let s := penn n m
      (s.tele.penns.find? (fun q => q.part == 0)).any (fun q => q.fn == 1) = true ∧ (s.core 0).staged.length = n ∧ s.traceMode 1 = m) ∧
    (∀ m ∈ [0, 2], let s := pennFull m
      (s.tele.penns.find? (fun q => q.part == 0)).any (fun q => q.fn == 1) = true ∧ ((s.unstage 0).core 0).staged.length = 32 ∧ s.traceMode 1 = m) ∧
    (∀ l ∈ [0, 3], let s := hal l
      (∀ k ∈ s.cores.core, k.2.staged = []) ∧ ((Map.get s.tele.cdBuf [] 0).find? (fun r => s.ringRoom r.fn)).any (fun r => r.fn == 0) = true ∧ Map.get s.tele.lost 0 0 = l) := by decide +kernel

/-! ### One step of an instruction: the worked examples of the spec -/

/-- A register of group 13 after an instruction: a vector register in a lane, a uniform or a predicate register. -/
def wrote (o : Host.Outcome State Fault Refusal) (cls : RegClass) (idx lane : Nat) : Nat :=
  let x := (after o).group 13
  match cls with
  | .v => (Map.get x.v 0 (32 * idx + lane)).toNat
  | .s => (Map.get x.s 0 idx).toNat
  | _ => ((Map.get x.p 0 idx).getLsbD lane).toNat
/-- `usr` with vector registers of lane 0. -/
def usr0 (vs : List (Nat × Word)) : State := usrG (fun x => { x with v := vs.map (fun (q : Nat × Word) => (32 * q.1, q.2)) })
/-- The cause that a lane has trapped with. -/
def cause (o : Host.Outcome State Fault Refusal) (l : Nat) : Nat := ((after o).lane 13 l).trapCause.toNat

/-- R157, the example of 07. -/
theorem test_iadd_bytes : let s := usr0 [(2, 0x00FF7F80010203F0), (3, 0x00010180FFFF0010)]
    wrote (exec (.iadd hd .u8x8 true 1 (.v 2) (.v 3)) s) .v 1 0 = 0x00FF80FFFFFF03FF ∧
    wrote (exec (.iadd hd .u8x8 false 1 (.v 2) (.v 3)) s) .v 1 0 = 0x0000800000010300 := by decide +kernel

/-- R167, R168: steps 1 to 4 of the example of 07. -/
theorem test_bit_stream : let w := fun (bsc : BitVec 7) (vs : List (Nat × Word)) => (usr0 vs).modGroup 13 (fun x => { x with s := [(3, 8), (4, 4), (5, 125)], lanes := x.lanes.map (fun y => { y with bsc := bsc }) })
    let r := exec (.bsRead hd .u32 false 2 10 (.s 3)) (w 60 [(10, 0xA000000000000000), (11, 0xC5)])
    let f := exec (.bsFill hd 10 (.v 20) 1) (w 68 [(10, 0xA000000000000000), (11, 0xC5), (20, 0x1111)])
    let c := exec (.bsRead hd .u32 false 2 10 (.s 4)) (w 4 [(10, 0xC5), (11, 0x1111)])
    let e := exec (.bsRead hd .u32 false 2 10 (.s 5)) (w 8 [(10, 0xC5), (11, 0x1111)])
    wrote r .v 2 0 = 0x5A ∧ ((after r).lane 13 0).bsc = 68 ∧ wrote f .v 10 0 = 0xC5 ∧ wrote f .v 11 0 = 0x1111 ∧ wrote f .p 1 0 = 1 ∧
    ((after f).lane 13 0).bsc = 4 ∧ wrote c .v 2 0 = 0xC ∧ ((after c).lane 13 0).bsc = 8 ∧ cause e 0 = 2 ∧
    ((after e).lane 13 0).bsc = 8 := by decide +kernel

/-- R178, the example of 08: NV and IX. -/
theorem test_fadd_bf16 : let o := exec (.fadd hd .bf16x4 rn 1 (.v 2) (.v 3) m0 m0) (usr0 [(2, 0x3F803F8040007F80), (3, 0x3B803B00C000FF80)])
    wrote o .v 1 0 = 0x3F803F8000007FC0 ∧ ((after o).lane 13 0).fpStatus = 0b10001 := by decide +kernel

/-- R185, the example of 08: `pack` and back. -/
theorem test_pack_log6 : wrote (exec (.pack hd .f32x2 .log6x10 4 rn 12 (.v 3) (.v 12) m0 m0) (usr0 [(3, 0xBF00000040400000)])) .v 12 0 = 0x0000000B16000000 ∧
    wrote (exec (.fcvt hd .log6x10 .f32x2 2 rn 14 (.v 12) m0) (usr0 [(12, 0x0000000B16000000)])) .v 14 0 = 0xBF00000040350500 := by decide +kernel

/-- R192, the example of 08: the sum is rounded once, and every lane receives it. -/
theorem test_fold_add : let s := (usrG (fun x => { x with v := [(160, 0x3F800000), (161, 0x33800000), (162, 0x33800000)], lanes := List.replicate 3 (Lane.start 64 false) }))
    let s := { s with ag := { s.ag with cur := { s.ag.cur with lanes := 7 } } }
    ∀ l ∈ [0, 1, 2], wrote (exec (.fold hd .f32 0 false rn 6 (.v 5) m0) s) .v 6 l = 0x3F800001 := by decide +kernel

/-- R190, the example of 08, with two lanes: the lanes that are not there read as zero. -/
theorem test_xlane : wrote (exec (.xlane hd .u8x8 2 (.v 1) (.s 3) m0) (usrG (fun x => { x with s := [(3, 0x3F362D241B120900)], v := [(32, 0x1111111111111111), (33, 0x2222222222222222)] }))) .v 2 1 =
    0x2211 := by decide +kernel

/-- R160: bit k of the table answers operands whose bits are k; 0x96 is the exclusive or. -/
theorem test_tern : wrote (exec (.tern hd 1 (.v 2) (.v 3) (.v 4) 0x96) (usr0 [(2, 0xF0F0), (3, 0xCCCC), (4, 0xAAAA)])) .v 1 0 = 0xF0F0 ^^^ 0xCCCC ^^^ 0xAAAA := by
  decide +kernel

/-- R34, the example of 01: element 19 is in bounds at 0x2098, and element 20 reads as zero. -/
theorem test_record_load : let r : BitVec 256 := BitVec.ofNat 256 (0x2000 + 8 * 2 ^ 64 + 20 * 2 ^ 96)
    let s := (usrG (fun x => { x with b := [(2, r)], v := [(288, 15), (289, 16)] })).modBlock 12 (fun b => { b with shared := [(0x2098, 7), (0x20A0, 9)] })
    let o := exec (.ld hd .u64 0 1 { ma 3 with rc := 2, off := 4 }) s
    wrote o .v 1 0 = 7 ∧ wrote o .v 1 1 = 0 ∧ cause o 1 = 0 := by decide +kernel

/-- R19, the example of 01: lineages of a child and of a child of that child. -/
theorem test_lineage : childLineage 0 3 = 0x1000000000000003 ∧ childLineage 0x1000000000000003 0 = 0x2000000000000003 ∧
    childLineage 0x1000000000000003 42 = 0x2000000000000A83 := by decide +kernel

/-- R386, the example of 21: a hold mask outside `hold_max`, engines without the policy's bit, and the same without engines. -/
theorem test_debug_attach : let s := usrP (fun x => { x with policy := { pol with holdMax := 0x0400, dbgBits := 1 } })
    let st := fun (o : Host.Outcome State Fault Refusal) => (after o).trust.responses.head?.map (fun r => r.2.headD 9)
    st (exec (.debugAttach 0 1 0x0C00 false false) s) = some 1 ∧ st (exec (.debugAttach 0 1 0x0400 true false) s) = some 1 ∧
    st (exec (.debugAttach 0 1 0x0400 false false) s) = some 0 := by decide +kernel

/-- R123, the example of 05: the fields of a format word. -/
theorem test_format_word : let f := fmtwWord 0 0x100FD9CC 0
    f % 16 = 0xC ∧ f / 16 % 16 = 0xC ∧ f / 256 % 16 = 9 ∧ f / 4096 % 256 = 0xFD ∧ f / 2 ^ 28 = 1 := by decide +kernel

/-- R153: `trap` takes SOFTWARE, of code 13 (R363), with its code as the address. -/
theorem test_trap : let o := exec (.trap hd 0x8001) usr
    ((after o).lane 13 1).trapPc = 64 ∧ cause o 1 = 13 ∧ ((after o).lane 13 1).trapAddr = 0x8001 ∧ ((after o).lane 13 1).wait = .trapped := by decide +kernel

/-- R157: the absolute value of the most negative number wraps, or clamps with `sat`. -/
theorem test_iabs : wrote (exec (.iabs hd .i32 false 1 (.v 2)) (usr0 [(2, 0x80000000)])) .v 1 0 = 0x80000000 ∧
    wrote (exec (.iabs hd .i32 true 1 (.v 2)) (usr0 [(2, 0x80000000)])) .v 1 0 = 0x7FFFFFFF := by decide +kernel

/-- R237, R238, the layout example of 10: lane 21 holds row and column 5, k = 4 and 5; 2 · 10 + 3 · 100 goes to entry (5, 5). -/
theorem test_mma : let sig := fun (l : Nat) => ({ grp := 13, lane := l, areg := 8, breg := 16, fw := 0, tile := 3, pc := 64, enc := 0 } : Sig)
    let r : Round := { id := 7, batch := false, ty := .f32, sat := false, zacc := true, word := 0x999, sigs := [sig 5, sig 21] }
    let s := usrG (fun x => { x with v := [(32 * 8 + 21, 0x4040000040000000), (32 * 16 + 21, 0x42C8000041200000)], lanes := List.replicate 32 (Lane.start 64 false) })
    let s := { s with cores := { s.cores with matOps := [(7, { part := 0, members := [13], masks := [3], round := r })] } }
    ((after (exec (.matrixOpComplete 7) s)).group 13).tile = [(256 * 3 + 16 * 5 + 5, 0x43A00000)] := by decide +kernel

/-- R37: of two lanes that store to one address the highest one's value remains; the next PC is that of slot 1. -/
theorem test_store : let r : BitVec 256 := BitVec.ofNat 256 (0x40 + 8 * 2 ^ 64 + 20 * 2 ^ 96)
    let o := exec (.st hd .u64 0 1 { ma 3 with off := 0, scope := 1, order := 2 }) (usrG (fun x => { x with b := [(2, r)], v := [(32, 5), (33, 0x1FFFFFFFF), (288, 1), (289, 1)] }))
    (after o).sharedWord 12 0x48 = 0x1FFFFFFFF ∧ ((after o).group 13).lanes.map (·.pc) = [65, 65] := by decide +kernel

end Sys2Proof.Tests
end

/-! PROOFS. Overflow (R110, R112): when `Fmt.round` finds one, and what it answers then. -/

namespace Sys2Proof.Machine

@[simp] theorem flagIf_getElem (c : Bool) (g : FpFlags) (n : Nat) (h : n < 5) : (flagIf c g)[n] = (c && g[n]) := by
  cases c <;> simp [flagIf]

/-- (m + ε) × 2^e, rounded to the significand's width with unbounded exponent, exceeds the largest finite value (R110): its leading
bit stands above the format's highest exponent, or stands at it and the rounding carries. -/
def Fmt.Overflows (f : Fmt) (mode : Nat) (neg : Bool) (m : Nat) (e : Int) (sticky : Bool) : Prop :=
  f.bias < (Nat.log2 m : Int) + e ∨ ((Nat.log2 m : Int) + e = f.bias ∧
    2 ^ (f.fbits + 1) ≤ (roundAt mode neg m e sticky ((Nat.log2 m : Int) + e - f.fbits)).1)

section
variable {f : Fmt} {mode : Nat} {neg : Bool} {m : Nat} {e : Int} {sticky : Bool}

/-- R112: what an overflow answers. -/
theorem Fmt.round_of_overflows (hm : 0 < m) (h : f.Overflows mode neg m e sticky) :
    f.round mode neg m e sticky = (f.overflow mode neg, flagOF ||| flagIX) := by
  have hz : ¬ (m = 0 ∧ (!sticky) = true) := fun ⟨h0, _⟩ => hm.ne' h0
  simp only [Fmt.round, if_neg hz]
  apply if_pos
  split
  case isTrue carries =>
    obtain above | ⟨at_top, -⟩ := h <;> exact decide_eq_true (by omega)
  case isFalse no_carry =>
    obtain above | ⟨-, carries⟩ := h
    · exact decide_eq_true above
    · exact absurd carries no_carry

/-- R110: OF is set on no other result. -/
theorem Fmt.round_not_flagOF (h : ¬ f.Overflows mode neg m e sticky) :
    (f.round mode neg m e sticky).2.getLsbD 2 = false := by
  obtain ⟨not_above, no_carry_at_top⟩ := not_or.mp h
  unfold Fmt.round
  split
  case isTrue zero => simp
  case isFalse nonzero =>
    rw [if_neg]
    · simp [flagIX, flagUF]
    · split
      case isTrue carries =>
        have below : (Nat.log2 m : Int) + e ≠ f.bias := fun at_top => no_carry_at_top ⟨at_top, carries⟩
        rw [decide_eq_true_iff]
        omega
      case isFalse no_carry => rwa [decide_eq_true_iff]

/-- R110: OF says exactly that the result overflows. -/
theorem Fmt.round_flagOF_iff (hm : 0 < m) :
    (f.round mode neg m e sticky).2.getLsbD 2 = true ↔ f.Overflows mode neg m e sticky where
  mp set := by
    by_contra h
    exact absurd set (by rw [Fmt.round_not_flagOF h]; decide)
  mpr h := by simp [Fmt.round_of_overflows hm h, flagOF, flagIX]

end

/-- Settles O8: `Fmt.round` answers `Fmt.overflow` with OF and IX exactly where `Fmt.Overflows` holds, and the mode's row of R112's
table is the matching branch of `Fmt.overflow`. -/
theorem overflowIsDeliveredByTheMode : Obligations.OverflowIsDeliveredByTheMode := by
  intro t neg m e sticky mode _ hm _
  refine ⟨Fmt.round_flagOF_iff hm, fun h => ?_⟩
  rw [Fmt.round_of_overflows hm h]
  have ix_set : (flagOF ||| flagIX).getLsbD 4 = true := by decide
  exact ⟨ix_set, by rintro rfl; rfl, by rintro rfl; rfl, by rintro rfl; rfl, by rintro rfl; rfl⟩

end Sys2Proof.Machine

/-! PROOFS. The executing set (R137): the header that every encoded instruction carries (R136), and what an instruction does when no
lane executes it. -/

namespace Sys2Proof

/-! ### The header of a word (R136) -/

/-- Bits 87:84 of a word are the predicate of a header and its negation (R136). -/
def HasPred (w : Nat) (h : Hdr) : Prop := w / 2 ^ 85 % 8 = h.pr.toNat ∧ w / 2 ^ 84 % 2 = h.pn.toNat

theorem packBits_lt (ws xs : List Nat) : packBits ws xs < 2 ^ ws.sum := by
  induction ws generalizing xs with
  | nil => simp [packBits]
  | cons w ws ih =>
    cases xs with
    | nil => exact Nat.two_pow_pos _
    | cons x xs =>
      have hx : x % 2 ^ w + 1 ≤ 2 ^ w := Nat.mod_lt _ (Nat.two_pow_pos w)
      calc x % 2 ^ w * 2 ^ ws.sum + packBits ws xs
          < x % 2 ^ w * 2 ^ ws.sum + 2 ^ ws.sum := Nat.add_lt_add_left (ih xs) _
        _ = (x % 2 ^ w + 1) * 2 ^ ws.sum := (Nat.succ_mul _ _).symm
        _ ≤ 2 ^ w * 2 ^ ws.sum := Nat.mul_le_mul_right _ hx
        _ = 2 ^ (w :: ws).sum := by rw [List.sum_cons, Nat.pow_add]

/-- Every format has `opc`, `pr` and `pn` above 84 further bits (R139). -/
theorem hasPred_packBits {ws : List Nat} (hs : ws.sum = 84) (opc : Nat) (h : Hdr) (ty md : Nat) (xs : List Nat) :
    HasPred (packBits (8 :: 3 :: 1 :: ws) (hdrBits opc h ty md ++ xs)) h := by
  have hlow := packBits_lt ws ([ty, md, h.lf.toNat, h.fs.toNat] ++ xs)
  have hpr := h.pr.isLt
  have hpn := h.pn.toNat_lt
  rw [hs] at hlow
  simp only [HasPred, hdrBits, List.cons_append, List.nil_append, packBits, List.sum_cons, hs] at hlow ⊢
  omega

theorem hasPred_encVR (opc : Nat) (h : Hdr) (ty md : Nat) (d : BitVec 8) (a b c : Src) (x : Nat) :
    HasPred (encVR opc h ty md d a b c x) h := hasPred_packBits rfl ..
theorem hasPred_encFP (opc : Nat) (h : Hdr) (ty md : Nat) (d : BitVec 8) (a b c : Src) (part xt : Nat) (ma mb mc : Mod) (r : Rnd) :
    HasPred (encFP opc h ty md d a b c part xt ma mb mc r) h := hasPred_packBits rfl ..
theorem hasPred_encVI (opc : Nat) (h : Hdr) (ty md : Nat) (d : BitVec 8) (a : Src) (imm : BitVec 32) :
    HasPred (encVI opc h ty md d a imm) h := hasPred_packBits rfl ..
theorem hasPred_encM (opc : Nat) (h : Hdr) (ty md : Nat) (d : BitVec 8) (m : MAddr) (d2 : BitVec 8) (x12 : Nat) :
    HasPred (encM opc h ty md d m d2 x12) h := hasPred_packBits rfl ..
theorem hasPred_encB (opc : Nat) (h : Hdr) (md : Nat) (loff : BitVec 32) (slot : BitVec 3) (lr : BitVec 8) (jn : BitVec 4) (x : Nat) :
    HasPred (encB opc h md loff slot lr jn x) h := hasPred_packBits rfl ..
theorem hasPred_encX (opc : Nat) (h : Hdr) (ty md : Nat) (areg breg : BitVec 8) (tile : BitVec 5) (conv : BitVec 3) (fw : BitVec 8)
    (shape : BitVec 4) (sat zacc : Bool) : HasPred (encX opc h ty md areg breg tile conv fw shape sat zacc) h :=
  hasPred_packBits rfl ..
theorem hasPred_encS (opc : Nat) (h : Hdr) (md d a b sbase x11 imm : Nat) : HasPred (encS opc h md d a b sbase x11 imm) h :=
  hasPred_packBits rfl ..

namespace Machine

/-- An instruction that has an encoding has a header, whose predicate its word carries. -/
theorem hdrOf_of_encode {i : Instr} {w : Nat} (he : encode i = some w) : ∃ h, hdrOf i = some h ∧ HasPred w h := by
  cases i <;> injection he
  all_goals
    subst_vars
    refine ⟨_, rfl, ?_⟩
    simp only [hasPred_encVR, hasPred_encFP, hasPred_encVI, hasPred_encM, hasPred_encB, hasPred_encX, hasPred_encS]

/-- An instruction with a header is performed for its executing set, whatever its own effect is. -/
theorem exec_perform {i : Instr} {h : Hdr} (hh : hdrOf i = some h) (s : State) : ∃ body, exec i s = s.perform h i body := by
  cases i <;> cases hh <;> exact ⟨_, rfl⟩

/-! ### The executing set (R137) -/

/-- A lane of the bundle executes when its predicate bit differs from `pn`. -/
theorem State.getLsbD_execSet (s : State) (h : Hdr) {i : Instr} (hk : skipsHelpers i = false) {l : Nat} (hl : l < 32) :
    (s.execSet h i).getLsbD l = true ↔
      s.ag.cur.lanes.getLsbD l = true ∧ ((s.getP s.src h.pr.toNat).getLsbD l ^^ h.pn) = true := by
  cases hn : h.pn <;> simp [State.execSet, hk, hn, hl]

/-- Helper lanes only take lanes from the executing set (R17). -/
theorem State.execSet_eq_zero {s : State} {h : Hdr} (i : Instr)
    (hp : ∀ l, l < 32 → s.ag.cur.lanes.getLsbD l = true → ((s.getP s.src h.pr.toNat).getLsbD l ^^ h.pn) = false) :
    s.execSet h i = 0 := by
  have hm : s.ag.cur.lanes &&& (if h.pn then ~~~s.getP s.src h.pr.toNat else s.getP s.src h.pr.toNat) = 0 := by
    apply BitVec.eq_of_getLsbD_eq
    intro l hl
    have := hp l hl
    cases hb : s.ag.cur.lanes.getLsbD l <;> cases hn : h.pn <;> simp_all
  simp [State.execSet, hm]

/-- The predicate p7 is true of every lane (R145). -/
@[simp] theorem State.getP_seven (s : State) (x : Group) : s.getP x 7 = BitVec.allOnes 32 := rfl

/-! ### An empty executing set (R137) -/

/-- A group whose lanes go on, one that is not listed among them: it has no lanes. -/
theorem State.group_advance (s : State) (g : Nat) (m : LaneMask) :
    (s.advance g m).group g = (s.group g).modLanes m (fun _ y => y.advance) := by
  cases hg : Map.find? s.work.groups g with
  | none => simp [State.advance, State.modLanes, State.group, Map.get, Map.find?_adjust, hg]; rfl
  | some x => exact State.group_modGroup_self s g _ (by simp [hg])

/-- No pennant is taken of an instruction that no lane executes (R436). -/
theorem State.tag_of_empty {s : State} {h : Hdr} {i : Instr} (hm : s.execSet h i = 0) : s.tag h i = s := by
  simp [State.tag, hm]

theorem State.perform_of_empty {s : State} {h : Hdr} {i : Instr} (body : Group → Nat → LaneMask → State → State)
    (hm : s.execSet h i = 0) : s.perform h i body = .next (s.advance s.ag.cur.grp s.ag.cur.lanes).bump := by
  simp [State.perform, State.performed, State.tag_of_empty hm, hm]

/-- A bundle whose lanes go on computes nothing. -/
theorem State.advance_computes (s : State) :
    Computes s (s.advance s.ag.cur.grp s.ag.cur.lanes).bump 0 justAdvance noReg2 noReg noReg2 noReg := by
  have hg : (s.advance s.ag.cur.grp s.ag.cur.lanes).bump.group s.ag.cur.grp =
      s.here.modLanes s.ag.cur.lanes (fun _ y => y.advance) := s.group_advance _ _
  constructor
  case outside => exact (OnlyGroup.modGroup s _ _).trans (OnlyGroup.agenda _ _ _ rfl rfl)
  case inside => rw [hg]; constructor <;> rfl
  case regs => rw [hg]; constructor <;> intros <;> rfl
  case lanes =>
    intro l hl
    rw [hg, Group.lane_modLanes _ _ _ _ hl]
    simp

/-- Settles O7: every encoded instruction is performed for the executing set of its header (`exec_perform`), and one that no lane
executes is only the advance of its bundle (`State.perform_of_empty`). -/
theorem anEmptyExecutingSetOnlyAdvances : Obligations.AnEmptyExecutingSetOnlyAdvances := by
  intro s i w he
  obtain ⟨h, hh, hpr, hpn⟩ := hdrOf_of_encode he
  have hneg : decide (w / 2 ^ 84 % 2 = 1) = h.pn := by rw [hpn]; cases h.pn <;> rfl
  dsimp only
  rw [hneg]
  refine ⟨?_, ?_, ?_⟩
  · intro h' l hl hk hpr' hpn'
    rw [← hpr', ← hpn']
    exact s.getLsbD_execSet h' hk hl
  · intro h7 htrue l hl
    rw [h7, htrue, State.getP_seven, BitVec.getLsbD_allOnes]
    simp [hl]
  · rw [hpr]
    intro hp
    obtain ⟨body, hb⟩ := exec_perform hh s
    refine ⟨_, hb.trans (State.perform_of_empty body (State.execSet_eq_zero i hp)), s.advance_computes, ?_, rfl, rfl⟩
    exact (congrArg Group.pending (s.group_advance _ s.ag.cur.lanes)).trans (Group.modLanes_pending ..)

end Machine
end Sys2Proof

/-! PROOFS. Traps (R363 to R365): what a lane's trap leaves alone, what it does to the lane, and the traps of all lanes of a mask. -/

namespace Sys2Proof.Machine

/-! ### What a trap of other lanes leaves alone -/

/-- What a trap reads and writes of its lane. -/
def Lane.trapView (y : Lane) : Word × Bool × WaitState × Bool × BitVec 32 × Word × Word :=
  (y.pc, y.inHandler, y.wait, y.heldTrap, y.trapCause, y.trapPc, y.trapAddr)

/-- Between two states the lanes `L` of a group have not moved or trapped, their traps would be dealt with as before, and no
event has gone. -/
structure KeepsTraps (g : Nat) (L : Nat → Prop) (s t : State) : Prop where
  launches : t.work.launches = s.work.launches
  trust    : t.trust = s.trust
  launchOf : t.launchOf g = s.launchOf g
  system   : (t.group g).system = (s.group g).system
  length   : (t.group g).lanes.length = (s.group g).lanes.length
  lanes    : ∀ l, L l → l < (s.group g).lanes.length → (t.lane g l).trapView = (s.lane g l).trapView
  events   : s.ag.atCycle ⊆ t.ag.atCycle

section keeps
variable {g : Nat} {L : Nat → Prop} {s t u : State}

theorem KeepsTraps.refl (s : State) : KeepsTraps g L s s :=
  ⟨rfl, rfl, rfl, rfl, rfl, fun _ _ _ => rfl, List.Subset.refl _⟩

theorem KeepsTraps.trans (a : KeepsTraps g L s t) (b : KeepsTraps g L t u) : KeepsTraps g L s u where
  launches := b.launches.trans a.launches
  trust := b.trust.trans a.trust
  launchOf := b.launchOf.trans a.launchOf
  system := b.system.trans a.system
  length := b.length.trans a.length
  lanes l hl hn := (b.lanes l hl (a.length ▸ hn)).trans (a.lanes l hl hn)
  events := List.Subset.trans a.events b.events

theorem KeepsTraps.mono {M : Nat → Prop} (a : KeepsTraps g L s t) (hM : ∀ l, M l → L l) : KeepsTraps g M s t :=
  { a with lanes := fun l hl => a.lanes l (hM l hl) }

theorem KeepsTraps.foldl {α : Type} {op : State → α → State} {as : List α} (hop : ∀ a ∈ as, ∀ s, KeepsTraps g L s (op s a)) (s : State) :
    KeepsTraps g L s (as.foldl op s) := by
  induction as generalizing s with
  | nil => exact .refl s
  | cons a as ih => exact (hop a List.mem_cons_self s).trans (ih (fun b hb => hop b (List.mem_cons_of_mem a hb)) (op s a))

theorem KeepsTraps.lt (a : KeepsTraps g L s t) {l : Nat} (h : l < (s.group g).lanes.length) : l < (t.group g).lanes.length :=
  h.trans_eq a.length.symm

/-- A change outside the work and the trust root that drops no event. -/
theorem KeepsTraps.of_work (hw : t.work = s.work) (ht : t.trust = s.trust) (he : s.ag.atCycle ⊆ t.ag.atCycle) : KeepsTraps g L s t := by
  have hg : t.group g = s.group g := by rw [State.group, hw, State.group]
  refine ⟨by rw [hw], ht, ?_, by rw [hg], by rw [hg], fun l _ _ => by rw [State.lane, hg, State.lane], he⟩
  rw [State.launchOf, State.launchOf, hg, State.block, State.block, hw]

/-- A change of the group that keeps its block, its mode, its number of lanes and the lanes `L` as traps see them. -/
theorem KeepsTraps.modGroup {f : Group → Group} (hb : ∀ x, (f x).blk = x.blk) (hs : ∀ x, (f x).system = x.system)
    (hn : ∀ x, (f x).lanes.length = x.lanes.length)
    (hl : ∀ x l, L l → l < x.lanes.length → ((f x).lane l).trapView = (x.lane l).trapView) : KeepsTraps g L s (s.modGroup g f) := by
  cases hg : Map.find? s.work.groups g with
  | none =>
    have e : (s.modGroup g f).group g = s.group g := by
      simp [State.modGroup, State.group, Map.get, Map.find?_adjust, hg]
    refine ⟨rfl, rfl, ?_, by rw [e], by rw [e], fun l _ _ => by rw [State.lane, e, State.lane], List.Subset.refl _⟩
    rw [State.launchOf, e]; rfl
  | some x =>
    have e : (s.modGroup g f).group g = f (s.group g) := State.group_modGroup_self s g f (by simp [hg])
    refine ⟨rfl, rfl, ?_, by rw [e, hs], by rw [e, hn], fun l h hlt => ?_, List.Subset.refl _⟩
    · rw [State.launchOf, e, hb]; rfl
    · rw [State.lane, e, hl _ l h hlt, State.lane]

/-- A change of lanes that moves and traps none of `L`. -/
theorem KeepsTraps.modLanes {m : LaneMask} {f : Nat → Lane → Lane} (hf : ∀ l y, L l → m.getLsbD l = true → (f l y).trapView = y.trapView) :
    KeepsTraps g L s (s.modLanes g m f) := by
  refine .modGroup (fun _ => rfl) (fun _ => rfl) (fun x => Group.length_modLanes x m f) (fun x l hl hn => ?_)
  rw [Group.lane_modLanes x m f l hn]
  split
  case isTrue hm => exact hf l _ hl hm
  case isFalse => rfl

/-- A change of one lane leaves the others as they are. -/
theorem KeepsTraps.modLane (k : Nat) (f : Lane → Lane) : KeepsTraps g (· ≠ k) s (s.modLane g k f) := by
  refine .modGroup (fun _ => rfl) (fun _ => rfl) (fun x => Group.length_modLane x k f) (fun x l hl hn => ?_)
  rw [Group.lane_modLane x k f l hn, if_neg (Ne.symm hl)]

/-- A change of a block that leaves its launch. -/
theorem KeepsTraps.modBlock {b : Nat} {f : Block → Block} (hf : ∀ x, (f x).launch = x.launch) : KeepsTraps g L s (s.modBlock b f) := by
  refine ⟨rfl, rfl, ?_, rfl, rfl, fun _ _ _ => rfl, List.Subset.refl _⟩
  show (Map.get (Map.adjust s.work.blocks b f) Block.none_ (s.group g).blk).launch = (s.block (s.group g).blk).launch
  rw [Map.get_adjust]
  split
  · exact hf _
  · rfl

/-- A bundle that goes on leaves its other lanes. -/
theorem KeepsTraps.advance (m : LaneMask) : KeepsTraps g (fun l => m.getLsbD l = false) s (s.advance g m) :=
  .modLanes (fun l y hl hm => by simp [hl] at hm)

/-! ### Commits and boundaries (R56) -/

theorem KeepsTraps.writeAt (k : Place) (bs : List Byte) : KeepsTraps g L s (s.writeAt k bs) := by
  unfold State.writeAt
  split <;> exact .of_work rfl rfl (List.Subset.refl _)

theorem KeepsTraps.cleanAt (k : Place) (n : Nat) : KeepsTraps g L s (s.cleanAt k n) := by
  unfold State.cleanAt
  split <;> exact .of_work rfl rfl (List.Subset.refl _)

theorem KeepsTraps.putSpaceByte (space a : Nat) (b : Byte) : KeepsTraps g L s (s.putSpaceByte g space a b) := by
  unfold State.putSpaceByte
  split
  · exact .modBlock (fun _ => rfl)
  · split
    · exact .writeAt _ _
    · exact .refl s
  · exact .modGroup (fun _ => rfl) (fun _ => rfl) (fun _ => rfl) (fun _ _ _ _ => rfl)

theorem KeepsTraps.cleanSpace (space a n : Nat) : KeepsTraps g L s (s.cleanSpace g space a n) := by
  refine .foldl (fun u _ s => ?_) s
  split
  · exact .modBlock (fun _ => rfl)
  · split
    · exact .cleanAt _ _
    · exact .refl s
  · exact .modGroup (fun _ => rfl) (fun _ => rfl) (fun _ => rfl) (fun _ _ _ _ => rfl)

/-- A commit writes memory only. -/
theorem KeepsTraps.commit (l : Nat) : KeepsTraps g L s (s.commit g l) := by
  unfold State.commit
  split
  · exact .refl s
  · have taken : KeepsTraps g L s (s.modGroup g (fun x => { x with buf := x.buf.filter (fun b => b.lane != l) })) :=
      .modGroup (fun _ => rfl) (fun _ => rfl) (fun _ => rfl) (fun _ _ _ _ => rfl)
    exact (taken.trans (.foldl (fun b _ s => .putSpaceByte _ _ _) _)).trans (.foldl (fun b _ s => .cleanSpace _ _ _) _)

theorem KeepsTraps.boundary (m : LaneMask) : KeepsTraps g L s (s.boundary g m) :=
  (KeepsTraps.foldl (fun l _ _ => .commit l) s).trans (.modLanes (fun _ _ _ _ => rfl))

/-- A lane's abandoned wait leaves it where it is (R234). -/
theorem KeepsTraps.abandon (m : LaneMask) : KeepsTraps g L s (s.abandon g m) := by
  refine .modGroup (fun _ => rfl) (fun _ => rfl) (fun x => Group.length_modLanes x m _) (fun x l _ hn => ?_)
  show ((x.modLanes m _).lane l).trapView = _
  rw [Group.lane_modLanes x m _ l hn]
  split <;> rfl

theorem KeepsTraps.stopAtBoundary (m : LaneMask) : KeepsTraps g L s (s.stopAtBoundary g m) :=
  .of_work rfl rfl (List.Subset.refl _)

theorem KeepsTraps.bump : KeepsTraps g L s s.bump := .of_work rfl rfl (List.Subset.refl _)

theorem KeepsTraps.soon (i : Instr) : KeepsTraps g L s (s.soon i) :=
  .of_work rfl rfl (List.subset_append_left _ _)

theorem KeepsTraps.tag (h : Hdr) (i : Instr) : KeepsTraps g L s (s.tag h i) :=
  .of_work (s.tag_work h i) (s.tag_trust h i) (fun q hq => s.tag_atCycle h i q hq)

/-! ### The trap of one lane (R363 to R365) -/

/-- A lane about to have its trap held, delivered or left unhandled: its wait is over, its stores are committed, its detection
region is closed, and its trap registers are written. -/
def State.trapWritten (s : State) (g l : Nat) (c : Cause) (addr : Word) : State :=
  ((((s.abandon g (bit1 l)).commit g l).closeRegion (.lane g l)).modLane g l
    (fun y => { y with trapCause := BitVec.ofNat 32 c.code, trapPc := y.pc, trapAddr := addr, retry := 0 })).pennTrap g l

/-- The lane of a held trap. -/
def Lane.holdTrap (y : Lane) : Lane :=
  { y.restartAt y.pc with wait := .trapped, heldTrap := true, stepping := false, brkDone := false }

theorem KeepsTraps.trapWritten (l : Nat) (c : Cause) (addr : Word) : KeepsTraps g (· ≠ l) s (s.trapWritten g l c addr) :=
  (((KeepsTraps.abandon _).trans (.commit l)).trans (.of_work rfl rfl (List.Subset.refl _))).trans
    ((KeepsTraps.modLane l _).trans (.of_work rfl rfl (List.Subset.refl _)))

theorem KeepsTraps.unhandled (l code : Nat) : KeepsTraps g (· ≠ l) s (s.unhandled g l code) := by
  unfold State.unhandled
  dsimp only
  split
  · exact .modLane l _
  · exact (KeepsTraps.modLane l _).trans (.soon _)

theorem KeepsTraps.deliver (l code : Nat) : KeepsTraps g (· ≠ l) s (s.deliver g l code) := by
  unfold State.deliver
  split
  · exact .modLane l _
  · exact .unhandled l code

theorem KeepsTraps.holdsTrap (a : KeepsTraps g L s t) (code : Nat) : t.holdsTrap g code = s.holdsTrap g code := by
  simp only [State.holdsTrap, State.polderOf, State.launch, State.polder?, a.launchOf, a.launches, a.trust]

theorem KeepsTraps.handler (a : KeepsTraps g L s t) :
    (t.launch (t.launchOf g)).kernel.handler = (s.launch (s.launchOf g)).kernel.handler := by
  rw [a.launchOf, State.launch, a.launches, State.launch]

theorem State.trap_of_held {l : Nat} {c : Cause} (addr : Word) (hh : s.holdsTrap g c.code = true) :
    s.trap g l c addr = ((s.trapWritten g l c addr).modLane g l Lane.holdTrap).stopAtBoundary g (bit1 l) :=
  if_pos (((KeepsTraps.trapWritten l c addr).holdsTrap _).trans hh)

theorem State.trap_of_not_held {l : Nat} {c : Cause} (addr : Word) (hh : s.holdsTrap g c.code = false) :
    s.trap g l c addr = ((s.trapWritten g l c addr).deliver g l c.code).stopAtBoundary g (bit1 l) :=
  if_neg (ne_true_of_eq_false (((KeepsTraps.trapWritten l c addr).holdsTrap _).trans hh))

/-- A trap moves no lane but its own. -/
theorem KeepsTraps.trap (l : Nat) (c : Cause) (addr : Word) : KeepsTraps g (· ≠ l) s (s.trap g l c addr) := by
  cases hh : s.holdsTrap g c.code with
  | true =>
    rw [State.trap_of_held addr hh]
    exact ((KeepsTraps.trapWritten l c addr).trans (.modLane l _)).trans (.stopAtBoundary _)
  | false =>
    rw [State.trap_of_not_held addr hh]
    exact ((KeepsTraps.trapWritten l c addr).trans (.deliver l _)).trans (.stopAtBoundary _)

end keeps

section trap
variable {s : State} {g l : Nat}

theorem State.lane_modLane_self (f : Lane → Lane) (hn : l < (s.group g).lanes.length) : (s.modLane g l f).lane g l = f (s.lane g l) := by
  cases hg : Map.find? s.work.groups g with
  | none => simp [State.group, Map.get, hg, Group.none_] at hn
  | some x =>
    rw [State.lane, State.modLane, State.group_modGroup_self s g _ (by simp [hg]), Group.lane_modLane _ _ _ _ hn, if_pos rfl, State.lane]

/-- The trap registers as a trap writes them, and what else it needs of its lane. -/
theorem State.lane_trapWritten (c : Cause) (addr : Word) (hn : l < (s.group g).lanes.length) :
    ((s.trapWritten g l c addr).lane g l).trapView = ((s.lane g l).pc, (s.lane g l).inHandler, (s.lane g l).wait, (s.lane g l).heldTrap,
      BitVec.ofNat 32 c.code, (s.lane g l).pc, addr) := by
  have before : KeepsTraps g (fun _ => True) s (((s.abandon g (bit1 l)).commit g l).closeRegion (.lane g l)) :=
    ((KeepsTraps.abandon _).trans (.commit l)).trans (.of_work rfl rfl (List.Subset.refl _))
  have same := before.lanes l trivial hn
  simp only [Lane.trapView, Prod.mk.injEq] at same
  obtain ⟨hpc, hin, hwait, hheld, -⟩ := same
  show (State.lane (State.modLane _ g l _) g l).trapView = _
  rw [State.lane_modLane_self _ (before.lt hn)]
  simp only [Lane.trapView, hpc, hin, hwait, hheld]

/-- The lane of a delivered trap (R364). -/
def Lane.enterHandler (y : Lane) (p : Word) (code : Nat) : Lane :=
  { { y with pc := p }.restartAt p with
    inHandler := true, entry := .handler code, heldTrap := false, brkDone := false, met := false, stepping := false, remembered := .running,
    wait := if y.wait = .stopped ∨ y.stepping then .stopped else .running }

/-- The lane of an unhandled trap (R365). -/
def Lane.stayTrapped (y : Lane) : Lane :=
  { y.restartAt y.pc with wait := .trapped, stepping := false, heldTrap := false, brkDone := false }

theorem State.deliver_handled {p : Word} (code : Nat) (hp : (s.launch (s.launchOf g)).kernel.handler = some p)
    (hi : (s.lane g l).inHandler = false) : s.deliver g l code = s.modLane g l (fun y => y.enterHandler p code) := by
  simp only [State.deliver, hp, hi]; rfl

theorem State.deliver_unhandled (code : Nat) (hu : (s.launch (s.launchOf g)).kernel.handler = none ∨ (s.lane g l).inHandler = true) :
    s.deliver g l code = s.unhandled g l code := by
  obtain hp | hi := hu
  · simp only [State.deliver, hp]
  · cases hp : (s.launch (s.launchOf g)).kernel.handler <;> simp only [State.deliver, hp, hi]

theorem State.lane_unhandled (code : Nat) (hn : l < (s.group g).lanes.length) :
    (s.unhandled g l code).lane g l = (s.lane g l).stayTrapped := by
  have h : (s.modLane g l Lane.stayTrapped).lane g l = (s.lane g l).stayTrapped := State.lane_modLane_self _ hn
  unfold State.unhandled
  dsimp only
  split <;> exact h

/-- The instant of an unhandled trap is on the agenda (R365). -/
theorem State.unhandled_event (code : Nat) (hs : (s.group g).system = false) :
    ∃ n, (n, .unhandledTrapInstant (s.launchOf g) code) ∈ (s.unhandled g l code).ag.atCycle := by
  have kept : KeepsTraps g (· ≠ l) s (s.modLane g l Lane.stayTrapped) := .modLane l _
  have user : ¬ ((s.modLane g l Lane.stayTrapped).group g).system = true := by rw [kept.system, hs]; decide
  have e : s.unhandled g l code = (s.modLane g l Lane.stayTrapped).soon (.unhandledTrapInstant ((s.modLane g l Lane.stayTrapped).launchOf g) code) :=
    if_neg user
  rw [e, kept.launchOf]
  exact ⟨_, List.mem_append_right _ List.mem_cons_self⟩

/-- A trap that a debugger holds. -/
theorem State.trap_takes_held {c : Cause} (addr : Word) (hn : l < (s.group g).lanes.length) (hh : s.holdsTrap g c.code = true) :
    TakesTrap s (s.trap g l c addr) g l c.code addr := by
  have view := State.lane_trapWritten c addr hn
  simp only [Lane.trapView, Prod.mk.injEq] at view
  obtain ⟨hpc, -, -, -, hcause, htpc, haddr⟩ := view
  have hl : (s.trap g l c addr).lane g l = ((s.trapWritten g l c addr).lane g l).holdTrap := by
    rw [State.trap_of_held addr hh]
    exact State.lane_modLane_self _ ((KeepsTraps.trapWritten l c addr).lt hn)
  generalize (s.trapWritten g l c addr).lane g l = y at hpc hcause htpc haddr hl
  constructor <;> simp only [hh, hl, reduceCtorEq, false_implies, forall_const]
  case cause => exact hcause
  case pc => exact htpc
  case addr => exact haddr
  case held => exact ⟨rfl, rfl, hpc⟩

/-- A trap that its launch's handler takes. -/
theorem State.trap_takes_handled {c : Cause} (addr : Word) (hn : l < (s.group g).lanes.length) (hh : s.holdsTrap g c.code = false) {p : Word}
    (hp : (s.launch (s.launchOf g)).kernel.handler = some p) (hi : (s.lane g l).inHandler = false) :
    TakesTrap s (s.trap g l c addr) g l c.code addr := by
  have keep : KeepsTraps g (· ≠ l) s (s.trapWritten g l c addr) := .trapWritten l c addr
  have view := State.lane_trapWritten c addr hn
  simp only [Lane.trapView, Prod.mk.injEq] at view
  obtain ⟨-, hin, -, -, hcause, htpc, haddr⟩ := view
  have hl : (s.trap g l c addr).lane g l = ((s.trapWritten g l c addr).lane g l).enterHandler p c.code := by
    rw [State.trap_of_not_held addr hh, State.deliver_handled _ (keep.handler.trans hp) (hin.trans hi)]
    exact State.lane_modLane_self _ (keep.lt hn)
  generalize (s.trapWritten g l c addr).lane g l = y at hcause htpc haddr hl
  constructor <;> simp only [hh, hl, hp, hi, reduceCtorEq, false_implies, forall_const, or_self, Option.some.injEq]
  case cause => exact hcause
  case pc => exact htpc
  case addr => exact haddr
  case handled => rintro _ rfl; exact ⟨rfl, rfl⟩

/-- A trap that no handler takes. -/
theorem State.trap_takes_unhandled {c : Cause} (addr : Word) (hn : l < (s.group g).lanes.length) (hh : s.holdsTrap g c.code = false)
    (hu : (s.launch (s.launchOf g)).kernel.handler = none ∨ (s.lane g l).inHandler = true) :
    TakesTrap s (s.trap g l c addr) g l c.code addr := by
  have keep : KeepsTraps g (· ≠ l) s (s.trapWritten g l c addr) := .trapWritten l c addr
  have view := State.lane_trapWritten c addr hn
  simp only [Lane.trapView, Prod.mk.injEq] at view
  obtain ⟨hpc, hin, -, -, hcause, htpc, haddr⟩ := view
  have ht : s.trap g l c addr = ((s.trapWritten g l c addr).unhandled g l c.code).stopAtBoundary g (bit1 l) := by
    rw [State.trap_of_not_held addr hh, State.deliver_unhandled _ (by rwa [keep.handler, hin])]
  have hl : (s.trap g l c addr).lane g l = ((s.trapWritten g l c addr).lane g l).stayTrapped := by
    rw [ht]
    exact State.lane_unhandled _ (keep.lt hn)
  have event (hs : (s.group g).system = false) : ∃ n, (n, .unhandledTrapInstant (s.launchOf g) c.code) ∈ (s.trap g l c addr).ag.atCycle := by
    rw [ht, ← keep.launchOf]
    exact State.unhandled_event _ (keep.system.trans hs)
  generalize (s.trapWritten g l c addr).lane g l = y at hpc hcause htpc haddr hl
  constructor
  case cause => rw [hl]; exact hcause
  case pc => rw [hl]; exact htpc
  case addr => rw [hl]; exact haddr
  case handled =>
    intro _ hi p hp
    simp [hi, hp] at hu
  case unhandled =>
    rw [hl]
    exact fun _ _ => ⟨rfl, hpc, event⟩
  case held => simp [hh]

/-- A lane takes its trap (R363 to R365). -/
theorem State.trap_takes (c : Cause) (addr : Word) (hn : l < (s.group g).lanes.length) :
    TakesTrap s (s.trap g l c addr) g l c.code addr := by
  cases hh : s.holdsTrap g c.code with
  | true => exact State.trap_takes_held addr hn hh
  | false =>
    cases hp : (s.launch (s.launchOf g)).kernel.handler with
    | none => exact State.trap_takes_unhandled addr hn hh (.inl hp)
    | some p =>
      cases hi : (s.lane g l).inHandler with
      | true => exact State.trap_takes_unhandled addr hn hh (.inr hi)
      | false => exact State.trap_takes_handled addr hn hh hp hi

end trap

/-! ### Traps in every lane of a mask -/

section trapAll
variable {s t u : State} {g l code : Nat} {addr : Word}

/-- A trap counts from an earlier state in which the lane stood as it does when it traps. -/
theorem TakesTrap.of_kept (a : KeepsTraps g (· = l) s t) (hn : l < (s.group g).lanes.length) (b : TakesTrap t u g l code addr) :
    TakesTrap s u g l code addr := by
  have view := a.lanes l rfl hn
  simp only [Lane.trapView, Prod.mk.injEq] at view
  obtain ⟨hpc, hin, -⟩ := view
  obtain ⟨bcause, bpc, baddr, bhandled, bunhandled, bheld⟩ := b
  rw [a.holdsTrap, hin, a.handler] at bhandled bunhandled
  rw [hpc, a.system, a.launchOf] at bunhandled
  rw [a.holdsTrap, hpc] at bheld
  exact ⟨bcause, bpc.trans hpc, baddr, bhandled, bunhandled, bheld⟩

/-- A taken trap stands while its lane does. -/
theorem TakesTrap.kept (a : TakesTrap s t g l code addr) (b : KeepsTraps g (· = l) t u) (hn : l < (t.group g).lanes.length) :
    TakesTrap s u g l code addr := by
  have view := b.lanes l rfl hn
  simp only [Lane.trapView, Prod.mk.injEq] at view
  obtain ⟨hpc, hin, hwait, hheld, hcause, htpc, haddr⟩ := view
  obtain ⟨acause, apc, aaddr, ahandled, aunhandled, aheld⟩ := a
  refine ⟨hcause.trans acause, htpc.trans apc, haddr.trans aaddr, ?_, ?_, ?_⟩
  · rwa [hpc, hin]
  · intro hh hu
    obtain ⟨w, p, ev⟩ := aunhandled hh hu
    exact ⟨hwait.trans w, hpc.trans p, fun hs => (ev hs).imp fun _ hq => b.events hq⟩
  · rwa [hwait, hheld, hpc]

/-- A lane that is not among those that trap stays as it is. -/
theorem KeepsTraps.foldl_trap (c : Cause) (addr : Nat → Word) {ls : List Nat} (hl : l ∉ ls) :
    KeepsTraps g (· = l) s (ls.foldl (fun s k => s.trap g k c (addr k)) s) := by
  refine .foldl (fun k hk s => (KeepsTraps.trap k c (addr k)).mono ?_) s
  rintro _ rfl rfl
  exact hl hk

theorem KeepsTraps.trapAll (m : LaneMask) (c : Cause) (addr : Nat → Word) : KeepsTraps g (fun _ => False) s (s.trapAll g m c addr) :=
  .foldl (fun k _ _ => (KeepsTraps.trap k c (addr k)).mono (fun _ => False.elim)) s

/-- Each lane that traps in turn takes its trap: the lanes before it and after it leave it alone. -/
theorem State.foldl_trap_takes (c : Cause) (addr : Nat → Word) (ls : List Nat) (hd : ls.Nodup) (hl : l ∈ ls)
    (hn : l < (s.group g).lanes.length) :
    TakesTrap s (ls.foldl (fun s k => s.trap g k c (addr k)) s) g l c.code (addr l) := by
  induction ls generalizing s with
  | nil => simp at hl
  | cons k ls ih =>
    obtain ⟨hk, hd⟩ := List.nodup_cons.mp hd
    by_cases hkl : l = k
    · subst hkl
      exact (State.trap_takes c (addr l) hn).kept (.foldl_trap c addr hk) ((KeepsTraps.trap l c (addr l)).lt hn)
    · have first : KeepsTraps g (· ≠ k) s (s.trap g k c (addr k)) := .trap k c (addr k)
      exact (ih hd ((List.mem_cons.mp hl).resolve_left hkl) (first.lt hn)).of_kept (first.mono (by rintro _ rfl; exact hkl)) hn

/-- Every lane of the mask takes the trap, between states that leave it alone before and after. -/
theorem State.trapAll_takes {m : LaneMask} {c : Cause} {addr : Nat → Word} (hm : m.getLsbD l = true) (hn : l < (s.group g).lanes.length)
    (before : KeepsTraps g (· = l) s t) (after : KeepsTraps g (· = l) (t.trapAll g m c addr) u) :
    TakesTrap s u g l c.code (addr l) := by
  have hn' : l < (t.group g).lanes.length := before.lt hn
  have taken : TakesTrap t (t.trapAll g m c addr) g l c.code (addr l) :=
    State.foldl_trap_takes c addr _ (List.nodup_range.filter _) ((mem_lanesOf m l).mpr hm) hn'
  exact (taken.kept after ((KeepsTraps.trapAll m c addr).lt hn')).of_kept before hn

end trapAll
end Sys2Proof.Machine

/-! PROOFS. Slots that decode to no instruction and instructions that lack a privilege (R141, R142): each traps in every lane of its
executing set. -/

namespace Sys2Proof.Machine

/-! ### Unassigned opcodes -/

/-- The opcodes that R140 leaves unassigned (R141). -/
def Unassigned (opc : Nat) : Prop :=
  opc = 0 ∨ (0x10 ≤ opc ∧ opc ≤ 0x1F) ∨ (0x43 ≤ opc ∧ opc ≤ 0x4F) ∨ (0x69 ≤ opc ∧ opc ≤ 0x7F) ∨ (0x9A ≤ opc ∧ opc ≤ 0x9F) ∨
    (0xAA ≤ opc ∧ opc ≤ 0xAF) ∨ 0xC0 ≤ opc

theorem fmtOf_of_unassigned {opc : Nat} (h : Unassigned opc) : fmtOf opc = none := by
  rcases h with h | h | h | h | h | h | h <;> simp (disch := omega) only [fmtOf, if_pos, if_neg]

theorem decode_of_unassigned {w : Nat} (h : Unassigned (w / 2 ^ 88 % 256)) : decode w = .error .illegalOpcode := by
  rw [decode, fmtOf_of_unassigned h]

/-! ### A slot that decodes to no instruction -/

/-- The executing set of a slot, whatever it decodes to (R137). -/
def State.slotSet (s : State) (w : Nat) : LaneMask :=
  let p := s.getP s.src (slotPr w).toNat
  s.ag.cur.lanes &&& (if slotPn w then ~~~p else p)

theorem State.getLsbD_slotSet {s : State} {w l : Nat} (hl : s.ag.cur.lanes.getLsbD l = true)
    (hp : (s.getP s.src (w / 2 ^ 85 % 8)).getLsbD l = decide (w / 2 ^ 84 % 2 = 0)) : (s.slotSet w).getLsbD l = true := by
  have hpr : (slotPr w).toNat = w / 2 ^ 85 % 8 := BitVec.toNat_ofNat ..
  have hlt : l < 32 := BitVec.lt_of_getLsbD hl
  simp only [State.slotSet, slotPn, hpr, BitVec.getLsbD_and, hl, Bool.true_and]
  obtain h0 | h1 := Nat.mod_two_eq_zero_or_one (w / 2 ^ 84)
  · rw [h0] at hp ⊢
    simpa using hp
  · rw [h1] at hp ⊢
    simpa [hlt] using hp

theorem State.illegal_illegalOpcode (s : State) (w : Nat) : s.illegal w .illegalOpcode =
    ((s.advance s.ag.cur.grp (s.ag.cur.lanes &&& ~~~s.slotSet w)).trapAll s.ag.cur.grp (s.slotSet w) .illegalOpcode (fun _ => 0)).bump := rfl

/-- The lanes of a bundle that executes are not among those that only go on. -/
theorem getLsbD_rest {m : LaneMask} (a : LaneMask) {l : Nat} (hm : m.getLsbD l = true) : (a &&& ~~~m).getLsbD l = false := by
  simp [hm]

theorem State.illegal_takes {s : State} {w l : Nat} (hl : (s.slotSet w).getLsbD l = true)
    (hn : l < (s.group s.ag.cur.grp).lanes.length) : TakesTrap s (s.illegal w .illegalOpcode) s.ag.cur.grp l 1 0 := by
  rw [State.illegal_illegalOpcode]
  exact State.trapAll_takes hl hn ((KeepsTraps.advance _).mono (by rintro _ rfl; exact getLsbD_rest _ hl)) .bump

/-- Issuing marks the lanes and the group, and moves nothing. -/
theorem KeepsTraps.issued {L : Nat → Prop} (s : State) (b : Bundle) (rest : List Todo) (bytes : List Byte) :
    KeepsTraps b.grp L s (s.issued b rest bytes) := by
  unfold State.issued
  refine KeepsTraps.trans ?_ (KeepsTraps.modGroup ?_ ?_ ?_ ?_)
  · exact .of_work rfl rfl (List.Subset.refl _)
  · exact fun _ => rfl
  · exact fun _ => rfl
  · exact fun x => Group.length_modLanes x _ _
  · intro x l _ hn
    show ((x.modLanes _ _).lane l).trapView = _
    rw [Group.lane_modLanes x _ _ l hn]
    split <;> rfl

/-- A fetched slot that decodes to no instruction is dealt with in the step that issues it (R128, R142). -/
theorem step_of_decode_error {s : State} {b : Bundle} {rest : List Todo} {bytes : List Byte} {e : DecErr}
    (htodo : s.ag.todo = .issue b :: rest) (hat : (s.group b.grp).atPc b.lanes b.pc ≠ 0) (hline : (s.group b.grp).lineAt b.pc = some bytes)
    (hdec : decode (lineSlot bytes (pcSlot b.pc)) = .error e) :
    step s = .next ((s.issued b rest bytes).illegal (lineSlot bytes (pcSlot b.pc)) e) := by
  have hissue : State.issue { s with ag := { s.ag with todo := rest } } b =
      .done ((s.issued b rest bytes).illegal (lineSlot bytes (pcSlot b.pc)) e) := by
    have hslot : State.slotAt { s with ag := { s.ag with todo := rest } } b.grp b.pc =
        some (lineWord bytes, lineSlot bytes (pcSlot b.pc)) := congrArg (Option.map _) hline
    unfold State.issue
    rw [hslot]
    dsimp only
    rw [hdec]
    exact if_neg hat
  simp only [step, State.take, htodo, hissue]

/-- A slot with an unassigned opcode traps in the lanes of its executing set (R141). -/
theorem step_takes_illegalOpcode {s : State} {b : Bundle} {rest : List Todo} {bytes : List Byte} {l w : Nat}
    (hw : w = lineSlot bytes (pcSlot b.pc)) (hn : l < (s.group b.grp).lanes.length)
    (htodo : s.ag.todo = .issue b :: rest) (hat : (s.group b.grp).atPc b.lanes b.pc ≠ 0) (hline : (s.group b.grp).lineAt b.pc = some bytes)
    (hopc : Unassigned (w / 2 ^ 88 % 256)) (hl : ((s.issued b rest bytes).slotSet w).getLsbD l = true) :
    ∃ u, step s = .next u ∧ TakesTrap s u b.grp l 1 0 := by
  subst hw
  refine ⟨_, step_of_decode_error htodo hat hline (decode_of_unassigned hopc), ?_⟩
  have issued : KeepsTraps b.grp (· = l) s (s.issued b rest bytes) := .issued s b rest bytes
  exact (State.illegal_takes hl (issued.lt hn)).of_kept issued hn

/-! ### Instructions that lack a privilege -/

section perform
variable {s : State} {h : Hdr} {i : Instr} {l : Nat}

/-- A helper lane that an instruction skips is not of its executing set (R17). -/
theorem State.beside_disjoint (hl : (s.execSet h i).getLsbD l = true) : (s.beside h i).getLsbD l = false := by
  cases hk : skipsHelpers i with
  | false => simp [State.beside, hk]
  | true =>
    simp only [State.execSet, hk, if_true, BitVec.getLsbD_and] at hl
    have hx := (Bool.and_eq_true_iff.mp hl).2
    rw [BitVec.getLsbD_not, Bool.and_eq_true_iff, Bool.not_eq_true'] at hx
    simp only [State.beside, hk, if_true, BitVec.getLsbD_and, hx.2, Bool.and_false]

theorem KeepsTraps.keepBeside {g : Nat} {L : Nat → Prop} (m k : LaneMask) : KeepsTraps g L s (s.keepBeside i m k) := by
  unfold State.keepBeside
  split
  · exact .refl s
  · exact .of_work rfl rfl (List.Subset.refl _)

theorem KeepsTraps.leaveBeside {g : Nat} {k : LaneMask} (hk : k.getLsbD l = false) : KeepsTraps g (· = l) s (s.leaveBeside g k) := by
  unfold State.leaveBeside
  split
  · exact .refl s
  · exact (KeepsTraps.advance _).mono (by rintro _ rfl; simp [hk])

/-- The checks of R142 look at the header and the group only. -/
theorem State.early_keepBeside (m k : LaneMask) (x : Group) : (s.keepBeside i m k).early h i x = s.early h i x := by
  unfold State.keepBeside
  split <;> rfl

/-- An instruction that fails checks 5 to 7 of R142 traps in the lanes of its executing set. -/
theorem State.performed_early {c : Cause} (body : Group → Nat → LaneMask → State → State) (hm : s.execSet h i ≠ 0)
    (he : s.early h i s.src = some c) : s.performed h i body =
      ((((s.advance s.ag.cur.grp (s.ag.cur.lanes &&& ~~~(s.execSet h i ||| s.beside h i))).keepBeside i (s.execSet h i) (s.beside h i)).trapAll
        s.ag.cur.grp (s.execSet h i) c (fun _ => 0)).leaveBeside s.ag.cur.grp (s.beside h i)) := by
  have he' : (s.advance s.ag.cur.grp (s.ag.cur.lanes &&& ~~~(s.execSet h i ||| s.beside h i))).early h i s.src = some c := he
  simp only [State.performed, if_neg hm, State.early_keepBeside, he']

/-- An instruction that fails checks 5 to 7 of R142 takes the trap in the lanes of its executing set. -/
theorem State.perform_takes_early {c : Cause} (body : Group → Nat → LaneMask → State → State) (hl : (s.running h i).getLsbD l = true)
    (he : (s.tag h i).early h i s.src = some c) (hn : l < s.here.lanes.length) :
    ∃ u, s.perform h i body = .next u ∧ TakesTrap s u s.ag.cur.grp l c.code 0 := by
  have hm : s.running h i ≠ 0 := by
    intro h0
    simp [h0] at hl
  refine ⟨_, rfl, ?_⟩
  rw [State.performed_early body hm (by rwa [s.tag_src]), s.tag_cur]
  refine State.trapAll_takes hl hn ?_ ((KeepsTraps.leaveBeside (State.beside_disjoint hl)).trans .bump)
  refine ((KeepsTraps.tag h i).trans ?_).trans (.keepBeside _ _)
  exact (KeepsTraps.advance _).mono (by rintro _ rfl; simp [hl])

/-- Check 5 of R142: an instruction of system mode takes PRIV outside it. -/
theorem State.perform_takes_priv (body : Group → Nat → LaneMask → State → State) (hi : needsSystem i = true) (hs : s.src.system = false)
    (hl : (s.running h i).getLsbD l = true) (hn : l < s.here.lanes.length) :
    ∃ u, s.perform h i body = .next u ∧ TakesTrap s u s.ag.cur.grp l 5 0 :=
  State.perform_takes_early (c := .priv) body hl (by simp [State.early, hi, hs]) hn

end perform

/-- `sset` to a register of system mode takes PRIV outside it (R29). -/
theorem exec_sset_takes_priv {s : State} {h : Hdr} {n : BitVec 8} {a : Src} {l : Nat} (hw : writeNeedsSystem n = true)
    (hs : s.src.system = false) (hr : Runs s h (.sset h n a)) (hl : (s.running h (.sset h n a)).getLsbD l = true)
    (hn : l < s.here.lanes.length) : ∃ u, exec (.sset h n a) s = .next u ∧ TakesTrap s u s.ag.cur.grp l 5 0 := by
  have refused : (writeNeedsSystem n && !(s.tag h (.sset h n a)).src.system) = true := by simp [hw, hs]
  refine ⟨_, State.perform_boundary _ rfl rfl hr, ?_⟩
  rw [if_pos refused]
  refine State.trapAll_takes hl hn ?_ ((KeepsTraps.stopAtBoundary _).trans .bump)
  have rest : KeepsTraps s.ag.cur.grp (· = l) (s.tag h (.sset h n a)) (s.begun h (.sset h n a)) :=
    (KeepsTraps.advance _).mono (by rintro _ rfl; exact getLsbD_rest _ hl)
  exact ((KeepsTraps.tag h _).trans rest).trans (.boundary _)

/-- Settles O6: an unassigned opcode makes the decoder refuse the slot, `halt`, `halt.stop` and the mailbox instructions fail check 5,
and `sset` looks at the mode itself; each way every lane of the executing set traps (`State.trapAll_takes`). -/
theorem unassignedOpcodesAndPrivilegeTrap : Obligations.UnassignedOpcodesAndPrivilegeTrap := by
  intro s b rest bytes l hn
  refine ⟨fun htodo hat hline hopc hl hp => ?_, fun h nb d a n x box src i hgrp hs hl _ hi => ?_⟩
  · exact step_takes_illegalOpcode rfl hn htodo hat hline hopc (State.getLsbD_slotSet hl hp)
  · rw [← hgrp] at hn ⊢
    rcases hi with rfl | rfl | rfl | rfl | ⟨rfl, hreg, hr⟩
    · exact State.perform_takes_priv _ rfl hs hl hn
    · exact State.perform_takes_priv _ rfl hs hl hn
    · exact State.perform_takes_priv _ rfl hs hl hn
    · exact State.perform_takes_priv _ rfl hs hl hn
    · exact exec_sset_takes_priv (by rcases hreg with rfl | rfl <;> rfl) hs hr hl hn

end Sys2Proof.Machine
